-- ==== Sys2Proof/Word.lean ====
section
/-! DEFINITION. The word types of the SH6496: bytes, 16-, 32- and 64-bit words (R14 to R16), as bit vectors. -/

namespace Sys2Proof

/-- One byte. -/
abbrev Byte := BitVec 8

/-- A 16-bit quantity, such as a status code (R19). -/
abbrev Half := BitVec 16

/-- A 32-bit register (R16). -/
abbrev Word := BitVec 32

/-- A 64-bit quantity, two consecutive registers (R16). -/
abbrev DWord := BitVec 64

/-- A string of octets, first octet first. -/
abbrev Bytes := List Byte

end Sys2Proof
end

