-- ==== Sys2Proof/Machine/Bytes.lean ====
section
/-! DEFINITION. Octet strings: the byte orders of R15, the two CRCs the spec states (R189, R413), field access. -/

namespace Sys2Proof.Machine

/-- The `n` octets of a natural number, least significant first. -/
def leNat : Nat → Nat → Bytes
  | 0, _ => []
  | n + 1, v => BitVec.ofNat 8 v :: leNat n (v / 256)

/-- The `n` octets of a natural number, most significant first. -/
def beNat (n v : Nat) : Bytes := (leNat n v).reverse

/-- The number that an octet string spells, least significant octet first. -/
def ofLE : Bytes → Nat
  | [] => 0
  | b :: bs => b.toNat + 256 * ofLE bs

/-- The number that an octet string spells, most significant octet first. -/
def ofBE (bs : Bytes) : Nat := ofLE bs.reverse

/-- A bit vector's octets, least significant first (R15, host side). -/
def le {w : Nat} (n : Nat) (v : BitVec w) : Bytes := leNat n v.toNat

/-- A bit vector's octets, most significant first (R15, wire side). -/
def be {w : Nat} (n : Nat) (v : BitVec w) : Bytes := beNat n v.toNat

/-- `n` zero octets. -/
def zeros (n : Nat) : Bytes := List.replicate n 0#8

/-- The string cut or zero-filled on the right to exactly `n` octets. -/
def fit (n : Nat) (bs : Bytes) : Bytes := (bs ++ zeros n).take n

/-- `n` octets from offset `off`, zero past the end. -/
def slice (off n : Nat) (bs : Bytes) : Bytes := fit n (bs.drop off)

/-- The octet at an offset, zero past the end. -/
def octet (off : Nat) (bs : Bytes) : Byte := bs.getD off 0#8

/-- A little-endian field of `n` octets at an offset. -/
def fieldLE (w off n : Nat) (bs : Bytes) : BitVec w := BitVec.ofNat w (ofLE (slice off n bs))

/-- A big-endian field of `n` octets at an offset. -/
def fieldBE (w off n : Nat) (bs : Bytes) : BitVec w := BitVec.ofNat w (ofBE (slice off n bs))

/-- Every octet is zero. -/
def allZero (bs : Bytes) : Bool := bs.all (· == 0#8)

/-- Every octet of the half-open range [lo, hi) is zero. -/
def zeroRange (lo hi : Nat) (bs : Bytes) : Bool := allZero (slice lo (hi - lo) bs)

/-- The octets of an ASCII text (the customisation strings of R49, R76, R93, R158). -/
def ascii (s : String) : Bytes := s.toList.map fun c => BitVec.ofNat 8 c.toNat

/-- One octet into a CRC-32C register, reflected (R413). -/
def crc32cByte (crc : Word) (b : Byte) : Word :=
  (List.range 8).foldl
    (fun c _ => if c.getLsbD 0 then (c >>> 1) ^^^ 0x82F63B78#32 else c >>> 1)
    (crc ^^^ b.setWidth 32)

/-- CRC-32C over an octet string: polynomial 0x1EDC_6F41 reflected, initial value and final XOR all ones (R413). -/
def crc32c (bs : Bytes) : Word := (bs.foldl crc32cByte 0xFFFFFFFF#32) ^^^ 0xFFFFFFFF#32

/-- One octet into a CRC-16 register, not reflected (R189). -/
def crc16Byte (crc : Half) (b : Byte) : Half :=
  (List.range 8).foldl
    (fun c _ => if c.getLsbD 15 then (c <<< 1) ^^^ 0x1021#16 else c <<< 1)
    (crc ^^^ (b.setWidth 16 <<< 8))

/-- The CRC-16 of the time-of-day message: polynomial 0x1021, initial value 0xFFFF (R189). -/
def crc16 (bs : Bytes) : Half := bs.foldl crc16Byte 0xFFFF#16

end Sys2Proof.Machine
end

