-- ==== Sys2Proof/Machine/State/Common.lean ====
section
/-! DEFINITION. Issuers, the places a completion goes to, and what a command was refused with (R19, R66, R338). -/

namespace Sys2Proof.Machine

/-- Who issues a job or a command (R66, R84): a slice's ring, a recipe at level N running for a slice, the manager at
level H, or the secure world. -/
inductive Issuer where
  | slice (s : BitVec 6)
  | n (s : BitVec 6)
  | h
  | s
  deriving DecidableEq, Repr

/-- The level a register access comes from (R29, R491): the secure world, a context at the H level, the host link under
the manager's PASID, any other host requester, or an N-level context. -/
inductive Accessor where
  | s
  | h (ctx : BitVec 7)
  | manager
  | host (slice : Option (BitVec 6))
  | n (ctx : BitVec 7)
  deriving DecidableEq, Repr

/-- Where the completion of a job goes: a ring of a slice (R332), an internal queue of a context (R262), a command
register block, or the device itself. -/
inductive Origin where
  | ring (slice : BitVec 6) (ring : BitVec 4) (index : BitVec 32)
  | queue (ctx : BitVec 7) (q : BitVec 2) (index : BitVec 32)
  | regs
  | device
  deriving DecidableEq, Repr

/-- An engine's class, coded as WSK_ENG_SEL.CLASS (Table 6.11). -/
inductive EngClass where
  | pool
  | cipher
  | bn
  | lane
  deriving DecidableEq, Repr

/-- One piece of a job's source (R329): space, address, length. -/
structure Fragment where
  space : BitVec 2
  addr : DWord
  len : DWord
  deriving DecidableEq, Repr

/-- A range of space 2 as a job translated it when it started (R259, R288): for writing or for reading, its first virtual
address, its length, its first physical address, and the intermediate page of an N job that it lies in. -/
structure Reach where
  write : Bool
  va : Nat
  len : Nat
  pa : Nat
  page : Option Nat
  deriving DecidableEq, Repr

/-- A job or command as it is submitted: its issuer, the slice it is charged to (R258), where its completion goes, its
48 B job block (R324), its source in order (R329), and the octets that host memory delivers for the source, in the
order in which the device reads them. A job that has started holds its translations (R259), and while a segment of it ends
that took the previous epoch, that epoch (R353). -/
structure Submission where
  issuer : Issuer
  charge : Option (BitVec 6)
  origin : Origin
  block : Bytes
  source : List Fragment
  host : Bytes
  reach : Option (List Reach) := none
  old : Bool := false
  deriving DecidableEq, Repr

/-- A 16-bit status code and its 8-bit detail code (R19, R69). -/
structure Verdict where
  status : Half
  detail : Byte
  deriving DecidableEq, Repr

/-- A completion that a job or command was given: its verdict, CFLAGS.HALF_LIMIT of R59, and its 64-bit result. -/
structure Completion where
  origin : Origin
  verdict : Verdict
  half : Bool
  result : DWord
  deriving DecidableEq, Repr

/-- One write that the device makes into host memory (R312): the slice it is for, the PASID it carries, its address and its
octets. -/
structure HostWrite where
  slice : Option (BitVec 6)
  pasid : Option (BitVec 20)
  addr : DWord
  data : Bytes
  deriving DecidableEq, Repr

namespace St
/-- Status codes of Table 11.11. -/
abbrev ok : Half := 0x0000#16
abbrev malformed : Half := 0x0101#16
abbrev chainBroken : Half := 0x0102#16
abbrev lengthShort : Half := 0x0103#16
abbrev lengthLong : Half := 0x0104#16
abbrev ladleRange : Half := 0x0105#16
abbrev handleInvalid : Half := 0x0201#16
abbrev attrDenied : Half := 0x0202#16
abbrev keyExhausted : Half := 0x0203#16
abbrev keyExpired : Half := 0x0204#16
abbrev quorumRequired : Half := 0x0205#16
abbrev imageRollback : Half := 0x0206#16
abbrev scalarZero : Half := 0x0301#16
abbrev scalarRange : Half := 0x0302#16
abbrev coordRange : Half := 0x0303#16
abbrev pointInvalid : Half := 0x0304#16
abbrev pointInfinity : Half := 0x0305#16
abbrev modulusInvalid : Half := 0x0306#16
abbrev operandRange : Half := 0x0307#16
abbrev redundancyFail : Half := 0x0309#16
abbrev entropyNotReady : Half := 0x0401#16
abbrev entropyFail : Half := 0x0402#16
abbrev abortedQuiesce : Half := 0x0501#16
abbrev svcUnavailable : Half := 0x0502#16
abbrev logHold : Half := 0x0503#16
abbrev timeUntrusted : Half := 0x0504#16
abbrev accessFault : Half := 0x0505#16
abbrev refusedClosed : Half := 0x0601#16
abbrev refusedNotOpen : Half := 0x0602#16
abbrev refusedBusy : Half := 0x0603#16
abbrev refusedLogHold : Half := 0x0604#16
abbrev refusedTime : Half := 0x0605#16
abbrev refusedFormat : Half := 0x0606#16
end St

/-- The verdict OK. -/
abbrev Verdict.ok : Verdict := ⟨St.ok, 0#8⟩

end Sys2Proof.Machine
end

