-- ==== Sys2Proof/Syntax.lean ====
section
/-! DEFINITION. The commands that the outside world gives the block: one constructor for each row of the spec's table
of operations and events, with the operands the event carries. -/

namespace Sys2Proof

open Machine

/-- The outcome of the Start-up self-test (R446 step 4): the engines that fail their known-answer test, and whether a
shared SRAM instance fails its march test. -/
structure SelfTest where
  failed : List (EngClass × Byte)
  sram : Bool
  deriving DecidableEq, Repr

/-- One event of a tamper source in a cycle (R389): the source, the cause and the detail of Table 14.4. -/
structure TamperHit where
  source : BitVec 6
  cause : Byte
  detail : Word
  deriving DecidableEq, Repr

/-- What a recipe access meets at the L2 (R246): a line present, or a miss, which makes the context wait. -/
inductive L2Access where
  | hit
  | miss
  deriving DecidableEq, Repr

/-- A memory request from the host link (R309 to R311): BAR0 or BAR2, read or write, offset, PASID if any, the octets
of a write or the length of a read, whether it is poisoned (R313), and the octets of the request whose byte enable is off
(R335). -/
structure HostReq where
  bar2 : Bool
  write : Bool
  addr : BitVec 26
  pasid : Option (BitVec 20)
  data : Bytes
  len : Nat
  poisoned : Bool
  offBytes : List Nat := []
  deriving DecidableEq, Repr

/-- The device request that fails (R313): one of a job, an entry fetch of a ring or the fetch of an entry again (R325), a
completion write of a ring, a write of a slice's seal buffer. -/
inductive DmaCause where
  | job (id : Nat)
  | sealBuffer (slice : BitVec 6) (ring : BitVec 4)
  | fetch (slice : BitVec 6) (ring : BitVec 4)
  | refetch (slice : BitVec 6) (ring : BitVec 4)
  | completion (slice : BitVec 6) (ring : BitVec 4)
  deriving DecidableEq, Repr

/-- What one station's scan finds (R362): card switch closed, the keys closed, the touch count. -/
structure Scan where
  present : Bool
  keys : List (BitVec 4)
  touch : Byte
  deriving DecidableEq, Repr

/-- What a card exchange comes to (R364): the response APDU is complete, or a block of it has failed, by its LRC, its form or
its waiting time. -/
inductive CardReply where
  | response (bytes : Bytes)
  | failedBlock
  deriving DecidableEq, Repr

/-- An instruction shifted into the test access port (R484). -/
inductive DebugCode where
  | bypass
  | idcode
  | sample
  | extest
  | other (code : Nat)
  deriving DecidableEq, Repr


/-- The commands of the block: one constructor for each row of the table of operations and events, in its order. -/
inductive Instr where
  /-- VIN_APPLIED (R446). -/
  | vinApplied (test : SelfTest)
  /-- VIN_LOST (R440). -/
  | vinLost
  /-- START_UP_END (R446). -/
  | startUpEnd
  /-- TL_WAIT_EXPIRY (R446). -/
  | tlWaitExpiry
  /-- KERNEL_READY_TIMEOUT (R446). -/
  | kernelReadyTimeout
  /-- NON_TAMPER_FATAL (R443). -/
  | nonTamperFatal (cause arg : Byte)
  /-- DEVICE_RESET (R449). -/
  | deviceReset (who : Accessor) (value : Word) (test : SelfTest)
  /-- TAMPER_HOLD_RESET (R449). -/
  | tamperHoldReset (test : SelfTest)
  /-- MOD_CTL_FATAL (R459). -/
  | modCtlFatal (who : Accessor) (value : Word)
  /-- TAMPER_EVENT (R394). -/
  | tamperEvent (events : List TamperHit) (badRows : List Byte)
  /-- ERASE_COMPLETE (R398). -/
  | eraseComplete
  /-- TMP_TEST_GO (R409). -/
  | tmpTestGo (who : Accessor) (value : Word)
  /-- TMP_TEST_END (R409). -/
  | tmpTestEnd
  /-- TMP_SRC_CFG_WRITE (R393). -/
  | tmpSrcCfgWrite (who : Accessor) (value : Word)
  /-- VBAT_SAMPLE (R396). -/
  | vbatSample (mv : Half)
  /-- CAP_LOW_RECORD (R402). -/
  | capLowRecord
  /-- COLANDER_SPAN_CLOSE (R143). -/
  | colanderSpanClose (group : BitVec 4) (bits : Bytes) (trims : List (BitVec 6))
  /-- RETRIM_DONE (R145). -/
  | retrimDone (group : BitVec 4) (trims : List (BitVec 6))
  /-- GROUP_SETTLED (R155). -/
  | groupSettled (group : BitVec 4) (trims : List (BitVec 6))
  /-- COLANDER_READY (R155). -/
  | colanderReady
  /-- SEED_FAIL_TIMEOUT (R155). -/
  | seedFailTimeout
  /-- ENTROPY_REQUEST_SERVE (R149). -/
  | entropyRequestServe (raw : Option (BitVec 4 × Bytes))
  /-- PRIV_TIMEOUT (R154). -/
  | privTimeout
  /-- NOT_SEEDED_TIMEOUT (R154). -/
  | notSeededTimeout
  /-- DRBG_BACKGROUND_RESEED (R151). -/
  | drbgBackgroundReseed (slice : BitVec 6)
  /-- RESEED_TIMEOUT (R153). -/
  | reseedTimeout (slice : BitVec 6)
  /-- RANDOM (R156). -/
  | random (sub : Submission)
  /-- DRAW (R158). -/
  | draw (sub : Submission)
  /-- CREATE (R67). -/
  | create (sub : Submission)
  /-- GENERATE (R67). -/
  | generate (sub : Submission)
  /-- NEXTGEN (R67). -/
  | nextGen (sub : Submission)
  /-- NARROW (R67). -/
  | narrow (sub : Submission)
  /-- DESTROY (R68). -/
  | destroy (sub : Submission)
  /-- DESTROY_SWEEP_DONE (R68). -/
  | destroySweepDone (owner : Byte)
  /-- QUERY (R67). -/
  | query (sub : Submission)
  /-- PROVE (R76). -/
  | prove (sub : Submission)
  /-- PIN (R70). -/
  | pin (sub : Submission)
  /-- UNPIN (R70). -/
  | unpin (sub : Submission)
  /-- IMG_SEAL (R73). -/
  | imgSeal (sub : Submission)
  /-- IMG_LOAD (R74). -/
  | imgLoad (sub : Submission)
  /-- IMG_COMMIT (R73). -/
  | imgCommit (sub : Submission)
  /-- IMG_UNLOAD (R67). -/
  | imgUnload (sub : Submission)
  /-- KT_TBL_IDX_WRITE (R55). -/
  | ktTblIdxWrite (who : Accessor) (value : Word)
  /-- DIGEST (R85). -/
  | digest (sub : Submission)
  /-- MAC_GEN (R85). -/
  | macGen (sub : Submission)
  /-- MAC_VERIFY (R91). -/
  | macVerify (sub : Submission)
  /-- CTX_SAVE (R92). -/
  | ctxSave (sub : Submission)
  /-- CTX_RESTORE (R94). -/
  | ctxRestore (sub : Submission)
  /-- TAP (R95). -/
  | tap (sub : Submission)
  /-- TAP_CLOSE (R96). `stream`: of tap 0, the octets read from BOOT since it opened; the block sees the streams of the others
  itself. -/
  | tapClose (tap : BitVec 2) (stream : Bytes)
  /-- RCPT_CHECK (R242). -/
  | rcptCheck (sub : Submission)
  /-- CIPHER_ENCRYPT (R98). -/
  | cipherEncrypt (sub : Submission)
  /-- CIPHER_DECRYPT (R101). -/
  | cipherDecrypt (sub : Submission)
  /-- CIPHER_MAC_GEN (R98). -/
  | cipherMacGen (sub : Submission)
  /-- CIPHER_MAC_VERIFY (R101). -/
  | cipherMacVerify (sub : Submission)
  /-- WRAP (R98). -/
  | wrap (sub : Submission)
  /-- UNWRAP (R101). -/
  | unwrap (sub : Submission)
  /-- MASK_RESEED_REQUEST (R105). -/
  | maskReseedRequest (engine : BitVec 7)
  /-- MASK_RESEED (R105). -/
  | maskReseed (engine : BitVec 7)
  /-- CIPHER_STALL (R106). -/
  | cipherStall (engine : BitVec 7)
  /-- SIGN (R116). -/
  | sign (sub : Submission)
  /-- VERIFY (R116). -/
  | verify (sub : Submission)
  /-- AGREE (R116). -/
  | agree (sub : Submission)
  /-- ENCAP (R116). -/
  | encap (sub : Submission)
  /-- RSA_DECRYPT (R116). -/
  | rsaDecrypt (sub : Submission)
  /-- RSA_ENCRYPT (R116). -/
  | rsaEncrypt (sub : Submission)
  /-- PUBLIC (R123). -/
  | publicKey (sub : Submission)
  /-- REPEAT_COMPARE (R129). -/
  | repeatCompare (job : Nat) (equal : Bool)
  /-- NO_PAIR_TIMEOUT (R131). -/
  | noPairTimeout (job : Nat)
  /-- PRIME_GENERATION (R127). `e1`, `e2`: the engines of the generation and of its check. `ok`: no fault of the hardware has
  made the check fail. -/
  | primeGeneration (job : Nat) (e1 e2 : BitVec 6) (ok : Bool)
  /-- SCRUB_DONE (R137). -/
  | scrubDone (cls : EngClass) (engine : Byte) (clean : Bool)
  /-- FRAME_START (R168). -/
  | frameStart
  /-- ENGINE_DISPATCH (R171). -/
  | engineDispatch (cls : EngClass) (engine : Byte)
  /-- SEGMENT_BOUNDARY (R108). `used`: the cycles that the sender has counted; the block computes its charge itself
  (assumption 14). -/
  | segmentBoundary (cls : EngClass) (engine : Byte) (used : Nat)
  /-- CHUNK_BOUNDARY (R138). `used`, `done`: the cycles that the sender has counted and whether it takes the chunk for the
  run's last; the block knows its program itself (assumption 14). -/
  | chunkBoundary (engine : Byte) (used : Nat) (done : Bool)
  /-- QUARANTINE_END (R182). -/
  | quarantineEnd (cls : EngClass) (engine : Byte)
  /-- ECC_ERROR_ENGINE (R181). -/
  | eccErrorEngine (cls : EngClass) (engine : Byte) (uncorrectable : Bool)
  /-- ECC_ERROR_SHARED (R181). -/
  | eccErrorShared (inst : BitVec 4) (line : Nat) (slice : BitVec 6) (index : BitVec 20) (uncorrectable : Bool)
  /-- LCRC_ERROR (R181). -/
  | lcrcError
  /-- RSFEC_UNCORRECTABLE (R181). -/
  | rsfecUncorrectable (port : BitVec 4)
  /-- STREAM_LOSS_OF_LOCK (R241). -/
  | streamLossOfLock (port : BitVec 4)
  /-- AUDIT_FRAME_ERROR (R181). -/
  | auditFrameError (port : Bool)
  /-- AUDIT_LOSS_OF_LOCK (R431). -/
  | auditLossOfLock (port : Bool)
  /-- PPS_EDGE (R190). -/
  | ppsEdge (ref : Bool) (interval : Nat) (freqOk : Bool)
  /-- TOD_MESSAGE_CLOSE (R191). -/
  | todMessageClose (ref : Bool) (run : Option Bytes) (onTime : Bool) (offset : Int)
  /-- EDGE_MISSING (R191). -/
  | edgeMissing (ref : Bool)
  /-- REFERENCE_FAIL (R198). -/
  | referenceFail
  /-- HOLDOVER_EXPIRY (R199). -/
  | holdoverExpiry
  /-- TL_NOW_LO_READ (R193). -/
  | tlNowLoRead (who : Accessor)
  /-- CAL_ADD (R202). -/
  | calAdd (who : Accessor)
  /-- CAL_CANCEL (R204). -/
  | calCancel (who : Accessor)
  /-- CAL_READ (R208). -/
  | calRead (who : Accessor)
  /-- CALENDAR_DISPATCH (R204). -/
  | calendarDispatch
  /-- WAGER_FRAME_RECEIVE (R210). -/
  | wagerFrameReceive (port : BitVec 4) (frame : Bytes) (arrival : DWord)
  /-- WAGER_DECIDE (R224). -/
  | wagerDecide (port : BitVec 4)
  /-- STAMP_MAC_COMPARE (R230). -/
  | stampMacCompare (stamp : Nat) (equal : Bool)
  /-- RECEIPT_TRANSMIT (R211). -/
  | receiptTransmit (port : BitVec 4)
  /-- STAMP_USE_BLOCK_TAKE (R229). -/
  | stampUseBlockTake (market : BitVec 17)
  /-- STAMP_KEY_PREPARE (R240). -/
  | stampKeyPrepare (market : BitVec 17)
  /-- SEAL_SIGNATURE_DONE (R236). -/
  | sealSignatureDone (market : BitVec 17) (pq : Bool)
  /-- MK_ADD (R218). -/
  | mkAdd (who : Accessor)
  /-- MK_SETCLOSE (R218). -/
  | mkSetClose (who : Accessor)
  /-- MK_REMOVE (R218). -/
  | mkRemove (who : Accessor)
  /-- MK_READ (R218). -/
  | mkRead (who : Accessor)
  /-- MK_PORT_ENABLE_WRITE (R220). -/
  | mkPortEnableWrite (who : Accessor) (value : Word)
  /-- MK_PORT_RESTORE (R241). -/
  | mkPortRestore (who : Accessor) (value : Word)
  /-- MK_LOCK_WRITE (R244). -/
  | mkLockWrite (who : Accessor) (value : Word)
  /-- ADD (R250). -/
  | add (ctx : BitVec 7) (w : Word)
  /-- SUB (R250). -/
  | sub (ctx : BitVec 7) (w : Word)
  /-- AND (R250). -/
  | and (ctx : BitVec 7) (w : Word)
  /-- OR (R250). -/
  | or (ctx : BitVec 7) (w : Word)
  /-- XOR (R250). -/
  | xor (ctx : BitVec 7) (w : Word)
  /-- SLL (R250). -/
  | sll (ctx : BitVec 7) (w : Word)
  /-- SRL (R250). -/
  | srl (ctx : BitVec 7) (w : Word)
  /-- SRA (R250). -/
  | sra (ctx : BitVec 7) (w : Word)
  /-- CMPS (R250). -/
  | cmps (ctx : BitVec 7) (w : Word)
  /-- CMPU (R250). -/
  | cmpu (ctx : BitVec 7) (w : Word)
  /-- MUL (R250). -/
  | mul (ctx : BitVec 7) (w : Word)
  /-- MULH (R250). -/
  | mulh (ctx : BitVec 7) (w : Word)
  /-- QUOU (R250). -/
  | quou (ctx : BitVec 7) (w : Word)
  /-- MODU (R250). -/
  | modu (ctx : BitVec 7) (w : Word)
  /-- MINU (R250). -/
  | minu (ctx : BitVec 7) (w : Word)
  /-- MAXU (R250). -/
  | maxu (ctx : BitVec 7) (w : Word)
  /-- ADDI (R249). -/
  | addi (ctx : BitVec 7) (w : Word)
  /-- ANDI (R249). -/
  | andi (ctx : BitVec 7) (w : Word)
  /-- ORI (R249). -/
  | ori (ctx : BitVec 7) (w : Word)
  /-- XORI (R249). -/
  | xori (ctx : BitVec 7) (w : Word)
  /-- CMPI (R249). -/
  | cmpi (ctx : BitVec 7) (w : Word)
  /-- CMPIU (R249). -/
  | cmpiu (ctx : BitVec 7) (w : Word)
  /-- SLLI (R249). -/
  | slli (ctx : BitVec 7) (w : Word)
  /-- SRLI (R249). -/
  | srli (ctx : BitVec 7) (w : Word)
  /-- SRAI (R249). -/
  | srai (ctx : BitVec 7) (w : Word)
  /-- IMMH (R249). -/
  | immh (ctx : BitVec 7) (w : Word)
  /-- SHORI (R249). -/
  | shori (ctx : BitVec 7) (w : Word)
  /-- LB (R251). -/
  | lb (ctx : BitVec 7) (w : Word) (l2 : L2Access)
  /-- LBU (R251). -/
  | lbu (ctx : BitVec 7) (w : Word) (l2 : L2Access)
  /-- LH (R251). -/
  | lh (ctx : BitVec 7) (w : Word) (l2 : L2Access)
  /-- LHU (R251). -/
  | lhu (ctx : BitVec 7) (w : Word) (l2 : L2Access)
  /-- LW (R251). -/
  | lw (ctx : BitVec 7) (w : Word) (l2 : L2Access)
  /-- LWU (R251). -/
  | lwu (ctx : BitVec 7) (w : Word) (l2 : L2Access)
  /-- LD (R251). -/
  | ld (ctx : BitVec 7) (w : Word) (l2 : L2Access)
  /-- KLD (R249). -/
  | kld (ctx : BitVec 7) (w : Word) (l2 : L2Access)
  /-- SB (R251). -/
  | sb (ctx : BitVec 7) (w : Word) (l2 : L2Access)
  /-- SH (R251). -/
  | sh (ctx : BitVec 7) (w : Word) (l2 : L2Access)
  /-- SW (R251). -/
  | sw (ctx : BitVec 7) (w : Word) (l2 : L2Access)
  /-- SD (R251). -/
  | sd (ctx : BitVec 7) (w : Word) (l2 : L2Access)
  /-- KST (R249). -/
  | kst (ctx : BitVec 7) (w : Word) (l2 : L2Access)
  /-- LINK (R252). -/
  | link (ctx : BitVec 7) (w : Word) (l2 : L2Access)
  /-- CLAIM (R252). -/
  | claim (ctx : BitVec 7) (w : Word) (l2 : L2Access)
  /-- XCHG (R252). -/
  | xchg (ctx : BitVec 7) (w : Word) (l2 : L2Access)
  /-- FADD (R252). -/
  | fadd (ctx : BitVec 7) (w : Word) (l2 : L2Access)
  /-- FAND (R252). -/
  | fand (ctx : BitVec 7) (w : Word) (l2 : L2Access)
  /-- FOR (R252). -/
  | amoFor (ctx : BitVec 7) (w : Word) (l2 : L2Access)
  /-- CAS (R252). -/
  | cas (ctx : BitVec 7) (w : Word) (l2 : L2Access)
  /-- LINK_WATCH_EXPIRY (R252). -/
  | linkWatchExpiry (ctx : BitVec 7)
  /-- FENCE (R253). -/
  | fence (ctx : BitVec 7) (w : Word)
  /-- BEQ (R249). -/
  | beq (ctx : BitVec 7) (w : Word)
  /-- BNE (R249). -/
  | bne (ctx : BitVec 7) (w : Word)
  /-- BLT (R249). -/
  | blt (ctx : BitVec 7) (w : Word)
  /-- BGE (R249). -/
  | bge (ctx : BitVec 7) (w : Word)
  /-- BLTU (R249). -/
  | bltu (ctx : BitVec 7) (w : Word)
  /-- BGEU (R249). -/
  | bgeu (ctx : BitVec 7) (w : Word)
  /-- JAL (R249). -/
  | jal (ctx : BitVec 7) (w : Word)
  /-- JALR (R249). -/
  | jalr (ctx : BitVec 7) (w : Word)
  /-- KFROMG (R254). -/
  | kfromg (ctx : BitVec 7) (w : Word)
  /-- KTOG (R249). -/
  | ktog (ctx : BitVec 7) (w : Word)
  /-- SRR (R256). -/
  | srr (ctx : BitVec 7) (w : Word)
  /-- SRW (R256). -/
  | srw (ctx : BitVec 7) (w : Word)
  /-- SRR64 (R256). -/
  | srr64 (ctx : BitVec 7) (w : Word)
  /-- SRW64 (R256). -/
  | srw64 (ctx : BitVec 7) (w : Word)
  /-- JQPOST (R260). -/
  | jqpost (ctx : BitVec 7) (w : Word) (host : List Bytes)
  /-- JQINV (R261). -/
  | jqinv (ctx : BitVec 7) (w : Word)
  /-- JQWAIT (R263). -/
  | jqwait (ctx : BitVec 7) (w : Word)
  /-- TLREAD (R264). -/
  | tlread (ctx : BitVec 7) (w : Word)
  /-- TLWAIT (R265). -/
  | tlwait (ctx : BitVec 7) (w : Word)
  /-- EVWAIT (R266). -/
  | evwait (ctx : BitVec 7) (w : Word)
  /-- GATE (R291). -/
  | gate (ctx : BitVec 7) (w : Word)
  /-- GPAD (R293). -/
  | gpad (ctx : BitVec 7) (w : Word)
  /-- GRET (R293). -/
  | gret (ctx : BitVec 7) (w : Word)
  /-- NOP (R249). -/
  | nop (ctx : BitVec 7) (w : Word)
  /-- YIELD (R249). -/
  | yield (ctx : BitVec 7) (w : Word)
  /-- HALT (R249). -/
  | halt (ctx : BitVec 7) (w : Word)
  /-- BRK (R268). -/
  | brk (ctx : BitVec 7) (w : Word)
  /-- CONTEXT_WAKE (R246). -/
  | contextWake (ctx : BitVec 7)
  /-- CTX_START (R269). -/
  | ctxStart (ctx : BitVec 7)
  /-- CTX_RESUME (R269). -/
  | ctxResume (ctx : BitVec 7)
  /-- CTX_RESET (R269). -/
  | ctxReset (ctx : BitVec 7)
  /-- VERSION (R295). -/
  | version (ctx : BitVec 7)
  /-- ADMIT (R273). -/
  | admitImage (ctx : BitVec 7) (stream : Bytes)
  /-- ADMISSION_DEADLINE (R274). -/
  | admissionDeadline
  /-- PORT (R295). -/
  | portService (ctx : BitVec 7)
  /-- KERNEL_LOAD (R302). -/
  | kernelLoad (images : List Bytes)
  /-- SW_CTL_KICK (R304). -/
  | swCtlKick (who : Accessor) (value : Word)
  /-- SW_CTL_READY (R306). -/
  | swCtlReady (who : Accessor) (value : Word)
  /-- SW_CTL_RESTART (R305). -/
  | swCtlRestart (who : Accessor) (value : Word)
  /-- WATCHDOG_EXPIRY (R304). -/
  | watchdogExpiry
  /-- SECURE_WORLD_RESTART (R306). -/
  | secureWorldRestart (images : List Bytes)
  /-- RESTART_READY_TIMEOUT (R306). -/
  | restartReadyTimeout
  /-- MOD_WMARK_WRITE (R280). -/
  | modWmarkWrite (who : Accessor) (value : Word)
  /-- SLC_S2_ENT_WRITE (R287). -/
  | slcS2EntWrite (who : Accessor) (value : Word)
  /-- S2_CHANGE_COMPLETE (R288). -/
  | s2ChangeComplete (slice page : BitVec 6)
  /-- HOST_REQUEST (R311). -/
  | hostRequest (req : HostReq)
  /-- DMA_FAILURE (R313). -/
  | dmaFailure (cause : DmaCause) (addr : BitVec 64) (write ats : Bool)
  /-- DMA_TIMEOUT (R313). -/
  | dmaTimeout (cause : DmaCause) (addr : BitVec 64) (write : Bool)
  /-- ATS_INVALIDATION (R312). -/
  | atsInvalidation
  /-- D3HOT_ENTRY (R315). -/
  | d3hotEntry
  /-- D0_RETURN (R315). -/
  | d0Return
  /-- LINK_RESET (R451). -/
  | linkReset (discarded : List Nat)
  /-- SLC_PASID_ENT_WRITE (R316). -/
  | slcPasidEntWrite (who : Accessor) (value : Word)
  /-- SLC_MGR_PASID_WRITE (R317). -/
  | slcMgrPasidWrite (who : Accessor) (value : Word)
  /-- SLICE_ACTIVATE (R318). -/
  | sliceActivate (who : Accessor)
  /-- SLICE_QUIESCE (R319). -/
  | sliceQuiesce (who : Accessor)
  /-- SLICE_UNQUIESCE (R318). -/
  | sliceUnquiesce (who : Accessor)
  /-- QUIESCE_DRAIN_TIMEOUT (R319). -/
  | quiesceDrainTimeout (slice : BitVec 6)
  /-- SLICE_QUIESCED (R319). -/
  | sliceQuiesced (slice : BitVec 6)
  /-- SLICE_RESET (R320). -/
  | sliceReset (who : Accessor)
  /-- SLICE_RESET_DONE (R320). -/
  | sliceResetDone (slice : BitVec 6)
  /-- SLICE_REMOVE (R321). -/
  | sliceRemove (who : Accessor)
  /-- SLICE_REMOVED (R321). -/
  | sliceRemoved (slice : BitVec 6)
  /-- RING_ENABLE (R322). -/
  | ringEnable (who : Accessor) (slice : BitVec 6) (ring : BitVec 4)
  /-- RING_DISABLE (R322). -/
  | ringDisable (who : Accessor) (slice : BitVec 6) (ring : BitVec 4)
  /-- SQ_DOORBELL (R323). -/
  | sqDoorbell (who : Accessor) (slice : BitVec 6) (ring : BitVec 4) (value : Word)
  /-- CQ_HEAD_WRITE (R323). -/
  | cqHeadWrite (who : Accessor) (slice : BitVec 6) (ring : BitVec 4) (value : Word)
  /-- ENTRY_FETCH (R325). -/
  | entryFetch (slice : BitVec 6) (ring : BitVec 4) (entry : Bytes) (host : Bytes)
  /-- ENTRY_REFETCH (R325). -/
  | entryRefetch (slice : BitVec 6) (ring : BitVec 4) (entry : Bytes) (host : Bytes)
  /-- NOT_OWNED_TIMEOUT (R325). -/
  | notOwnedTimeout (slice : BitVec 6) (ring : BitVec 4)
  /-- COALESCE_TIMEOUT (R333). -/
  | coalesceTimeout (slice : BitVec 6) (ring : BitVec 4)
  /-- LDL_SPLIT_WRITE (R334). -/
  | ldlSplitWrite (who : Accessor) (value : Word)
  /-- STAGE_RULE (R351). -/
  | stageRule (who : Accessor)
  /-- STAGE_WIN (R351). -/
  | stageWin (who : Accessor)
  /-- STR_COMMIT (R352). -/
  | strCommit (who : Accessor)
  /-- STR_DISCARD (R356). -/
  | strDiscard (who : Accessor)
  /-- STR_DRAIN_END (R354). -/
  | strDrainEnd
  /-- STR_COMMIT_STALL (R355). -/
  | strCommitStall
  /-- STR_FLT_STS_CLEAR (R360). -/
  | strFltStsClear (who : Accessor) (value : Word)
  /-- SCAN_TICK (R362). -/
  | scanTick (scans : List Scan)
  /-- CARD_ACTIVATE (R364). -/
  | cardActivate (who : Option Accessor) (station : BitVec 3) (atr : Option Bytes)
  /-- ATR_TIMEOUT (R364). -/
  | atrTimeout (station : BitVec 3)
  /-- CARD_DEACTIVATE (R364). -/
  | cardDeactivate (who : Accessor) (station : BitVec 3)
  /-- APDU_SEND (R364). -/
  | apduSend (who : Accessor) (station : BitVec 3)
  /-- APDU_DONE (R364). -/
  | apduDone (station : BitVec 3) (reply : CardReply)
  /-- CARD_OVERCURRENT (R486). -/
  | cardOvercurrent (station : BitVec 3)
  /-- CUS_EVT_POP (R369). -/
  | cusEvtPop (who : Accessor)
  /-- CUS_CLR_OVF (R369). -/
  | cusClrOvf (who : Accessor)
  /-- CEREMONY_REQUEST (R377). -/
  | ceremonyRequest (ctx : BitVec 7)
  /-- WINDOW_REQUEST (R377). -/
  | windowRequest (ctx : BitVec 7)
  /-- WINDOW_CLOSE (R385). -/
  | windowClose (ctx : BitVec 7)
  /-- CER_CANCEL (R378). -/
  | cerCancel (ctx : BitVec 7)
  /-- CEREMONY_START (R378). -/
  | ceremonyStart
  /-- TURN_STEP (R374). -/
  | turnStep
  /-- TURN_STEP_TIMEOUT (R374). -/
  | turnStepTimeout (station : BitVec 3)
  /-- CEREMONY_STEP_TIMEOUT (R378). -/
  | ceremonyStepTimeout
  /-- CEREMONY_TIMEOUT (R378). -/
  | ceremonyTimeout
  /-- CANCEL_HELD (R378). -/
  | cancelHeld (station : BitVec 3)
  /-- CODE_DISPLAY_END (R379). -/
  | codeDisplayEnd
  /-- GENERATION_STEP (R381). -/
  | generationStep
  /-- CEREMONY_END (R378). -/
  | ceremonyEnd
  /-- DA_CREATE (R379). -/
  | daCreate
  /-- DA_RESHARE (R379). -/
  | daReshare
  /-- KERNEL_ADMIT (R379). -/
  | kernelAdmit
  /-- FUSE_BURN (R407). -/
  | fuseBurn
  /-- OWNER_CREATE (R379). -/
  | ownerCreate
  /-- OWNER_DELETE (R48). -/
  | ownerDelete
  /-- EVIDENCE_CLEAR (R406). -/
  | evidenceClear (test : SelfTest)
  /-- SERVICE_ENTER (R379). -/
  | serviceEnter
  /-- RECOVERY_EXIT (R444). -/
  | recoveryExit (test : SelfTest)
  /-- WINDOW_OPEN (R383). -/
  | windowOpen
  /-- OWNER_RESHARE (R379). -/
  | ownerReshare
  /-- ADMIT_KEY (R379). -/
  | admitKey
  /-- RECOMMISSION (R379). -/
  | recommission (test : SelfTest)
  /-- WINDOW_END (R385). -/
  | windowEnd (window : BitVec 4)
  /-- LOG_RECORD_ACCEPT (R414). -/
  | logRecordAccept
  /-- SIDE_BUFFER_DRAIN (R426). -/
  | sideBufferDrain
  /-- LOG_START (R422). -/
  | logStart
  /-- STK_SEAL_SIGNED (R423). `failed`: the signature has failed. -/
  | stkSealSigned (failed : Bool)
  /-- FREEZE (R428). -/
  | freeze (who : Accessor)
  /-- THAW (R428). -/
  | thaw (who : Accessor)
  /-- FREEZE_TIMEOUT (R428). -/
  | freezeTimeout
  /-- BLUEX_FRAME_RECEIVE (R433). -/
  | bluexFrameReceive (port : Bool) (frame : Bytes)
  /-- BLUEX_VERIFY_DONE (R433). -/
  | bluexVerifyDone
  /-- PROVE_REQ (R436). -/
  | proveReq
  /-- MEAS_REQ (R436). -/
  | measReq
  /-- CHECKKEY_REQ (R436). -/
  | checkkeyReq
  /-- HELLO_TIMER (R432). -/
  | helloTimer (port : Bool) (gained : Bool)
  /-- EXPORT_DATA (R434). -/
  | exportData
  /-- ACK_TIMEOUT (R434). -/
  | ackTimeout
  /-- AUD_ENABLE_SET (R439). -/
  | audEnableSet (who : Accessor)
  /-- AUD_ENABLE_CLEAR (R439). -/
  | audEnableClear (who : Accessor)
  /-- PWR_COMMIT (R456). -/
  | pwrCommit (who : Accessor)
  /-- PWR_DISCARD (R456). -/
  | pwrDiscard (who : Accessor)
  /-- PWR_HOLD_WRITE (R453). -/
  | pwrHoldWrite (who : Accessor) (value : Word)
  /-- GROUP_DRAINED (R453). -/
  | groupDrained (group : BitVec 5)
  /-- GROUP_DRAIN_TIMEOUT (R453). -/
  | groupDrainTimeout (group : BitVec 5)
  /-- GROUP_SCRUB_DONE (R453). -/
  | groupScrubDone (group : BitVec 5)
  /-- GROUP_OFF_MIN_ELAPSED (R453). -/
  | groupOffMinElapsed (group : BitVec 5)
  /-- GROUP_WAKE_DONE (R454). -/
  | groupWakeDone (group : BitVec 5)
  /-- MGMT_PRIVATE_WRITE (R483). -/
  | mgmtPrivateWrite (bytes : Bytes)
  /-- MGMT_PRIVATE_READ (R483). -/
  | mgmtPrivateRead
  /-- MGMT_DYNAMIC_ADDRESS (R482). -/
  | mgmtDynamicAddress (setdasa : Bool) (static_ : BitVec 7) (addr : BitVec 7)
  /-- DEBUG_TAP_INSTRUCTION (R484). -/
  | debugTapInstruction (code : DebugCode)
  /-- IO_RAIL_OVERLOAD (R473). -/
  | ioRailOverload (vo33 : Bool)
  /-- IO_RAIL_RETRY (R473). -/
  | ioRailRetry (vo33 : Bool)
  /-- HEARTBEAT_TOGGLE (R485). -/
  | heartbeatToggle
  /-- REGISTER_WRITE (R491). -/
  | registerWrite (who : Accessor) (addr : BitVec 26) (value : Word)
  /-- PCIE_CONFIGURATION_REQUEST (R474). -/
  | pcieConfigurationRequest (write : Bool) (offset : BitVec 12) (value : Word)
  /-- HOST_LINK_UP (R314). -/
  | hostLinkUp (speed : BitVec 4) (width : BitVec 5)
  /-- STREAM_BLOCK_LOCK (R314). -/
  | streamBlockLock (port : BitVec 4)
  /-- TEMPERATURE_SAMPLE (R390). -/
  | temperatureSample (t0 t1 : BitVec 12)
  /-- CAPACITOR_RECHARGED (R402). -/
  | capacitorRecharged
  /-- VBAT_LOST (R403). -/
  | vbatLost
  /-- REFUSED_DISPLAY_END (R380). -/
  | refusedDisplayEnd
  deriving DecidableEq, Repr

end Sys2Proof
end

