-- ==== Sys2Proof/Decode.lean ====
section
/-! DEFINITION. Commands spelled as words. -/

namespace Sys2Proof

/-- The command that a word of the table spells. No row of the table of operations and events gives its command any
bits: they are events, not words, so no word spells one. -/
def decodeTableWord (_nbits _w : Nat) : Option Instr := none

end Sys2Proof
end

