-- ==== Sys2Proof/Config.lean ====
section
/-! DEFINITION. What one device fixes and what the spec leaves open: the device identity, constants of the
engines that no table gives, and the free values. -/

namespace Sys2Proof

/-- Rounds of the Miller-Rabin test on a number of so many bits (R52): the spec gives none (assumption 90). -/
opaque Config.mrRounds : Nat → Nat

/-- Cycles of a big-number operation that Table 4.8 does not list: opcode, ALG, octets of an RSA modulus (assumption 14). -/
opaque Config.bnCycles : Byte → Byte → Nat → Nat

/-- Chunks that RSA prime generation takes after its first, by the octets of the modulus and the seed (R127): the spec says
only that the seed fixes them (assumption 14). -/
opaque Config.primeChunks : Nat → Bytes → Nat

/-- The state under which a restored slot restarts, by its ALG and its saved STATE: Table 3.4 does not carry the inner pad
state of an HMAC, nor the keyed state of a KMAC (assumption 82). -/
opaque Config.restoredPad : Byte → Bytes → Bytes

/-- The fixed 32 B representative of the pairwise consistency check (R127): the spec gives no value (assumption 90). -/
opaque Config.pctRepresentative : Bytes

/-- The free value number `n`, `w` bits wide: a value the spec leaves open. Nothing constrains it (assumption 4). -/
opaque Config.freeBits : (w : Nat) → Nat → BitVec w

/-- DEVICE_SERIAL of the device identity (R6; assumption 62). -/
opaque Config.deviceSerial : DWord

/-- The device identity word of MOD_IDENT that the factory fixes (R6; assumption 62). -/
opaque Config.deviceIdent : Word

/-- Offsets in configuration space of the capabilities that the base specification leaves to the device: power
management, PCI Express, MSI-X, ATS, PASID (R309; assumption 40). -/
opaque Config.capPm : BitVec 12
opaque Config.capPcie : BitVec 12
opaque Config.capMsix : BitVec 12
opaque Config.capAts : BitVec 12
opaque Config.capPasid : BitVec 12

/-- The reset value of a byte of configuration space, and the bits of it that a request can write (R309; assumption 40). -/
opaque Config.pciReset : Nat → Byte
opaque Config.pciMask : Nat → Byte

/-- The kernel's font (R368): the segments of position `i` of a text (assumption 52). -/
opaque Config.font : String → Nat → BitVec 15

/-- How ARG1 of a turn's record spells its outcome and its INDEX (R387): the spec gives no encoding (assumption 53). -/
opaque Config.turnArg : String → Byte → DWord

/-- The reading of VIN in mV at a device time (TMP_VIN, Table 14.8): no command carries one (assumption 43). -/
opaque Config.vinReading : Nat → Half

/-- ECLK cycles from a reset to the good rails that release SIGNAL1 (R452), by the device time of the reset
(assumption 47). -/
opaque Config.railsGood : Nat → Nat

/-- At a device time, a line of recipe memory that a context has not had before misses the L2 (R246): the spec gives the L2's
size and not what it holds (assumption 89). -/
opaque Config.l2Miss : Nat → Nat → Bool

/-- The 11 bits of the JEP106 identifier in IDCODE (R484; assumption 62). -/
opaque Config.jep106 : BitVec 11

end Sys2Proof
end

