-- ==== Sys2Proof/Machine/Sparse.lean ====
section
/-! DEFINITION. Sparse tables: a list of (key, value) pairs in one canonical form. Keys rise strictly and no entry
holds the value that an unlisted key reads as, so equal tables are equal lists. -/

namespace Sys2Proof.Machine

/-- What a key reads as: its entry, or the default. -/
def sparseGet {V : Type} (d : V) : List (Nat × V) → Nat → V
  | [], _ => d
  | (k, v) :: t, key => if key = k then v else sparseGet d t key

/-- Insert, replace or (for the default value) remove an entry, keeping the keys rising. -/
def sparseSet {V : Type} [DecidableEq V] (d : V) : List (Nat × V) → Nat → V → List (Nat × V)
  | [], key, v => if v = d then [] else [(key, v)]
  | (k, x) :: t, key, v =>
    if key < k then (if v = d then (k, x) :: t else (key, v) :: (k, x) :: t)
    else if key = k then (if v = d then t else (key, v) :: t)
    else (k, x) :: sparseSet d t key v

/-- The canonical form: keys rise strictly from `lo` and no entry holds the default. -/
def sparseWf {V : Type} [DecidableEq V] (d : V) : Nat → List (Nat × V) → Bool
  | _, [] => true
  | lo, (k, v) :: t => decide (lo ≤ k) && (!decide (v = d)) && sparseWf d (k + 1) t

/-- Keep the entries whose key and value pass a test. -/
def sparseFilter {V : Type} (p : Nat → V → Bool) (t : List (Nat × V)) : List (Nat × V) :=
  t.filter fun e => p e.1 e.2

/-- Rewrite every entry's value, dropping an entry that becomes the default. -/
def sparseMap {V : Type} [DecidableEq V] (d : V) (f : Nat → V → V) (t : List (Nat × V)) : List (Nat × V) :=
  (t.map fun e => (e.1, f e.1 e.2)).filter fun e => !decide (e.2 = d)

/-- Memory: the bytes of an address space that differ from zero. An unlisted byte reads as 0 (assumption 5). -/
abbrev Mem := List Host.Cell

/-- One byte of a memory. -/
def memByte (m : Mem) (a : Nat) : Byte := sparseGet 0#8 m a

/-- Write one byte of a memory. -/
def memSetByte (m : Mem) (a : Nat) (b : Byte) : Mem := sparseSet 0#8 m a b

/-- `n` bytes from an address upward. -/
def memRead (m : Mem) : Nat → Nat → Bytes
  | _, 0 => []
  | a, n + 1 => memByte m a :: memRead m (a + 1) n

/-- Write bytes from an address upward. -/
def memWrite (m : Mem) (a : Nat) : Bytes → Mem
  | [] => m
  | b :: bs => memWrite (memSetByte m a b) (a + 1) bs

/-- Zero the bytes of the half-open range [lo, hi): their entries go. -/
def memZero (m : Mem) (lo hi : Nat) : Mem := m.filter fun e => e.1 < lo || hi ≤ e.1

/-- The canonical form of a memory. -/
def memWf (m : Mem) : Bool := sparseWf 0#8 0 m

end Sys2Proof.Machine
end

