-- ==== Sys2Proof/Machine/State/Colander.lean ====
section
/-! DEFINITION. State of Colander (05): groups and cells, output blocks, channels, waiting requests. -/

namespace Sys2Proof.Machine

/-- STATE of a group (Table 5.14). -/
inductive GroupState where
  | settling
  | qualifying
  | running
  | retrim
  deriving DecidableEq, Repr

/-- One group of 16 cells (R141, Table 5.14). `span` numbers the group's open span, `blocks` are the provisional
output blocks that slice channels have taken from it (R148), and `since` is the ECLK cycle at which the span began, or the
group came to SETTLING or RETRIM. -/
structure Group where
  state : GroupState
  lastCell : BitVec 4
  lastTest : BitVec 4
  fails : Half
  span : Nat
  blocks : List Bytes
  since : Nat
  deriving DecidableEq, Repr

/-- A group after reset. -/
def Group.reset : Group :=
  { state := .settling, lastCell := 0, lastTest := 0, fails := 0, span := 0, blocks := [], since := 0 }

/-- One latch cell: its trim, 32 at the start (R155), the transitions of its last closed span, its last sample and the
length of the run of identical samples that it ends (R144), and its samples since its trim moved, 4,096 at most (R141). -/
structure Cell where
  trim : BitVec 6
  still : BitVec 13
  trans : BitVec 13
  last : Option Bool
  run : Nat
  deriving DecidableEq, Repr

/-- A cell after reset. -/
def Cell.reset : Cell := { trim := 32, still := 0, trans := 0, last := none, run := 0 }

/-- STATE of a slice channel (R152). -/
inductive ChannelState where
  | uninst
  | ready
  | stopped
  deriving DecidableEq, Repr

/-- One slice's CTR_DRBG (Table 5.3, Table 5.16). `prov` names the group and span of a provisional block that the last
reseed took while that span is open. `key` is the DRBG's secret state. -/
structure Channel where
  state : ChannelState
  reseedPend : Bool
  prov : Option (BitVec 4 × Nat)
  reqs : BitVec 13
  reseeds : Word
  lastReseed : Nat
  key : Bytes
  deriving DecidableEq, Repr

/-- A channel that is not instantiated. -/
def Channel.reset : Channel :=
  { state := .uninst, reseedPend := false, prov := none, reqs := 0, reseeds := 0, lastReseed := 0, key := [] }

/-- The four privileged channels (Table 5.2), in their service order. -/
inductive Priv where
  | key
  | draw
  | nonce
  | blind
  deriving DecidableEq, Repr

/-- What a waiting Colander request is for (Table 5.2). -/
inductive Want where
  /-- A mask generator's 512-bit seed. -/
  | mask (engine : BitVec 7)
  /-- Octets of a privileged channel, with those taken so far. -/
  | priv (ch : Priv) (octets : Nat) (got : Bytes)
  /-- A reseed of a slice's channel, and the octets to generate after it; `fresh` asks for a verified block (prediction
  resistance and instantiation, R151, R155). -/
  | slice (s : BitVec 6) (octets : Nat) (fresh : Bool)
  deriving DecidableEq, Repr

/-- What the device draws octets of a privileged channel for, outside any job (Table 5.2): Kboot, the boot nonce of the log,
the roots and coefficients of a generation, the encapsulation of a check key, the challenge of a turn at a station. -/
inductive DevUse where
  | kboot
  | bootNonce
  | generation
  | checkKey
  | challenge (station : Nat)
  deriving DecidableEq, Repr

/-- A request that waits at Colander (R154), its arrival in device time, and the job it belongs to or the use that the device
itself makes of it (neither for a background reseed, an instantiation or a mask seed). -/
structure Request where
  want : Want
  since : Nat
  job : Option Nat
  use : Option DevUse
  deriving DecidableEq, Repr

/-- Colander. -/
structure Colander where
  /-- ECLK cycle at which Colander started. -/
  began : Nat
  ready : Bool
  seedFail : Bool
  fatal : Bool
  /-- Groups qualified since device reset: bit g. -/
  qualified : BitVec 16
  /-- Groups by number; an unlisted group reads as `Group.reset`. -/
  groups : List (Nat × Group)
  /-- Cells by device-wide number; an unlisted cell reads as `Cell.reset`. -/
  cells : List (Nat × Cell)
  /-- The verified queue, oldest first, at most 64 blocks. -/
  verified : List Bytes
  /-- Device times of the tainted spans of the last second (R146). -/
  taints : List Nat
  blocks : DWord
  tainted : Word
  draws : Word
  /-- Slice channels by slice. -/
  channels : List (Nat × Channel)
  /-- Residues of the privileged channels KEY, DRAW, NONCE, BLIND (R149). -/
  residues : List (Priv × Bytes)
  /-- The privileged channel served last. -/
  lastPriv : Priv
  /-- Waiting requests in arrival order. -/
  waiting : List Request
  /-- Octets that the device has drawn and not used yet. -/
  served : List (DevUse × Bytes)
  /-- First slice of the tie order of class 3, rotated at each frame boundary (R149). -/
  rot : BitVec 6
  deriving DecidableEq, Repr

/-- The requests of a device reset (R155): every slice channel's instantiation and every mask generator's seed. -/
def seedRequests (now : Nat) : List Request :=
  ((List.range 64).map fun i => { want := .slice (BitVec.ofNat 6 i) 0 true, since := now, job := none, use := none }) ++
  (List.range 128).map fun i => { want := .mask (BitVec.ofNat 7 i), since := now, job := none, use := none }

/-- Colander at a device reset. -/
def Colander.reset (now : Nat) : Colander :=
  { began := now, ready := false, seedFail := false, fatal := false, qualified := 0, groups := [], cells := [], verified := [],
    taints := [], blocks := 0, tainted := 0, draws := 0, channels := [], residues := [], lastPriv := .blind,
    waiting := seedRequests now, served := [], rot := 0 }

end Sys2Proof.Machine
end

