-- ==== Sys2Proof/Machine/State/Custodians.lean ====
section
/-! DEFINITION. State of the custodian stations, the share combiner, ceremonies and quorum windows (13). -/

namespace Sys2Proof.Machine

/-- CUS_STN_STS.CARD (Table 13.17). -/
inductive CardState where
  | off
  | activating
  | active
  | fault
  deriving DecidableEq, Repr

/-- Where a custodian turn stands: the step number of Table 13.8 (quorum), of R382 (enrolment) or of P2. -/
inductive TurnKind where
  | quorum
  | presence
  | enrol
  deriving DecidableEq, Repr

/-- What a turn waits for: the card's activation, the answer to one command of Table 13.2, a key, or the end of its
session. -/
inductive TurnStep where
  | activating
  | selecting
  | identifying
  | authenticating
  | pin
  | verifying
  | newPin
  | again
  | approving
  | sharing
  /-- Its card is deactivated; its share waits for the combiner (step 7). -/
  | filling
  /-- A cipher engine makes its blob (R382 step 5). -/
  | wrapping
  | putting
  | rechecking
  | closing
  /-- The turn is over while an exchange of its card goes on; END_SESSION follows. -/
  | ending
  deriving DecidableEq, Repr

/-- A custodian turn in progress (R374, R382): what it waits for, the parts its ceremony had left when it began, the owner, M, N
and AGEN of that part's authority, the identity its card gave, the digits entered so far, the first of the two new PIN
entries, the challenge, the INDEX that an enrolment has taken, its place in the order in which the ceremony's turns reached
step 7 (R376), the share blob, the cipher engine's work on a blob that is in progress and what the last gave (R373, R382),
and whether its closing session completes it. -/
structure Turn where
  kind : TurnKind
  step : TurnStep
  part : Nat
  owner : Byte
  m : Nat
  n : Nat
  agen : Word
  serial : DWord
  index : Byte
  enrolled : Bool
  pin : List (BitVec 4)
  newPin : List (BitVec 4)
  challenge : Bytes
  place : Nat
  blob : Bytes
  work : Option Nat
  result : Option (Option Bytes)
  won : Bool
  deriving DecidableEq, Repr

/-- What a station has settled with its card (Table 13.1): Fi and Di, the card's and the device's information field sizes, CWI
and BWI as TB of T=1 gives them; and the failed blocks of the exchange in progress. -/
structure CardLink where
  fi : Nat
  di : Nat
  ifsc : Byte
  ifsd : Byte
  waits : Byte
  failures : Nat
  deriving DecidableEq, Repr

/-- The values that hold before an ATR and a negotiation change them. PRESUMED: ISO/IEC 7816-3's (assumption 50). -/
def CardLink.default : CardLink := { fi := 372, di := 1, ifsc := 32, ifsd := 32, waits := 0x4D, failures := 0 }

/-- A custodian station. -/
structure Station where
  enable : Bool
  auto : Bool
  duty : BitVec 4
  buzz : Byte
  touchTh : Byte
  /-- The last 10 presence samples, newest first (R363), and the debounced presence. -/
  samples : List Bool
  present : Bool
  /-- Scans a key has shown closed or open, by key code (R367): the key that closes and its count, the keys held. -/
  closing : Option (BitVec 4 × Nat)
  pressed : Option (BitVec 4)
  openScans : Nat
  touchVal : Byte
  touchCount : Nat
  touch : Bool
  card : CardState
  classB : Bool
  cause : BitVec 4
  /-- Scans since the card dropped out: CARD_FAULT DROPOUT if the debounced state stays present (R363). -/
  dropout : Option Nat
  link : CardLink
  apduBuf : Bytes
  /-- The secret fields of the buffer, which read zero (R382). -/
  secret : Bytes
  apduLen : BitVec 9
  rLen : BitVec 9
  busy : Bool
  done : Bool
  err : Bool
  overflow : Bool
  show_ : Vector (BitVec 15) 9
  /-- What the kernel shows here when no notice covers it: the text, and the indicator lines of position 8 (R368). -/
  text : String
  lamp : BitVec 3
  turn : Option Turn
  deriving DecidableEq, Repr

/-- A station at device reset. -/
def Station.reset : Station :=
  { enable := false, auto := false, duty := 0, buzz := 0, touchTh := 0x80, samples := [], present := false,
    closing := none, pressed := none, openScans := 0, touchVal := 0, touchCount := 0, touch := false, card := .off,
    classB := false, cause := 0, dropout := none, link := CardLink.default, apduBuf := [], secret := [], apduLen := 0, rLen := 0,
    busy := false, done := false, err := false, overflow := false, show_ := Vector.replicate 9 0, text := "", lamp := 0,
    turn := none }

/-- An event of the station FIFO (CUS_EVT), and whether touch was present in its tick (R367). -/
structure StnEvent where
  station : BitVec 3
  kind : BitVec 4
  key : BitVec 4
  tick : Half
  touch : Bool
  deriving DecidableEq, Repr

/-- An authority record in Trivet (Table 13.5). -/
structure Authority where
  agen : Word
  pendAgen : Word
  m : BitVec 4
  n : BitVec 4
  admitKeys : Vector Word 4
  deriving DecidableEq, Repr

/-- The record of an owner without an authority. -/
def Authority.none : Authority := { agen := 0, pendAgen := 0, m := 0, n := 0, admitKeys := Vector.replicate 4 0 }

/-- One part of a ceremony (R379). -/
inductive Part where
  | c
  | q (o : Byte)
  | p2
  | g
  | e (o : Byte)
  | v (o : Byte)
  | x
  deriving DecidableEq, Repr

/-- Who asked for a ceremony or window: the level and, for N, the slice (R377). -/
inductive Requester where
  | n (s : BitVec 6)
  | h
  | s
  deriving DecidableEq, Repr

/-- A queued or running ceremony request: identifier, requester, descriptor (64 B, or 32 B for a window). -/
structure CerRequest where
  id : Word
  who : Requester
  desc : Bytes
  window : Bool
  deriving DecidableEq, Repr

/-- The running ceremony (R378): its request, the parts still to run, the running one first, and what its generation
drew. -/
structure Ceremony where
  request : CerRequest
  parts : List Part
  /-- Roots that G drew for a new owner. -/
  drawn : List (BitVec 10)
  generated : Bool
  /-- The outcome with which the ceremony is to end, once its X has run or a part has failed. -/
  ending : Option (BitVec 3)
  /-- By the number of parts left: SERIALs whose turns are complete, INDEX values taken by enrolments, and INDEX values
  collected. -/
  seen : List (Nat × DWord)
  assigned : List (Nat × Byte)
  collected : List (Nat × Byte)
  /-- Turns that have reached step 7 (R376). -/
  places : Nat
  deriving DecidableEq, Repr

/-- A quorum window (R383). -/
structure QWindow where
  owner : Byte
  admits : BitVec 2
  levels : BitVec 3
  handle : Word
  sliceMask : DWord
  unlimited : Bool
  budget : Word
  end_ : DWord
  tag : Word
  who : Requester
  deriving DecidableEq, Repr

/-- The custodian stations and the ceremonies. -/
structure Custodians where
  stations : List (Nat × Station)
  fifo : List StnEvent
  ovf : Bool
  /-- Events of cards since the last scan tick, which enter the FIFO with that tick's (R369): station, kind, cause. -/
  due : List (BitVec 3 × BitVec 4 × BitVec 4)
  tick : Half
  /-- Share registers of the combiner: INDEX and share (R373). -/
  combiner : List (Byte × Bytes)
  /-- The shares that G computed, by INDEX, awaiting enrolment (R381). -/
  shares : List (Byte × Bytes)
  requests : List CerRequest
  running : Option Ceremony
  nextId : Word
  lastOutcome : BitVec 3
  lastCer : Byte
  windows : List (Nat × QWindow)
  /-- The H copy of CUS_WIN_SEL (R388). -/
  winSelH : BitVec 4
  /-- The notice that every station shows with red lit for 5 s: REFUSED, ABORTED or TIMEOUT (R378, R380). -/
  banner : Option String
  deriving DecidableEq, Repr

/-- The custodian stations at a device reset. -/
def Custodians.reset : Custodians :=
  { stations := [], fifo := [], ovf := false, due := [], tick := 0, combiner := [], shares := [], requests := [],
    running := none, nextId := 1, lastOutcome := 0, lastCer := 0, windows := [], winSelH := 0,
    banner := none }

end Sys2Proof.Machine
end

