-- ==== Sys2Proof/Machine/State/Engines.lean ====
section
/-! DEFINITION. State of the engines, their jobs and Whisk (03, 04, 06): digest slots, taps, cipher and big-number
engines, job queues, balances, fault counts. -/

namespace Sys2Proof.Machine

/-- Whether an engine may work (R182, R183): online, quarantined until a device time, past its quarantine and
waiting for the next frame start, or retired. -/
inductive Health where
  | online
  | quarantined (until_ : Nat)
  | rejoining
  | retired
  deriving DecidableEq, Repr

/-- A segment or chunk that an engine runs (R169): its job, which of the job's two runs it serves, the slice it is
charged to, whether it is owned, its reservation, the frame it started in, whether it is device-class work, whether
an urgent stamp computation was inserted (R176), and, for a lattice chunk's companion, that it is one (R124). -/
structure Segment where
  job : Nat
  second : Bool
  slice : Option (BitVec 6)
  owned : Bool
  reservation : Nat
  frame : DWord
  device : Bool
  inserted : Bool
  companion : Bool
  /-- Device time at which it started. -/
  began : Nat
  /-- Cycles of its work (R170), and cycles for which it has held its engine stalled or under an insertion. -/
  cycles : Nat
  off : Nat
  /-- Strainer has landed a commit since it started, so it is judged under the epoch before (R353). -/
  old : Bool := false
  /-- An ATS invalidation waits for its requests (R312). -/
  awaited : Bool := false
  deriving DecidableEq, Repr

/-- One of the 384 engines. Fields of another class keep their reset values. -/
structure Engine where
  health : Health
  /-- Retirement cause (Table 6.11). -/
  cause : BitVec 3
  /-- Device times of the compare mismatches, uncorrectable and corrected errors inside the 60 s window (R181). -/
  mism : List Nat
  ue : List Nat
  ce : List Nat
  running : Option Segment
  /-- The tap a pool engine holds (R96). -/
  tap : Option (BitVec 2)
  /-- The lane engine a pool engine stands for, or is to stand for at its next boundary (R184). -/
  substFor : Option (BitVec 5)
  /-- Key register: 512 bits of a digest engine, of which a cipher engine has 256; tweak-key register; and the key register
  of the urgent context (R103, R176). -/
  key : BitVec 512
  tweak : BitVec 256
  urgentKey : BitVec 512
  /-- Calls of a digest engine, chunks of a big-number engine, since device reset. -/
  calls : DWord
  /-- Cipher: blocks since the last reseed, reseed requested, reseeds, stall time, stalled since, stalled segment. -/
  maskCnt : BitVec 25
  reseedPend : Bool
  reseeds : Word
  stallNs : Word
  stalled : Option Nat
  seeded : Bool
  /-- Blocks of the segment in progress that are counted already, as a stall counts them (R106). -/
  segDone : Nat
  /-- The mask generator's sponge as its last absorption left it, and the seed that has come and is not absorbed (R105). -/
  maskGen : Bytes
  seedIn : Option Bytes
  /-- Big-number: the job resident in each context area, lattice mode, mismatches, scrubs, scrubbing. -/
  areas : Vector (Option Nat) 4
  lattice : Bool
  mismatches : Word
  scrubs : Word
  scrubbing : Bool
  scrubFailed : Bool
  /-- Big-number operand memory, 64 KiB (R113). -/
  opmem : List (Nat × Byte)
  /-- The number of the free value that the other words of an area hold, as a program's intermediates leave them (R136). -/
  work : Vector (Option Nat) 4
  /-- Stamp computations waiting in a lane queue or running (R175), by stamp number. -/
  lane : List Nat
  deriving DecidableEq, Repr

/-- An engine at a device reset. -/
def Engine.reset : Engine :=
  { health := .online, cause := 0, mism := [], ue := [], ce := [], running := none, tap := none, substFor := none,
    key := 0, tweak := 0, urgentKey := 0, calls := 0, maskCnt := 0, reseedPend := false, reseeds := 0,
    stallNs := 0, stalled := none, seeded := false, segDone := 0, maskGen := zeros 200, seedIn := none,
    areas := Vector.replicate 4 none, lattice := false, mismatches := 0, scrubs := 0, scrubbing := false,
    scrubFailed := false, opmem := [], work := Vector.replicate 4 none, lane := [] }

/-- STATE of a digest context slot (R87). -/
inductive SlotState where
  | empty
  | open_
  | finished
  deriving DecidableEq, Repr

/-- A digest context slot (R87): algorithm, key or policy handle, import mark, the state after key load, the chaining
state, the partial block, the byte count, the output length. -/
structure Slot where
  state : SlotState
  alg : Byte
  handle : Word
  imported : Bool
  keyState : Bytes
  chain : Bytes
  buf : Bytes
  count : DWord
  outLen : Half
  deriving DecidableEq, Repr

/-- An EMPTY slot. -/
def Slot.empty : Slot :=
  { state := .empty, alg := 0, handle := 0, imported := false, keyState := [], chain := [], buf := [], count := 0,
    outLen := 0 }

/-- A snoop tap (Table 3.6, R96): the job that opened it (none for an admission or the loader), whether it is open, whether it is
parked, its engine having left service with no other to take it, the engine that serves it, the bytes seen, the 4 KiB buffer,
what of the stream the full buffer holds up, and the digest of what has left the buffer. -/
structure Tap where
  job : Option Nat
  isOpen : Bool
  parked : Bool
  engine : Byte
  bytes : DWord
  buffer : Bytes
  held : Bytes
  digest : Slot
  deriving DecidableEq, Repr

/-- A closed tap. -/
def Tap.closed : Tap := { job := none, isOpen := false, parked := false, engine := 0, bytes := 0, buffer := [], held := [], digest := Slot.empty }

/-- What a companion expands for a lattice run (R124, R125): rejection sampling of a seed by a kind of FIPS 203 or 204, or a
number of octets that need none. -/
inductive Expansion where
  /-- SampleNTT: SHAKE128, values below 3,329. -/
  | ntt (seed : Bytes)
  /-- RejNTTPoly: SHAKE128, values below 8,380,417. -/
  | rej (seed : Bytes)
  /-- RejBoundedPoly: SHAKE256, values in [−η, η]. -/
  | bounded (eta : Nat) (seed : Bytes)
  /-- So many octets of the output of a SHA-3 or SHAKE function, by its ALG of Table 3.1. -/
  | octets (alg : Byte) (n : Nat) (seed : Bytes)
  deriving DecidableEq, Repr

/-- A lattice run's stream: the expansions to come, the one in progress first; the companion's Keccak state, held between
chunks; the 2 KiB stream buffer; and what the engine has taken of the expansion in progress. -/
structure Stream where
  todo : List Expansion
  keccak : Option Bytes
  buffer : Bytes
  taken : Nat
  deriving DecidableEq, Repr

/-- No stream. -/
def Stream.empty : Stream := { todo := [], keccak := none, buffer := [], taken := 0 }

/-- Device-class work (R33, R34): on the big-number engines, the signature of a Stockpot seal (R424), the verification of a
regulator frame (R433); on the cipher engines, the share blob of a station's turn, unwrapped or wrapped (R373, R382). -/
inductive DevWork where
  | stkSeal
  | regFrame
  | share (station : BitVec 3)
  deriving DecidableEq, Repr

/-- One run of a big-number operation (R129): the engine, its first area and how many it has, the chunks done and the chunks
of its program, its validation status, and for a lattice run its companion's stream and the pool engine that is
its companion in the chunk in progress, or was in its last. -/
structure Run where
  engine : BitVec 6
  base : BitVec 2
  areas : BitVec 2
  chunks : Nat
  total : Nat
  stream : Stream
  companion : Option Byte
  done : Bool
  status : Half
  /-- Octets of output in the working space of its areas. -/
  outLen : Nat
  deriving DecidableEq, Repr

/-- Where a job stands. -/
inductive Stage where
  /-- It waits for Colander (R154). -/
  | entropy
  /-- It waits for the slot or tap of an earlier job (R89, R96), or for the log hold to clear (R158). -/
  | blocked
  /-- It waits in a Whisk queue for its next segment. -/
  | queued
  /-- One of its segments runs. -/
  | running
  deriving DecidableEq, Repr

/-- A draw that a job makes at Colander before it starts (R121, R151, R158): so many octets of a privileged channel,
or of a slice's channel, reseeded first from a verified block if `fresh`. -/
inductive Draw where
  | priv (ch : Priv) (octets : Nat)
  | slice (s : BitVec 6) (octets : Nat) (fresh : Bool)
  deriving DecidableEq, Repr

/-- A job or key-tree command that was accepted and has not completed. -/
structure Job where
  id : Nat
  sub : Submission
  cls : EngClass
  stage : Stage
  home : Nat
  /-- Draws still to make, the one in progress first. -/
  draws : List Draw
  /-- Values drawn (R100, R121). -/
  rand : Bytes
  /-- The octets of the auxiliary or parameter area as read at job start; of a wrapping job its A register (R107). -/
  aux : Bytes
  /-- Work done: calls (digest), octets or steps of a wrapping job (cipher), chunks granted (big-number). -/
  pos : Nat
  /-- The first segment has started: the counted use is taken, the source read, the output formed. -/
  started : Bool
  half : Bool
  key : Bytes
  key2 : Bytes
  payload : Bytes
  output : Bytes
  result : DWord
  run1 : Option Run
  run2 : Option Run
  /-- Engines of an earlier, mismatched pair (R130). -/
  excluded : List (BitVec 6)
  reruns : Nat
  /-- The output range that reads zero while the job is open (R101): read-half offset and length. -/
  openRange : Option (Nat × Nat)
  /-- Calls of the derivation steps that its keys need before its first segment, and whether they have been made (R71). -/
  deriveLeft : Nat
  derived : Bool
  /-- The job waits for the primes of its RSA node (R52, R127). -/
  primes : Bool
  /-- Its prime generation has ended, so its key can be formed. -/
  primed : Bool
  /-- Restarted under R130, so first in its slice's order (R171). -/
  front : Bool
  /-- It lost its engine at a boundary, so it stands at the head of its queue (R173). -/
  headed : Bool
  /-- The seal signature that the job makes: market, SEAL_SEQ, and whether it is the ML-DSA one (R236, R237). -/
  seal_ : Option (BitVec 17 × DWord × Bool)
  /-- Device-class work (R34). -/
  dev : Option DevWork
  /-- Passes over the message that pool digest engines still make (R122), and what each pass has read. -/
  hashing : Nat
  passes : List Bytes
  /-- The expected tag of a cipher job. -/
  expect : Bytes
  /-- What ends the job at its next boundary. -/
  ending : Option Verdict
  deriving DecidableEq, Repr

/-- A shared SRAM instance (Table 6.12): spare lines used, corrected errors, and the error times of each line. -/
structure Sram where
  spares : BitVec 7
  ce : Half
  lines : List (Nat × List Nat)
  deriving DecidableEq, Repr

/-- A shared SRAM instance after reset. -/
def Sram.reset : Sram := { spares := 0, ce := 0, lines := [] }

/-- Whisk's account of one slice in one class (Table 6.10). -/
structure Account where
  balance : BitVec 16
  owned : DWord
  borrowed : DWord
  preempt : Word
  waitNs : Word
  /-- Device time since when an owned candidate waits for its first grant (R173). -/
  since : Option Nat
  deriving DecidableEq, Repr

/-- An account after a slice reset. -/
def Account.reset : Account := { balance := 0, owned := 0, borrowed := 0, preempt := 0, waitNs := 0, since := none }

/-- A class's share in the current frame (R168): Q and N. -/
structure Share where
  q : BitVec 16
  n : BitVec 8
  deriving DecidableEq, Repr

/-- Whisk. -/
structure Whisk where
  frame : DWord
  /-- No frame runs: VIN has just been applied, or first lock has ended one (R31). -/
  ended : Bool
  shareDg : Share
  shareCp : Share
  shareBn : Share
  /-- Accounts by class number × 64 + slice. -/
  accounts : List (Nat × Account)
  /-- WSK_SLC_BUSY by slice. -/
  busy : List (Nat × Word)
  devCyc : DWord
  /-- A device-class segment has run in this frame, by class (R34). -/
  devRan : List EngClass
  urgIdle : Word
  urgIns : Word
  urgBusy : Word
  srams : List (Nat × Sram)
  /-- Device times of LCRC errors of the last second (Table 6.4). -/
  lcrc : List Nat
  deriving DecidableEq, Repr

/-- Whisk at a device reset. -/
def Whisk.reset : Whisk :=
  { frame := 0, ended := true, shareDg := ⟨0, 0⟩, shareCp := ⟨0, 0⟩, shareBn := ⟨0, 0⟩, accounts := [], busy := [],
    devCyc := 0, devRan := [], urgIdle := 0, urgIns := 0, urgBusy := 0, srams := [], lcrc := [] }

/-- The engines, the jobs and the digest plane. -/
structure Engines where
  /-- Engines by class number × 256 + engine number. -/
  table : List (Nat × Engine)
  jobs : List Job
  nextJob : Nat
  /-- Digest slots by slice × 16 + slot; H uses 1,024 + slot, S uses 1,040 + slot. -/
  slots : List (Nat × Slot)
  tap0 : Tap
  tap1 : Tap
  tap2 : Tap
  cmpEq : Word
  cmpNe : Word
  ctxErr : Word
  /-- Kboot (R93), absent until it is drawn. -/
  kboot : Option Bytes
  valErr : Word
  rfail : Word
  deriving DecidableEq, Repr

/-- The engines at a device reset. -/
def Engines.reset : Engines :=
  { table := [], jobs := [], nextJob := 0, slots := [], tap0 := Tap.closed, tap1 := Tap.closed, tap2 := Tap.closed,
    cmpEq := 0, cmpNe := 0, ctxErr := 0, kboot := none, valErr := 0, rfail := 0 }

end Sys2Proof.Machine
end

