-- ==== Sys2Proof/Machine/State/Keys.lean ====
section
/-! DEFINITION. State of the key tree (02): the handle table, the derived-key cache, and the owner records of
Trivet. -/

namespace Sys2Proof.Machine

/-- A handle-table entry (Table 2.4) with the CEIL_BASE kept beside it (R75). An entry never written is all zero:
FREE, tag 0. -/
structure Handle where
  parent : Word
  label : DWord
  owner : Byte
  type : Byte
  flags : Byte
  policy : Byte
  sliceMask : DWord
  ops : Half
  tag : BitVec 12
  depth : BitVec 4
  generation : Word
  useCount : BitVec 48
  useLimit : Half
  ceilBase : BitVec 48
  deriving DecidableEq, Repr

/-- The entry of an index that nothing has allocated. -/
def Handle.free : Handle :=
  { parent := 0, label := 0, owner := 0, type := 0, flags := 0, policy := 0, sliceMask := 0, ops := 0, tag := 0,
    depth := 0, generation := 0, useCount := 0, useLimit := 0, ceilBase := 0 }

/-- One node held in a partition of the derived-key cache (R70): the node, its owner, whether it is the node's check
key, the number of entries it occupies, whether they are pinned, and the secret. -/
structure CacheLine where
  index : BitVec 20
  owner : Byte
  check : Bool
  entries : Nat
  pinned : Bool
  secret : Bytes
  deriving DecidableEq, Repr

/-- One partition of the derived-key cache, most recently used first, with its KT_CACHE counts (Table 2.22). -/
structure Partition where
  lines : List CacheLine
  hits : Word
  misses : Word
  deriving DecidableEq, Repr

/-- The partition of a slice that has used no key. -/
def Partition.empty : Partition := { lines := [], hits := 0, misses := 0 }

/-- STATE of an owner record (Table 2.1). -/
inductive OwnerState where
  | absent
  | live
  | deleting
  deriving DecidableEq, Repr

/-- An owner record in Trivet (Table 2.1), with the authority record of R370 beside it: AGEN, PEND_AGEN, the
quorum M of N, and the admission key slot of Table 13.11. -/
structure Owner where
  state : OwnerState
  roots : List (BitVec 10)
  regionBase : Byte
  regionUnits : Byte
  resLog2 : BitVec 6
  imgGen : Word
  pendGen : Word
  epoch : DWord
  birth : Word
  deriving DecidableEq, Repr

/-- The record of an owner that was never created. -/
def Owner.absent : Owner :=
  { state := .absent, roots := [], regionBase := 0, regionUnits := 0, resLog2 := 0, imgGen := 0, pendGen := 0,
    epoch := 0, birth := 0 }

/-- A region whose sweep runs in the background (R68). -/
structure Sweep where
  owner : Byte
  lo : Nat
  hi : Nat
  deriving DecidableEq, Repr

/-- The volatile part of the key tree. -/
structure KeyTree where
  /-- Handle table, 1,048,576 entries; an unlisted index reads as `Handle.free`. -/
  table : List (Nat × Handle)
  /-- Derived-key cache: a partition for each slice. -/
  cache : List (Nat × Partition)
  /-- Sweeps in progress, KT_STS.SWEEP. -/
  sweeps : List Sweep
  /-- KT_STS.READY. -/
  ready : Bool
  /-- Handles whose first KEY_EXHAUSTED has been recorded (Table 2.25). -/
  exhausted : List (BitVec 32)
  deriving DecidableEq, Repr

/-- The key tree after a reset that clears the handle table. -/
def KeyTree.reset : KeyTree := { table := [], cache := [], sweeps := [], ready := false, exhausted := [] }

end Sys2Proof.Machine
end

