-- ==== Sys2Proof/Machine/State/Log.lean ====
section
/-! DEFINITION. State of Stockpot and the Bluex audit link (15). -/

namespace Sys2Proof.Machine

/-- A record as a producer hands it over, before Stockpot accepts it (R412): TYPE, SEVERITY, SLICE and payload. -/
structure LogRec where
  type : Half
  severity : BitVec 2
  slice : Byte
  payload : Bytes
  deriving DecidableEq, Repr

/-- An accepted record: the header fields Stockpot adds (R412, R414), and whether it has been exported. -/
structure LogEntry where
  record : LogRec
  seq : DWord
  tl : DWord
  flags : Half
  exported : Bool
  deriving DecidableEq, Repr

/-- A record placed in consecutive slots of an area of the log (R416). -/
structure Placed where
  slot : Nat
  entry : LogEntry
  deriving DecidableEq, Repr

/-- What a Stockpot seal took at its dispatch (R423). -/
structure SealTake where
  first : DWord
  last : DWord
  tl : DWord
  chained : Word
  dropped : Word
  /-- The audit key that the seal's use was taken of. -/
  handle : Word
  keyGen : Word
  untrusted : Bool
  hold : Bool
  chain : Bytes
  deriving DecidableEq, Repr

/-- Stockpot. -/
structure Stockpot where
  started : Bool
  /-- The FIFOs of the 8 log ports, oldest record first (R420). -/
  ports : Vector (List LogRec) 8
  /-- Stockpot's own records, which use no port. -/
  own : List LogRec
  turn : BitVec 3
  nextSeq : DWord
  /-- The main ring's records in slot order, and the write pointer. -/
  ring : List Placed
  wptr : Nat
  /-- The evidence region's records in slot order. -/
  evidence : List Placed
  side : List LogEntry
  hold : Bool
  frozen : Bool
  /-- Acknowledged sequence; all ones while none. -/
  ack : DWord
  exp : DWord
  /-- The highest sequence exported since the log started. -/
  expMax : Option DWord
  drop : Word
  holds : Word
  chain : Bytes
  /-- Chained records accepted, and STK_DROP, at the previous seal's dispatch. -/
  chainedCount : Word
  sealDrop : Word
  sealLast : Option DWord
  /-- The seal whose signature runs, and one interrupted by a reset (R423). -/
  sealing : Option SealTake
  /-- How that signature has ended: with octets, or failed. -/
  signed : Option (Option Bytes)
  interrupted : Option SealTake
  noKey : Bool
  deriving DecidableEq, Repr

/-- Stockpot before the log has started. -/
def Stockpot.reset : Stockpot :=
  { started := false, ports := Vector.replicate 8 [], own := [], turn := 0, nextSeq := 0, ring := [], wptr := 0,
    evidence := [], side := [], hold := false, frozen := false, ack := 0xFFFFFFFFFFFFFFFF#64,
    exp := 0, expMax := none, drop := 0, holds := 0, chain := zeros 32, chainedCount := 0, sealDrop := 0, sealLast := none,
    sealing := none, signed := none, interrupted := none, noKey := true }

/-- A regulator frame that waits for verification (R433): its header and body, its signature, its port. -/
structure RegFrame where
  kind : Byte
  reqSeq : DWord
  body : Bytes
  signature : Bytes
  port : Bool
  deriving DecidableEq, Repr

/-- A frame the device transmits on an AUDIT port, from its destination address to its frame check sequence (R430,
R432). -/
structure BlxFrame where
  port : Bool
  octets : Bytes
  deriving DecidableEq, Repr

/-- The audit link. -/
structure Audit where
  lockA : Bool
  lockB : Bool
  /-- The active port: false AUDIT_A, true AUDIT_B. -/
  active : Bool
  peer : Bool
  /-- Frames waiting for verification, the one being verified first. -/
  rxq : List RegFrame
  /-- Whether the signature of the first of them verifies, once that is known. -/
  checked : Option Bool
  reqSeq : DWord
  nonce : Bytes
  fseq : DWord
  tx : Word
  rx : Word
  rxBad : Word
  retx : Word
  switches : Word
  /-- FCS errors and uncorrectable blocks of the last second, by port (Table 6.4). -/
  errsA : List Nat
  errsB : List Nat
  /-- Frames sent, newest last. -/
  sent : List BlxFrame
  /-- Verified requests that the secure world has not served yet, oldest first (R436). -/
  served : List RegFrame
  deriving DecidableEq, Repr

/-- The audit link before its first enable. -/
def Audit.reset : Audit :=
  { lockA := false, lockB := false, active := false, peer := false, rxq := [], checked := none, reqSeq := 0, nonce := zeros 32,
    fseq := 0, tx := 0, rx := 0, rxBad := 0, retx := 0, switches := 0, errsA := [], errsB := [], sent := [],
    served := [] }

end Sys2Proof.Machine
end

