-- ==== Sys2Proof/Machine/State/Markets.lean ====
section
/-! DEFINITION. State of the stream ports, the market table, the stamp pipeline and the seal unit (08). -/

namespace Sys2Proof.Machine

/-- STATE of a market (Table 8.4). -/
inductive MarketState where
  | free
  | scheduled
  | open_
  | closing
  | closed
  deriving DecidableEq, Repr

/-- A leaf of the current tick: its decision instant, its leaf hash, and whether its STATUS is a refusal (R232). -/
structure Leaf where
  at_ : DWord
  hash : Bytes
  refused : Bool
  deriving DecidableEq, Repr

/-- A closed tick in a pending place (R234 to R238): its completed statement, the signatures it still needs, and what its
record takes. -/
structure PendingSeal where
  /-- The completed statement (Table 8.8). -/
  statement : Bytes
  sealSeq : DWord
  final : Bool
  /-- TICK_END. -/
  ended : DWord
  /-- The ECDSA signature is still to come, and the one that came. -/
  ecdsa : Bool
  signature : Bytes
  /-- The ML-DSA signature is still to come. -/
  pq : Bool
  /-- The SEAL record has been issued. -/
  issued : Bool
  /-- A stamp key that this tick rolled away from, to unpin once it is sealed (R240); zero for none. -/
  unpin : Word
  deriving DecidableEq, Repr

/-- A market's tree slot (R217): the leaves of the current tick in SEQ order, the first tick boundary of an extended
tick, the seal sequence and the hash of the last statement. -/
structure TreeSlot where
  number : BitVec 13
  leaves : List Leaf
  extended : Option DWord
  sealSeq : DWord
  prev : Bytes
  /-- The last tick end that the slot has seen, or T_apply of ADD. -/
  ticked : DWord
  deriving DecidableEq, Repr

/-- A market entry (Table 8.4). -/
structure Market where
  id : DWord
  openNs : DWord
  closeNs : DWord
  nextSeq : DWord
  stampHandle : Word
  sealHandle : Word
  seal2Handle : Word
  tickUs : Word
  portMask : Half
  slice : Byte
  state : MarketState
  orphan : Bool
  keyLost : Bool
  sealRing : BitVec 4
  nextStamp : Word
  /-- GENERATION of the stamp key, of its sibling and of the two seal keys, as they were bound. -/
  stampGen : Word
  nextGen : Word
  sealGen : Word
  seal2Gen : Word
  /-- A seal key has been found unusable (R221). -/
  sealLost : Bool
  /-- Timeline value at which the market entered CLOSING, and whether its final tick has closed (R219). -/
  closingAt : DWord
  finalClosed : Bool
  /-- NEXTGEN of the stamp key failed at a timeline value: the market closes at the next tick end (R240). -/
  rollFail : Option DWord
  tree : Option TreeSlot
  /-- Closed ticks whose signatures or records are still to come, in SEAL_SEQ order. -/
  pending : List PendingSeal
  deriving DecidableEq, Repr

/-- A FREE entry. -/
def Market.empty : Market :=
  { id := 0, openNs := 0, closeNs := 0, nextSeq := 0, stampHandle := 0, sealHandle := 0, seal2Handle := 0,
    tickUs := 0, portMask := 0, slice := 0, state := .free, orphan := false, keyLost := false, sealRing := 0,
    nextStamp := 0, stampGen := 0, nextGen := 0, sealGen := 0, seal2Gen := 0, sealLost := false, closingAt := 0, finalClosed := false, rollFail := none, tree := none, pending := [] }

/-- A frame in a receive FIFO (R211): its source address, its 802.1Q tag if any, its payload, its arrival value, the
bound B and the timeline's condition at that value (R194, R223). -/
structure WagerFrame where
  src : BitVec 48
  vlan : Option Half
  payload : Bytes
  arrival : DWord
  bound : Word
  untrusted : Bool
  holdover : Bool
  lastBit : DWord
  deriving DecidableEq, Repr

/-- A receipt in a receipt queue: destination, source, tag, the payload of Table 8.3, and the timeline value at which the
last bit of its wager arrived. -/
structure Receipt where
  dst : BitVec 48
  src : BitVec 48
  vlan : Option Half
  payload : Bytes
  lastBit : DWord
  deriving DecidableEq, Repr

/-- Where a stamp computation runs (R175, R176, R184): on a lane engine, on the pool engine that stands for one, on an
idle pool engine, or inserted into a pool engine's running segment. -/
inductive EngPlace where
  | lane (e : BitVec 5)
  | sub (e : BitVec 8)
  | idle (e : BitVec 8)
  | inserted (e : BitVec 8)
  deriving DecidableEq, Repr

/-- A stamp whose two MACs are being computed (R228, R230): the port that answers, the wager's address and tag, the
stamp block, the handle and MAC of its stamp key, the two engines, and whether this is the rerun. -/
structure Stamp where
  number : Nat
  port : BitVec 4
  dst : BitVec 48
  vlan : Option Half
  block : Bytes
  market : BitVec 17
  handle : Word
  mac : Bytes
  engA : EngPlace
  engB : EngPlace
  rerun : Bool
  lastBit : DWord
  deriving DecidableEq, Repr

/-- A stream port. -/
structure Port where
  enable : Bool
  restore : Bool
  mac : BitVec 48
  orphan : BitVec 17
  lock : Bool
  /-- Device time since when the port holds block lock (R241). -/
  lockSince : Nat
  failed : Bool
  steered : Bool
  /-- Its steering starts, or ends, at the next frame boundary. -/
  steerPend : Bool
  rxWait : Bool
  fifo : List WagerFrame
  receipts : List Receipt
  acc : Word
  ref : Word
  drop : Word
  ovr : Word
  unmac : Word
  hold : Word
  /-- Device times of uncorrectable codewords of the last second (Table 6.4). -/
  fecErrs : List Nat
  /-- Device time of the last FIFO-overrun record (R243). -/
  ovrRecord : Option Nat
  deriving DecidableEq, Repr

/-- A port after device reset. -/
def Port.reset : Port :=
  { enable := false, restore := false, mac := 0, orphan := 0, lock := false, lockSince := 0, failed := false,
    steered := false, steerPend := false, rxWait := false, fifo := [], receipts := [], acc := 0, ref := 0, drop := 0,
    ovr := 0, unmac := 0, hold := 0, fecErrs := [], ovrRecord := none }

/-- A market command that has been accepted and lands at the next frame boundary (R218). -/
structure MkCommand where
  op : BitVec 3
  issuer : Issuer
  ctx : Option (BitVec 7)
  index : BitVec 17
  entry : Bytes
  deriving DecidableEq, Repr

/-- A slice's seal buffer (Table 8.17). -/
structure SealBuf where
  base : DWord
  slots : Half
  head : Half
  deriving DecidableEq, Repr

/-- A seal buffer at device reset: no slots. -/
def SealBuf.reset : SealBuf := { base := 0, slots := 0, head := 0 }

/-- A seal signature that has ended (R236): its market, its SEAL_SEQ, whether it is the ML-DSA one, its verdict and the
signature. -/
structure SignedSeal where
  market : BitVec 17
  sealSeq : DWord
  pq : Bool
  verdict : Verdict
  signature : Bytes
  deriving DecidableEq, Repr

/-- A SEAL or SEAL_PQ record on its way to the log, whose buffer write and completion follow its acceptance (R238). -/
structure SealOut where
  slice : BitVec 6
  ring : BitVec 4
  pq : Bool
  sealSeq : DWord
  deriving DecidableEq, Repr

/-- The stamp pipeline, the markets and the seal unit. -/
structure Markets where
  /-- Market entries by index; an unlisted entry is FREE. -/
  table : List (Nat × Market)
  /-- Ports by number. -/
  ports : List (Nat × Port)
  /-- Stamps being computed, oldest first. -/
  stamps : List Stamp
  nextStamp : Nat
  /-- Commands to land at the next frame boundary, in order. -/
  commands : List MkCommand
  apply : DWord
  latMax : Word
  /-- Pad caches of the lane engines: engine, most recently used handle first (R228). -/
  pads : List (Nat × List Word)
  /-- Frames transmitted, newest last, each with its port. -/
  sent : List (BitVec 4 × Bytes)
  bufs : List (Nat × SealBuf)
  /-- Stamp uses taken from the key tree and not assigned, by handle (R229). -/
  uses : List (Nat × Nat)
  /-- Seal signatures that have ended and wait for the seal unit. -/
  signed : List SignedSeal
  outbox : List SealOut
  issued : DWord
  late : Word
  extended : Word
  maxLat : Word
  deriving DecidableEq, Repr

/-- The stamp pipeline after device reset. -/
def Markets.reset : Markets :=
  { table := [], ports := [], stamps := [], nextStamp := 0, commands := [], apply := 0, latMax := 0, pads := [],
    sent := [], bufs := [], uses := [], signed := [], outbox := [], issued := 0, late := 0, extended := 0, maxLat := 0 }

end Sys2Proof.Machine
end

