-- ==== Sys2Proof/Machine/State/Modes.lean ====
section
/-! DEFINITION. State of the mode state machine, engine-group power and the package (16, 17). -/

namespace Sys2Proof.Machine

/-- The device modes (Table 0.2), coded as `Mode.code`. -/
inductive Mode where
  | dormant
  | startup
  | commissioning
  | service
  | recovery
  | erased
  deriving DecidableEq, Repr

/-- The mode codes of Table 0.2. -/
def Mode.code : Mode → Byte
  | .dormant => 0x0F
  | .startup => 0x33
  | .commissioning => 0x55
  | .service => 0x66
  | .recovery => 0x99
  | .erased => 0xAA

/-- The kind of the last reset (Table 16.11 LAST_RESET). -/
inductive ResetKind where
  | powerOn
  | device
  | hold
  deriving DecidableEq, Repr

/-- The mode state machine and Start-up. -/
structure Modes where
  mode : Mode
  lastReset : ResetKind
  /-- The steps of Start-up that have ended, laid out as MOD_START_STS.STEPS. -/
  steps : BitVec 7
  failed : Bool
  /-- ECLK cycle at which this Start-up began, and the duration of the last one. -/
  began : Nat
  startUs : Word
  dgFail : Byte
  cpFail : Byte
  bnFail : Byte
  sramFail : Bool
  tlWait : BitVec 10
  /-- The kernel context was started and READY is awaited (R446). -/
  kernelStarted : Bool
  /-- A first lock came in this Start-up (R196). -/
  firstLock : Bool
  deriving DecidableEq, Repr

/-- The mode state machine as a reset of the given kind leaves it, in Start-up. -/
def Modes.start (k : ResetKind) (now : Nat) : Modes :=
  { mode := .startup, lastReset := k, steps := 0, failed := false, began := now,
    startUs := 0, dgFail := 0, cpFail := 0, bnFail := 0, sramFail := false, tlWait := 60, kernelStarted := false,
    firstLock := false }

/-- States of an engine group (Table 16.6). -/
inductive GroupPower where
  | on
  | draining
  | scrubbing
  | off
  | waking
  deriving DecidableEq, Repr

/-- One engine group: its state, its depth, a deferred cut, a pending enable, a cut that waits for ON, the landed
target and its depth, whether its engines have rejoined their class (R457), whether what is resident on them restarts elsewhere
because it has drained for 2 ms (R453), and when it reached its state. -/
structure PGroup where
  state : GroupPower
  depth : Bool
  deferred : Bool
  pendOn : Bool
  cutLater : Bool
  target : Bool
  targetDepth : Bool
  joined : Bool
  expels : Bool
  since : Nat
  deriving DecidableEq, Repr

/-- A group at device reset: ON. -/
def PGroup.reset : PGroup :=
  { state := .on, depth := false, deferred := false, pendOn := false, cutLater := false, target := true,
    targetDepth := false, joined := true, expels := false, since := 0 }

/-- Engine-group power (R453 to R456). -/
structure Power where
  groups : List (Nat × PGroup)
  hold : BitVec 26
  pending : Bool
  /-- Targets and depths of the accepted commit. -/
  acceptedTgt : BitVec 26
  acceptedDepth : BitVec 26
  epoch : Word
  /-- The commit landed and its groups have not all reached their targets. -/
  busy : Bool
  deriving DecidableEq, Repr

/-- Engine-group power at a device reset. -/
def Power.reset : Power :=
  { groups := [], hold := 0, pending := false,
    acceptedTgt := BitVec.allOnes 26, acceptedDepth := 0, epoch := 0, busy := false }

/-- What the package keeps: the I/O rail switches, the MGMT target, the test access port, the heartbeat. -/
structure Package where
  vo18 : Bool
  vo33 : Bool
  /-- Dynamic address of MGMT, if assigned (R482). -/
  mgmtAddr : Option (BitVec 7)
  mirror : Half
  mirrorErrors : Word
  /-- The 32-bit value the last private read returned. -/
  mgmtData : Word
  /-- The instruction in force in the test access port: 0 BYPASS, 1 IDCODE (after its reset), 2 SAMPLE/PRELOAD,
  3 EXTEST. -/
  debug : BitVec 2
  heartbeat : Bool
  deriving DecidableEq, Repr

/-- The package after a power-on reset. -/
def Package.reset : Package :=
  { vo18 := true, vo33 := true, mgmtAddr := none, mirror := 0, mirrorErrors := 0, mgmtData := 0, debug := 1,
    heartbeat := false }

end Sys2Proof.Machine
end

