-- ==== Sys2Proof/Machine/State/Slices.lean ====
section
/-! DEFINITION. State of the host link, the slices, their rings and the Ladle (11). -/

namespace Sys2Proof.Machine

/-- States of a slice (Table 11.3). -/
inductive SliceState where
  | free
  | active
  | quiescing
  | quiesced
  | resetting
  | removing
  deriving DecidableEq, Repr

/-- STATE of a ring (Table 11.15). -/
inductive RingState where
  | disabled
  | running
  | stopped
  deriving DecidableEq, Repr

/-- An entry that the fetcher holds (R325): its index, its 64 octets, and the octets that host memory delivers for the
source that it names. -/
structure FetchedEntry where
  index : Word
  body : Bytes
  host : Bytes
  deriving DecidableEq, Repr

/-- One ring of a slice (Table 11.15), with the open chain, the copies fetched ahead, and the interrupt coalescing
counts of R333. -/
structure Ring where
  sq : DWord
  cq : DWord
  sqLog2 : BitVec 5
  cqLog2 : BitVec 5
  pasidIdx : BitVec 4
  irqEn : Bool
  coalN : Byte
  coalUs : Byte
  state : RingState
  enable : Bool
  tail : Word
  head : Word
  cqHead : Word
  cqTail : Word
  badDoorbell : Bool
  waitCq : Bool
  badCfg : Bool
  sealDrop : Half
  errIdx : Word
  /-- The entries of the open chain, oldest first; SQ_HEAD stays at the first of them. -/
  chain : List FetchedEntry
  /-- Copies fetched behind the open chain and not consumed, oldest first. -/
  fetched : List FetchedEntry
  /-- Jobs consumed and not completed (R327). -/
  inFlight : Nat
  /-- Completions since the last signal, and the device time of the first of them (R333). -/
  unsignalled : Nat
  firstUnsignalled : Nat
  deriving DecidableEq, Repr

/-- A ring after reset (R320). -/
def Ring.reset : Ring :=
  { sq := 0, cq := 0, sqLog2 := 0, cqLog2 := 0, pasidIdx := 0, irqEn := false, coalN := 0, coalUs := 0,
    state := .disabled, enable := false, tail := 0, head := 0, cqHead := 0, cqTail := 0, badDoorbell := false,
    waitCq := false, badCfg := false, sealDrop := 0, errIdx := 0, chain := [], fetched := [], inFlight := 0,
    unsignalled := 0, firstUnsignalled := 0 }

/-- One slice: state, bindings, rings, Ladle, page registers. -/
structure Slice where
  state : SliceState
  /-- SLC_CTL.QUIESCE. -/
  quiesce : Bool
  /-- The binding table (R316): entries as SLC_PASID_ENT holds them. -/
  binds : List (Nat × Word)
  rings : List (Nat × Ring)
  /-- The ring that the fetcher served last (R327). -/
  lastRing : BitVec 4
  /-- The Ladle buffer's write part and read part, by offset (R334). -/
  wbuf : Mem
  rbuf : Mem
  split : BitVec 5
  wStream : Bool
  rStream : Bool
  wPtr : BitVec 19
  rPtr : BitVec 19
  /-- SLC_PG_ERR, SLC_PG_FLT, SLC_ERR. -/
  pgErr : Byte
  pgFlt : Word
  err : Byte
  d3 : Bool
  /-- Ladle writes were dropped during RESETTING (R320). -/
  resetDrop : Bool
  /-- SE: resets of the slice since the last device reset (R93). -/
  se : Word
  deriving DecidableEq, Repr

/-- A slice at device reset. -/
def Slice.reset : Slice :=
  { state := .free, quiesce := false, binds := [], rings := [], lastRing := 15, wbuf := [], rbuf := [], split := 8, wStream := false,
    rStream := false, wPtr := 0, rPtr := 0, pgErr := 0, pgFlt := 0, err := 0, d3 := false, resetDrop := false, se := 0 }

/-- The PASID of a VALID binding entry. -/
def Slice.pasid (x : Slice) (i : Nat) : Option (BitVec 20) :=
  let e := sparseGet 0#32 x.binds i
  if e.getLsbD 31 then some (e.setWidth 20) else none

/-- The VALID binding entries: index and PASID. -/
def Slice.bound (x : Slice) : List (Nat × BitVec 20) :=
  (x.binds.filter fun e => e.2.getLsbD 31).map fun e => (e.1, e.2.setWidth 20)

/-- One MSI-X table entry (16 octets as four registers). -/
structure MsixEntry where
  addr : DWord
  data : Word
  masked : Bool
  deriving DecidableEq, Repr

/-- A vector after reset: masked. -/
def MsixEntry.reset : MsixEntry := { addr := 0, data := 0, masked := true }

/-- The host link: the PCIe function and the manager's view. -/
structure HostLink where
  slices : List (Nat × Slice)
  mgrPasid : BitVec 20
  untagged : Bool
  mgrLock : Bool
  linkUp : Bool
  speed : BitVec 4
  width : BitVec 5
  d3hot : Bool
  atsEn : Bool
  /-- Translations that the device caches: PASID and 4 KiB page, at most 4,096, the oldest first (R312). -/
  ats : List (BitVec 20 × BitVec 52)
  /-- Translation Requests sent, newest last (R312). -/
  atsAsked : List (BitVec 20 × BitVec 52)
  /-- Invalidation requests that wait for device requests which used the translations (R312). -/
  atsDue : Nat
  /-- AER's uncorrectable and correctable error status (R313). -/
  aerUe : Word
  aerCe : Word
  pasidEn : Bool
  msixEn : Bool
  funcMask : Bool
  /-- What requests changed in configuration space: the difference of each byte from its reset value. -/
  config : Mem
  msix : List (Nat × MsixEntry)
  /-- Vectors whose pending bit is set. -/
  pba : List Nat
  /-- Vectors signalled, newest last. -/
  msgs : List Nat
  /-- Writes the device made into host memory, newest last. -/
  dma : List HostWrite
  /-- The last octets a host read returned. -/
  readData : Bytes
  /-- Invalidate Completions sent (R312). -/
  invalidated : Nat
  /-- The last configuration request was answered with Configuration Request Retry Status (R474). -/
  retry : Bool
  deriving DecidableEq, Repr

/-- The host link at a power-on reset. -/
def HostLink.reset : HostLink :=
  { slices := [], mgrPasid := 0, untagged := false, mgrLock := false, linkUp := false, speed := 0, width := 0,
    d3hot := false, atsEn := false, ats := [], atsAsked := [], atsDue := 0, aerUe := 0, aerCe := 0, pasidEn := false, msixEn := false, funcMask := false,
    config := [], msix := [], pba := [], msgs := [], dma := [], readData := [], invalidated := 0, retry := false }

end Sys2Proof.Machine
end

