-- ==== Sys2Proof/Machine/State/Strainer.lean ====
section
/-! DEFINITION. State of Strainer (12): device rules, windows, the staging list, epochs, the fault capture. -/

namespace Sys2Proof.Machine

/-- A device rule (Table 12.4). BASE and LIMIT hold check address bits [31:6]. -/
structure Rule where
  base : BitVec 26
  limit : BitVec 26
  origin : BitVec 3
  level : BitVec 3
  noSlice : Bool
  allSlices : Bool
  perm : BitVec 3
  valid : Bool
  lock : Bool
  slice : BitVec 6
  tag : Word
  deriving DecidableEq, Repr

/-- A rule in no use. -/
def Rule.none : Rule :=
  { base := 0, limit := 0, origin := 0, level := 0, noSlice := false, allSlices := false, perm := 0, valid := false,
    lock := false, slice := 0, tag := 0 }

/-- A slice window (Table 12.5). -/
structure Window where
  base : BitVec 26
  limit : BitVec 26
  origin : BitVec 3
  perm : BitVec 3
  valid : Bool
  lock : Bool
  pasidMask : Half
  deriving DecidableEq, Repr

/-- A window in no use. -/
def Window.none : Window :=
  { base := 0, limit := 0, origin := 0, perm := 0, valid := false, lock := false, pasidMask := 0 }

/-- A staged entry (R351). -/
inductive Staged where
  | rule (index : BitVec 12) (r : Rule)
  | win (index : BitVec 9) (w : Window)
  deriving DecidableEq, Repr

/-- The owner of the staging list: S or H (STR_STAGE.OWNER). -/
inductive StageOwner where
  | h
  | s
  deriving DecidableEq, Repr

/-- Strainer. -/
structure Strainer where
  rules : List (Nat × Rule)
  wins : List (Nat × Window)
  /-- The previous epoch's values of the entries that landed last (R352). -/
  oldRules : List (Nat × Rule)
  oldWins : List (Nat × Window)
  staged : List Staged
  owner : Option StageOwner
  epoch : Word
  pending : Bool
  draining : Bool
  stalled : Bool
  waitFrames : Half
  landedAt : Nat
  deriving DecidableEq, Repr

/-- Strainer after device reset (R358). -/
def Strainer.reset : Strainer :=
  { rules := [], wins := [], oldRules := [], oldWins := [], staged := [], owner := none, epoch := 0, pending := false,
    draining := false, stalled := false, waitFrames := 0, landedAt := 0 }

end Sys2Proof.Machine
end

