-- ==== Sys2Proof/Machine/State/Timeline.lean ====
section
/-! DEFINITION. State of the timeline and the calendar (07). -/

namespace Sys2Proof.Machine

/-- The timeline's four states (Table 7.2). -/
inductive TlState where
  | unset
  | locked
  | holdover
  | untrusted
  deriving DecidableEq, Repr

/-- One reference, TREF_A or TREF_B (R190, R191, Table 7.10). `edge` is the counter value of the last PPS edge,
`prevOk` whether that edge was consistent, `prevSec` its TAI_SEC, `windowOpen` whether its message window is open,
and `interval` the cycles of the reference's own 10 MHz from the edge before it. -/
structure Tref where
  cnt : BitVec 6
  freqOk : Bool
  lastErr : BitVec 4
  quality : BitVec 4
  crcErr : Half
  edge : DWord
  seen : Bool
  prevOk : Bool
  prevSec : BitVec 48
  windowOpen : Bool
  interval : Nat
  /-- Counter value of the last consistent edge (T_h of R198). -/
  goodEdge : DWord
  /-- Learned frequency offsets of the last 64 s, newest first, in ns/s; none for a second without a consistent edge (R197). -/
  offsets : List (Option Int)
  /-- TAI_UTC, ACCURACY and MSG_SEQ of the last good message: recorded and not used (Table 7.1). -/
  taiUtc : Half
  accuracy : Word
  msgSeq : Half
  deriving DecidableEq, Repr

/-- A reference after reset. -/
def Tref.reset : Tref :=
  { cnt := 0, freqOk := false, lastErr := 0, quality := 0, crcErr := 0, edge := 0, seen := false, prevOk := false,
    prevSec := 0, windowOpen := false, interval := 0, goodEdge := 0, offsets := [], taiUtc := 0, accuracy := 0,
    msgSeq := 0 }

/-- The timeline's condition up to a counter value at which it changed: what an arrival before that value meets (R194,
R223). -/
structure TlSpan where
  ended : DWord
  state : TlState
  hold : DWord
  untr : DWord
  resid : Word
  deriving DecidableEq, Repr

/-- The timeline (R192 to R201). -/
structure Timeline where
  /-- The counter: whole nanoseconds. -/
  ns : DWord
  /-- The counter's fraction, in units of 2^-32 ns. -/
  frac : Word
  /-- The increment of each ECLK cycle, in units of 2^-32 ns (R193). -/
  inc : Word
  state : TlState
  stepped : Bool
  sel : Bool
  disagree : Bool
  stepNeeded : Bool
  residHigh : Bool
  resid : Word
  /-- The increment of the learned frequency, on which HOLDOVER and UNTRUSTED run free (Table 7.2). -/
  learned : Word
  hold : DWord
  untr : DWord
  phase : Word
  refA : Tref
  refB : Tref
  /-- Counter values at which time was last untrusted, and last in HOLDOVER, once it no longer is (R235). -/
  untrustedTo : DWord
  holdoverTo : DWord
  /-- The conditions before the present one, newest first, as far back as an arrival can lie. -/
  past : List TlSpan
  /-- TL_NOW_HI as the last host read of TL_NOW_LO latched it (R193). -/
  nowHi : Word
  /-- The reference toward which the loop slews while time is untrusted or in HOLDOVER (R201). -/
  following : Option Bool
  deriving DecidableEq, Repr

/-- The nominal increment: 2/3 ns of a 1.5 GHz ECLK cycle, in units of 2^-32 ns. -/
def nominalInc : Word := 2863311531#32

/-- The timeline at a power-on reset. -/
def Timeline.reset : Timeline :=
  { ns := 0, frac := 0, inc := nominalInc, state := .unset, stepped := false, sel := false, disagree := false,
    stepNeeded := false, residHigh := false, resid := 0, learned := nominalInc, hold := 0, untr := 0, phase := 0,
    refA := Tref.reset, refB := Tref.reset, untrustedTo := 0, holdoverTo := 0, past := [], nowHi := 0, following := none }

/-- A calendar entry (Table 7.4), with the level that added it. -/
structure CalEntry where
  atUs : DWord
  period : Word
  kind : Byte
  slice : Byte
  late : Bool
  arg : Word
  tag : Word
  /-- 0: device, 1: S, 2: H, 3: N. -/
  level : BitVec 2
  /-- The entry was added at or after its instant: the whole µs at which it is due, marked LATE (R204). -/
  due : Option DWord
  deriving DecidableEq, Repr

/-- The calendar: VALID entries by index, in ascending index order; the held ones; CAL_LATE; and the device time at which
the last dispatch pass ends, at 2 cycles an entry. -/
structure Calendar where
  entries : List (Nat × CalEntry)
  held : List Nat
  late : Word
  passTo : Nat
  deriving DecidableEq, Repr

/-- The empty calendar. -/
def Calendar.reset : Calendar := { entries := [], held := [], late := 0, passTo := 0 }

end Sys2Proof.Machine
end

