-- ==== Sys2Proof/Machine/State/Trivet.lean ====
section
/-! DEFINITION. State of the tamper monitor and of Trivet (14), which outlives every reset and every loss of VIN
while VBAT lasts, and the fuses, which outlive everything. -/

namespace Sys2Proof.Machine

/-- Response classes, ordered E > H > L (R392). -/
inductive AlarmClass where
  | l
  | h
  | e
  deriving DecidableEq, Repr

/-- The device's profile (R2, R3). -/
inductive Profile where
  | en
  | sa
  deriving DecidableEq, Repr

/-- The fuses: the profile, TRV_INIT (R403), the sources disabled by FUSE_BURN (R407), and the kernel digest slots
burned, lowest first (R301). -/
structure Fuses where
  profile : Profile
  trvInit : Bool
  sources : DWord
  kernel : List Bytes
  deriving DecidableEq, Repr

/-- The 32 sources of the enclosure wiring: MESH0 to MESH7, LOOP0 to LOOP15, SENSE0 to SENSE7 (Table 14.1). -/
def wiredSources : DWord := 0x0000FFFFFFFF0000

/-- The sources that are fused off: on a Standalone part all 32 of the wiring from the factory (Table 0.1), and what
FUSE_BURN has disabled. -/
def Fuses.off (f : Fuses) : DWord := f.sources ||| (if f.profile = .sa then wiredSources else 0)

/-- State of the erase sequencer (Table 14.2). -/
inductive EraseState where
  | idle
  | ones
  | zeros
  | verify
  | done
  | held
  deriving DecidableEq, Repr

/-- The codes of the erase sequencer (Table 14.2). -/
def EraseState.code : EraseState → Byte
  | .idle => 0x3C
  | .ones => 0x5A
  | .zeros => 0x69
  | .verify => 0x96
  | .done => 0xA5
  | .held => 0xC3

/-- An evidence entry (Table 14.4), with whether Stockpot has its copy (R405). -/
structure Evidence where
  source : Byte
  cls : Byte
  cause : Byte
  flags : Byte
  detail : Word
  time : DWord
  copied : Bool
  deriving DecidableEq, Repr

/-- Trivet. -/
structure Trivet where
  /-- Roots by number, 32 octets each; an unlisted root is zero (R42). -/
  roots : List (Nat × Bytes)
  /-- Owner records (Table 2.1) and authority records (Table 13.5), by owner. -/
  owners : List (Nat × Owner)
  authorities : List (Nat × Authority)
  /-- The canary is valid (R403). -/
  canary : Bool
  cold : Bool
  lastMode : Byte
  resume : Byte
  recFrom : Byte
  cause : Byte
  causeArg : Byte
  flags : DWord
  /-- Evidence entries, by entry number 0 to 15, and TRV_EV_CNT. -/
  evidence : List (Nat × Evidence)
  evCnt : Half
  /-- The entry that the next event takes, and the entry of the last erase, while it stands (R400, R405). -/
  evNext : BitVec 4
  erased : Option (BitVec 4)
  erases : Word
  eraseRow : Byte
  eraseRepeats : BitVec 3
  eraseFail : Bool
  eraser : EraseState
  tick : DWord
  cap : BitVec 2
  vbatLow : Bool
  vbatMv : Half
  /-- Values of TRV_TICK at the tamper-hold resets of the last 10 s (R449). -/
  holds : List Nat
  /-- VBAT is present (R403). -/
  vbat : Bool
  /-- The seed of the 31-bit sequences that drive the mesh channels (R389). -/
  mesh : BitVec 31
  deriving DecidableEq, Repr

/-- Trivet as its initialisation leaves it: no owner, every root zero (R46, R403, R441). -/
def Trivet.init : Trivet :=
  { roots := [], owners := [], authorities := [], canary := true, cold := false, lastMode := 0x0F, resume := 0x55,
    recFrom := 0x55, cause := 0, causeArg := 0, flags := 0, evidence := [], evCnt := 0, evNext := 0, erased := none, erases := 0, eraseRow := 0,
    eraseRepeats := 0, eraseFail := false, eraser := .idle, tick := 0, cap := 2, vbatLow := false, vbatMv := 0,
    holds := [], vbat := true, mesh := 0 }

/-- What the monitor keeps for one source: its configured class (only for the configurable groups), its count, the
cause of its last event, and the device times of the events in the last 2 ms (R408). -/
structure Source where
  cls : Option AlarmClass
  count : Word
  cause : Byte
  event : Bool
  window : List Nat
  deriving DecidableEq, Repr

/-- A source after device reset. -/
def Source.reset : Source := { cls := none, count := 0, cause := 0, event := false, window := [] }

/-- The tamper monitor. -/
structure Tamper where
  sources : List (Nat × Source)
  lock : Bool
  /-- The response in progress, if any. -/
  responding : Option AlarmClass
  /-- The reset that an H alarm requested within 2 µs has not come (R395). -/
  holdRequested : Bool
  /-- The volatile part of an erase runs (R397). -/
  erasing : Bool
  lastClass : BitVec 2
  lastSrc : BitVec 6
  /-- A source test: source and duration in ms (R409). -/
  test : Option (BitVec 6 × BitVec 7)
  temp0 : BitVec 12
  temp1 : BitVec 12
  /-- Consecutive samples that differ by more than 5 °C (R390). -/
  split : Nat
  /-- The key-path gate is CLOSED (R395, R397, R449). -/
  gateClosed : Bool
  /-- Device time at which the root erase in progress with VIN, or the last, began or began again (R398, R410). -/
  eraseFrom : Option Nat
  /-- Samples of VBAT below 2.3 V in a row. -/
  vbatLowSamples : Nat
  deriving DecidableEq, Repr

/-- The tamper monitor at a device reset. -/
def Tamper.reset : Tamper :=
  { sources := [], lock := false, responding := none, holdRequested := false, erasing := false, lastClass := 0,
    lastSrc := 0, test := none, temp0 := 0, temp1 := 0, split := 0, gateClosed := false,
    eraseFrom := none, vbatLowSamples := 0 }

end Sys2Proof.Machine
end

