-- ==== Sys2Proof/Machine/State/Worlds.lean ====
section
/-! DEFINITION. State of the control cores' contexts (09) and of the execution worlds and recipe memory (10). -/

namespace Sys2Proof.Machine

/-- The three levels (R277), coded as CORE_ID.LEVEL. -/
inductive Level where
  | n
  | h
  | s
  deriving DecidableEq, Repr

/-- STATE of a context (R246, Table 9.10). -/
inductive CtxState where
  | idle
  | ready
  | running
  | waiting
  | faulted
  | halted
  deriving DecidableEq, Repr

/-- What a WAITING context waits for (CORE_CTX_STS.WAIT), with the registers it writes when it wakes. -/
inductive WaitFor where
  | none
  | tlwait (rd : BitVec 5)
  | jqwait (rd : BitVec 5) (q : BitVec 2) (target : Word)
  | evwait (rd rs2 : BitVec 5)
  | memory
  | special
  | dcache
  | admission
  deriving DecidableEq, Repr

/-- One segment of a program map (Table 10.1). PERM is X, W, R from bit 2 down. -/
structure MapSeg where
  vbase : Word
  len : BitVec 28
  obase : Word
  perm : BitVec 3
  deriving DecidableEq, Repr

/-- One internal job queue (Table 9.6). -/
structure Queue where
  base : Word
  cbase : Word
  sizeLog2 : BitVec 4
  enable : Bool
  charge : BitVec 6
  tail : Word
  chead : Word
  cdone : Word
  /-- Index of the FIRST entry of the open chain (R259). -/
  openAt : Option Word
  deriving DecidableEq, Repr

/-- A queue after START or RESET. -/
def Queue.reset : Queue :=
  { base := 0, cbase := 0, sizeLog2 := 0, enable := false, charge := 0, tail := 0, chead := 0, cdone := 0,
    openAt := none }

/-- One posted entry whose job has not started (R261): its queue and index, the LAST index of its job once that is
posted, the copy read at JQPOST with the k substitutions made, or, after JQINV, none, and the k values to substitute when
it is read again. -/
structure CachedEntry where
  q : BitVec 2
  index : Word
  job : Option Word
  copy : Option Bytes
  k : Vector Word 16
  deriving DecidableEq, Repr

/-- A gate frame (R291): return PC, caller level, rd, and the caller's map. -/
structure GateFrame where
  pc : Word
  level : Level
  rd : BitVec 5
  map : List MapSeg
  deriving DecidableEq, Repr

/-- One hardware context of a control core (R245 to R269). -/
structure Context where
  state : CtxState
  wait : WaitFor
  pc : Word
  g : Vector DWord 32
  k : Vector Word 16
  level : Level
  slice : BitVec 6
  /-- The map the context runs under (R283). -/
  map : List MapSeg
  queues : Vector Queue 4
  dcache : List CachedEntry
  /-- Link watch: the 64 B line and the ECLK cycle of the LINK (R252). -/
  watch : Option (Nat × Nat)
  scratch0 : Word
  scratch1 : Word
  retired : Word
  cause : BitVec 5
  tval : Word
  gate : Option GateFrame
  resetHeld : Bool
  /-- CORE_CTX_CTL.LEVEL and SLICE as last written for this context; CORE_CTX_SEL of this context. -/
  ctlLevel : Level
  ctlSlice : BitVec 6
  sel : BitVec 7
  /-- Stores not yet visible to other contexts, oldest first (R253). -/
  stores : List Host.Cell
  /-- The 64 B lines of recipe memory that an instruction fetch and a JQPOST last brought in (R246). -/
  iline : Option Nat
  dline : Option Nat
  /-- ECLK cycle at which it last became RUNNING, or came to level S while RUNNING (R304). -/
  ranFrom : Nat
  deriving DecidableEq, Repr

/-- A context at device reset. -/
def Context.reset : Context :=
  { state := .idle, wait := .none, pc := 0, g := Vector.replicate 32 0, k := Vector.replicate 16 0, level := .n,
    slice := 0, map := [], queues := Vector.replicate 4 Queue.reset, dcache := [], watch := none, scratch0 := 0,
    scratch1 := 0, retired := 0, cause := 0, tval := 0, gate := none, resetHeld := false, ctlLevel := .n,
    ctlSlice := 0, sel := 0, stores := [], iline := none, dline := none, ranFrom := 0 }

/-- An event of an event queue (R266, R296). -/
structure Event where
  kind : Byte
  arg : Word
  tag : Word
  index : Word
  deriving DecidableEq, Repr

/-- One event queue of 64, with its drop count. -/
structure EventQueue where
  events : List Event
  dropped : Half
  deriving DecidableEq, Repr

/-- An empty event queue. -/
def EventQueue.empty : EventQueue := { events := [], dropped := 0 }

/-- A stage-2 entry (R286), laid out as SLC_S2_ENT. -/
structure S2Entry where
  ppn : Byte
  r : Bool
  w : Bool
  x : Bool
  valid : Bool
  deriving DecidableEq, Repr

/-- An entry in no use. -/
def S2Entry.none : S2Entry := { ppn := 0, r := false, w := false, x := false, valid := false }

/-- A stage-2 change that waits for the accesses of the old entry (R288). -/
structure S2Change where
  slice : BitVec 6
  page : BitVec 6
  entry : S2Entry
  deriving DecidableEq, Repr

/-- KSTATE (Table 10.10). -/
inductive KState where
  | absent
  | loading
  | running
  | restarting
  | failed
  deriving DecidableEq, Repr

/-- An admission in progress (R273): the context whose ADMIT waits for it, the target (0xFF stands for the manager), the
declared length, the named pages, the deadline, the carrier slice, the bytes that tap 1 has seen, the writes, oldest first, that
the full buffer of tap 1 holds back (R96), and, once admission is decided, its verdict and its record, which waits to be
accepted. -/
structure Admission where
  caller : BitVec 7
  target : Byte
  length : Nat
  base : DWord
  pages : DWord
  deadline : DWord
  carrier : BitVec 6
  seen : Bytes
  waiting : List (Nat × Bytes)
  decided : Option (Verdict × Bytes)
  deriving DecidableEq, Repr

/-- The execution worlds. -/
structure Worlds where
  /-- Contexts by device-wide number. -/
  ctxs : List (Nat × Context)
  /-- Event queues: slices 0 to 63, H 64, S 65. -/
  queues : List (Nat × EventQueue)
  recipe : Mem
  wmark : BitVec 9
  wmarkLock : Bool
  /-- WMARK_PAGES of the running kernel's header (R280). -/
  wmarkMin : BitVec 9
  /-- Program maps 0 to 65. -/
  maps : List (Nat × List MapSeg)
  /-- Stage-2 entries by slice × 64 + page. -/
  s2 : List (Nat × S2Entry)
  s2Pending : List S2Change
  s2Err : BitVec 3
  kstate : KState
  restarting : Bool
  /-- A restart has been triggered and its steps 2 to 5 have not run (R306). -/
  restartDue : Bool
  fallback : Bool
  restarts : Byte
  rcause : BitVec 2
  lcause : BitVec 2
  t0 : DWord
  /-- Device times of the restarts of the last 60 s (R305). -/
  restartTimes : List Nat
  kmeas : Bytes
  kversion : DWord
  gateBase : Word
  gateCnt : BitVec 11
  armed : Bool
  kickAt : Nat
  admission : Option Admission
  /-- M of the last admitted image: slice number, or 64 for the manager (Table 15.7). -/
  admitted : List (Nat × Bytes)
  /-- First page of the staging area, LDL_ADM_BASE (R336). -/
  admBase : BitVec 8
  deriving DecidableEq, Repr

/-- The worlds at a device reset. -/
def Worlds.reset : Worlds :=
  { ctxs := [], queues := [], recipe := [], wmark := 256, wmarkLock := false, wmarkMin := 0, maps := [], s2 := [],
    s2Pending := [], s2Err := 0, kstate := .absent, restarting := false, restartDue := false, fallback := false, restarts := 0,
    rcause := 0, lcause := 0, t0 := 0, restartTimes := [], kmeas := zeros 48, kversion := 0,
    gateBase := 0, gateCnt := 0, armed := false, kickAt := 0, admission := none, admitted := [], admBase := 0 }

end Sys2Proof.Machine
end

