-- ==== Sys2Proof/Machine/State.lean ====
section
/-! DEFINITION. The whole state of the SH6496, the ways a step can stop, and the state after reset. -/

namespace Sys2Proof.Machine

/-- A stop with a fault. The spec gives every command an effect, so no meaning raises one. -/
inductive Fault where
  deriving DecidableEq, Repr

/-- A stop without a meaning. -/
inductive Refusal where
  /-- Raised by `exec` alone, for a command that has no meaning yet. Safe: nothing is said of what follows. -/
  | notModelled (mnemonic : String)
  deriving DecidableEq, Repr

/-- The state of the block, and the commands that wait. -/
structure State where
  /-- Registers that no other field holds, by BAR0 offset; an unlisted register reads as its reset value. -/
  regs : List (Nat × Word)
  modes : Modes
  fuses : Fuses
  trivet : Trivet
  tamper : Tamper
  power : Power
  pkg : Package
  keys : KeyTree
  cld : Colander
  eng : Engines
  whisk : Whisk
  tl : Timeline
  cal : Calendar
  mkt : Markets
  worlds : Worlds
  host : HostLink
  str : Strainer
  cus : Custodians
  stk : Stockpot
  aud : Audit
  /-- Device time: ECLK cycles of 2/3 ns since the model's reset. -/
  now : Nat
  /-- Number of free values taken so far (the model's own). -/
  free : Nat
  /-- Log records that producers hold back until Stockpot can take them (R420), oldest first. -/
  waitingLog : List (BitVec 3 × LogRec)
  /-- Completions given, newest last (the model's own record of R332 and R262 beside the DMA writes). -/
  completions : List Completion
  /-- Commands waiting, first in, first out (the model's own). -/
  pending : List Instr
  deriving DecidableEq, Repr

/-- The machine right after a power-on reset of a device whose Trivet has just been initialised, no roots drawn
(R403, R441, R490), and whose profile is EN (assumption 6). -/
def State.reset : State :=
  { regs := [], modes := Modes.start .powerOn 0,
    fuses := { profile := .en, trvInit := true, sources := 0, kernel := [] },
    trivet := { Trivet.init with cold := true }, tamper := Tamper.reset, power := Power.reset, pkg := Package.reset,
    keys := KeyTree.reset, cld := Colander.reset 0, eng := Engines.reset, whisk := Whisk.reset,
    tl := Timeline.reset, cal := Calendar.reset, mkt := Markets.reset, worlds := Worlds.reset,
    host := HostLink.reset, str := Strainer.reset, cus := Custodians.reset, stk := Stockpot.reset,
    aud := Audit.reset, now := 0, free := 0, waitingLog := [], completions := [], pending := [] }

end Sys2Proof.Machine
end

