-- ==== Sys2Proof/Machine/Regs.lean ====
section
/-! DEFINITION. The register file: what a register that no field of State holds reads as, and how it changes
(R16 to R18). -/

namespace Sys2Proof.Machine

/-- Base of a register block by its number (Table 1.6). -/
def blockBase (n : Nat) : Nat := n * 0x10000

/-- Registers held in the register file whose reset value is not zero, by BAR0 offset. -/
def regDefaults : List (Nat × Word) := [
  (0x010014, 0x03FFFFFF#32),    -- PWR_TGT, Table 16.12
  (0x140004, 0x2#32),           -- AUD_CFG.MIN_SEV = 0b01, Table 15.11
  (0x140018, 100#32)]           -- AUD_ACK_TO, Table 15.11

/-- The reset value of a register held in the register file. -/
def regReset (a : Nat) : Word := ((regDefaults.find? fun e => e.1 == a).map Prod.snd).getD 0

/-- A register held in the register file. -/
def State.reg (s : State) (a : Nat) : Word := sparseGet (regReset a) s.regs a

/-- Set a register held in the register file. -/
def State.setReg (s : State) (a : Nat) (v : Word) : State :=
  { s with regs := sparseSet (regReset a) s.regs a v }

/-- Set the registers at consecutive offsets. -/
def State.setRegs (s : State) (a : Nat) : List Word → State
  | [] => s
  | v :: vs => State.setRegs (s.setReg a v) (a + 4) vs

/-- A 64-bit quantity in two consecutive registers (R16). -/
def State.reg64 (s : State) (a : Nat) : DWord := s.reg (a + 4) ++ s.reg a

/-- Set a 64-bit quantity. -/
def State.setReg64 (s : State) (a : Nat) (v : DWord) : State :=
  (s.setReg a (v.setWidth 32)).setReg (a + 4) ((v >>> 32).setWidth 32)

/-- The octets of `n` registers from an offset, each little-endian (R15). -/
def State.regBytes (s : State) (a n : Nat) : Bytes :=
  (List.range n).flatMap fun i => le 4 (s.reg (a + 4 * i))

/-- An octet string as the words of consecutive registers. -/
def words (n : Nat) (bs : Bytes) : List Word := (List.range n).map fun i => fieldLE 32 (4 * i) 4 bs

/-- The canonical form of the register file. -/
def regsWf : Nat → List (Nat × Word) → Bool
  | _, [] => true
  | lo, (k, v) :: t => decide (lo ≤ k) && (v != regReset k) && regsWf (k + 1) t

/-- A free value: the next of the values that the spec leaves open (assumption 4). -/
def State.freeValue (s : State) (w : Nat) : BitVec w × State :=
  (Config.freeBits w s.free, { s with free := s.free + 1 })

/-- `n` free octets. -/
def State.freeBytes (s : State) (n : Nat) : Bytes × State :=
  ((List.range n).map fun i => Config.freeBits 8 (s.free + i), { s with free := s.free + n })

end Sys2Proof.Machine
end

