-- ==== Sys2Proof/Machine/Ops.lean ====
section
/-! DEFINITION. The operations that every family shares: time and its conditions, log records, interrupts and
events, contexts. -/

namespace Sys2Proof.Machine

/-! ### Outcomes, modes and conditions -/

/-- Every meaning ends in a next state. -/
abbrev Out := Host.Outcome State Fault Refusal

/-- ECLK cycles in one second of device time (Table 0.3). -/
def cyclesPerSec : Nat := 1500000000

/-- The device is powered: any mode but Dormant. -/
def State.powered (s : State) : Bool := s.modes.mode != .dormant

/-- Fuses after a command: what is burned stays burned, and the profile is the part's (R301, R403, R407). -/
def Fuses.after (old new : Fuses) : Fuses :=
  { profile := old.profile, trvInit := old.trvInit || new.trvInit, sources := old.sources ||| new.sources,
    kernel := old.kernel ++ new.kernel.drop old.kernel.length }

/-- The state that a command leaves: what no command changes stays, which is the queue of waiting commands, device time, and
what the fuses hold burned. -/
def State.after (s t : State) : State := { t with pending := s.pending, now := s.now, fuses := s.fuses.after t.fuses }

/-- A command's effect while the device has power. Nothing happens in Dormant. -/
def State.whilePowered (s : State) (f : State → State) : Out := .next (s.after (if s.powered then f s else s))

/-- Time is untrusted (R195): UNSET or UNTRUSTED. -/
def State.timeUntrusted (s : State) : Bool := s.tl.state == .unset || s.tl.state == .untrusted

/-- The timeline is in HOLDOVER. -/
def State.holdover (s : State) : Bool := s.tl.state == .holdover

/-- FLAGS [1:0] of a record (Table 15.1), and of every answer that marks its time. -/
def State.timeFlags (s : State) : Half :=
  (if s.timeUntrusted then 1#16 else 0#16) ||| (if s.holdover then 2#16 else 0#16)

/-- Times of an error window that still count: those within `span` cycles before now. -/
def inWindow (now span : Nat) (ts : List Nat) : List Nat := ts.filter fun t => now < t + span

/-- Saturating increment of a counter. -/
def satInc {w : Nat} (v : BitVec w) : BitVec w := if v = BitVec.allOnes w then v else v + 1

/-! ### Contexts -/

/-- A control-core context by its device-wide number: core × 8 + context (R245). -/
def State.ctx (s : State) (n : Nat) : Context := sparseGet Context.reset s.worlds.ctxs n

/-- Replace a context. -/
def State.setCtx (s : State) (n : Nat) (c : Context) : State :=
  { s with worlds := { s.worlds with ctxs := sparseSet Context.reset s.worlds.ctxs n c } }

/-- A general register; g0 reads zero (R247). -/
def Context.greg (c : Context) (r : BitVec 5) : DWord := if r = 0 then 0 else c.g[r.toFin.val]

/-- Write a general register; a write of g0 is discarded (R247). -/
def Context.setG (c : Context) (r : BitVec 5) (v : DWord) : Context :=
  if r = 0 then c else { c with g := c.g.set r.toFin.val v }

/-- The event queue that a context waits on: its slice's, H's or S's (R266). -/
def Context.queueKey (c : Context) : Nat :=
  match c.level with
  | .n => c.slice.toNat
  | .h => 64
  | .s => 65

/-- The contexts of a core. -/
def coreOf (n : Nat) : Nat := n / 8

/-- Disarm the link watches of other contexts on the lines that a context's store touches (R252): what an engine, a completion or
the loader writes is no store of a context. -/
def State.disarm (s : State) (by_ : Option Nat) (p n : Nat) : State :=
  let hit (k : Nat) (c : Context) : Bool :=
    match c.watch with
    | some w => by_.isSome && by_ != some k && decide (p / 64 ≤ w.1) && decide (w.1 ≤ (p + n - 1) / 64)
    | none => false
  let ctxs := sparseMap Context.reset (fun k c => if hit k c then { c with watch := none } else c) s.worlds.ctxs
  { s with worlds := { s.worlds with ctxs := ctxs } }

/-- Write recipe memory at L2. -/
def State.recipeWrite (s : State) (by_ : Option Nat) (p : Nat) (bs : Bytes) : State :=
  if bs = [] then s
  else ({ s with worlds := { s.worlds with recipe := memWrite s.worlds.recipe p bs } }).disarm by_ p bs.length

/-- Make a context's stores visible to all, in program order (R253). -/
def State.flushStores (s : State) (n : Nat) : State :=
  let c := s.ctx n
  let t := c.stores.foldl (fun u e => u.recipeWrite (some n) e.1 [e.2]) s
  let d := t.ctx n
  t.setCtx n { d with stores := [] }

/-- The world of a context (R278): a slice at N, 64 at H, 65 at S. -/
def Context.world (c : Context) : Nat := c.queueKey

/-- The contexts of a core that hold stores of another world make them visible: the write-back of the world switch
(R289). -/
def State.worldSwitch (s : State) (n : Nat) : State :=
  let w := (s.ctx n).world
  ((s.worlds.ctxs.filter fun e => coreOf e.1 == coreOf n && e.2.world != w && !e.2.stores.isEmpty).map Prod.fst).foldl
    State.flushStores s

/-- A context becomes RUNNING, and the context that ran on its core becomes READY (R246). A switch of worlds writes back
what the core holds (R289). -/
def State.runCtx (s : State) (n : Nat) : State :=
  let clear := sparseMap Context.reset
    (fun k c => if coreOf k == coreOf n && c.state == .running && k != n then { c with state := .ready } else c)
    s.worlds.ctxs
  let s := ({ s with worlds := { s.worlds with ctxs := clear } }).worldSwitch n
  let c := s.ctx n
  s.setCtx n { c with state := .running, ranFrom := s.now }

/-- A core with no RUNNING context runs the next READY one above a context, wrapping (R246). -/
def State.switchFrom (s : State) (n : Nat) : State :=
  if s.worlds.ctxs.any fun e => coreOf e.1 == coreOf n && e.2.state == .running then s
  else
    let next := ((List.range 8).map fun k => coreOf n * 8 + (n + 1 + k) % 8).find? fun k => (s.ctx k).state == .ready
    match next with
    | none => s
    | some k => s.runCtx k

/-- A WAITING context becomes READY, and RUNNING if its core idles (R246). By an event of its queue, an S context pre-empts
a core that runs an N or H context, and an H context one that runs an N context (R297). -/
def State.wake (s : State) (n : Nat) (byEvent : Bool) : State :=
  let c := s.ctx n
  let s := s.setCtx n { c with state := .ready, wait := .none }
  let lvl : Option Level := (s.worlds.ctxs.find? fun e => coreOf e.1 == coreOf n && e.2.state == .running).map fun e => e.2.level
  match c.level, lvl with
  | _, none => s.runCtx n
  | .s, some .n => if byEvent then s.runCtx n else s
  | .s, some .h => if byEvent then s.runCtx n else s
  | .h, some .n => if byEvent then s.runCtx n else s
  | _, _ => s

/-! ### Log records -/

/-- Octets of a record as it is stored: 24 of header, the payload, 4 of CRC (R412). -/
def LogRec.size (r : LogRec) : Nat := 28 + r.payload.length

/-- Octets that a port's FIFO holds. -/
def fifoBytes (l : List LogRec) : Nat := (l.map LogRec.size).sum

/-- A port's FIFO takes a record if its 4 KiB has room (R420). -/
def fifoFits (l : List LogRec) (r : LogRec) : Bool := decide (fifoBytes l + r.size ≤ 4096)

/-! ### Interrupts and events -/

/-- Signal an MSI-X vector (R314): nothing while MSI-X Enable is 0; its pending bit while it or the function is
masked; a message otherwise. -/
def State.signal (s : State) (v : Nat) : State :=
  if !s.host.msixEn then s
  else if s.host.funcMask || (sparseGet MsixEntry.reset s.host.msix v).masked then
    { s with host := { s.host with pba := if s.host.pba.contains v then s.host.pba else s.host.pba ++ [v] } }
  else { s with host := { s.host with msgs := s.host.msgs ++ [v] } }

/-- Store a record in a port's FIFO, hold it back, or drop it (R420). `act` marks a producer that does not wait.
STK_INT_STS.DROP is left to `State.pushLog`. -/
def State.pushRaw (s : State) (port : Fin 8) (act : Bool) (r : LogRec) : State :=
  let q := s.stk.ports[port]
  let blocked := s.waitingLog.any fun w => w.1.toFin.val == port.val
  if fifoFits q r && (act || !blocked) then
    { s with stk := { s.stk with ports := s.stk.ports.set port (q ++ [r]) } }
  else if act || !s.stk.started then { s with stk := { s.stk with drop := s.stk.drop + 1 } }
  else { s with waitingLog := s.waitingLog ++ [(BitVec.ofNat 3 port.val, r)] }

/-- An EVENT record (R419). -/
def eventRec (block code : Nat) (sev : BitVec 2) (slice : Byte) (a0 a1 a2 : Nat) : LogRec :=
  { type := 0x0010, severity := sev, slice := slice,
    payload := [BitVec.ofNat 8 block, BitVec.ofNat 8 code, 0#8, 0#8] ++ beNat 8 a0 ++ beNat 8 a1 ++ beNat 8 a2 }

/-- Severities of Table 15.2. -/
abbrev sevTrace : BitVec 2 := 0
abbrev sevNotice : BitVec 2 := 1
abbrev sevAudit : BitVec 2 := 2
abbrev sevEvidence : BitVec 2 := 3

/-- The slice of a device record. -/
abbrev devSlice : Byte := 0xFF

/-- ARG1 of an EVENT that names a status and a detail (R419). -/
def Verdict.arg (v : Verdict) : Nat := v.status.toNat + 0x10000 * v.detail.toNat

/-- Post an event to a queue (R266): to the lowest-numbered context that waits there, or queued, or dropped, counted
and recorded. -/
def State.postEvent (s : State) (key : Nat) (e : Event) : State :=
  match s.worlds.ctxs.find? (fun c => c.2.state == .waiting && c.2.queueKey == key &&
      (match c.2.wait with | .evwait _ _ => true | _ => false)) with
  | some (n, c) =>
    match c.wait with
    | .evwait rd rs2 =>
      (s.setCtx n ((c.setG rd (e.tag ++ e.arg)).setG rs2 ((e.kind.setWidth 32 : Word) ++ e.index))).wake n true
    | _ => s
  | none =>
    let q := sparseGet EventQueue.empty s.worlds.queues key
    let put (q : EventQueue) : State :=
      { s with worlds := { s.worlds with queues := sparseSet EventQueue.empty s.worlds.queues key q } }
    if q.events.length < 64 then put { q with events := q.events ++ [e] }
    else (put { q with dropped := satInc q.dropped }).pushRaw 1 false (eventRec 22 1 sevNotice devSlice key 0 0)

/-- Post an interrupt source (R296): below 0x40 to the S queue, else to the H queue and on its vector. A source
already queued is not queued again. -/
def State.postSource (s : State) (n : Nat) : State :=
  let key := if n < 0x40 then 65 else 64
  let e : Event := { kind := 0x80, arg := BitVec.ofNat 32 n, tag := 0, index := 0 }
  let q := sparseGet EventQueue.empty s.worlds.queues key
  let s := if q.events.any (fun x => x.kind == 0x80 && x.arg == e.arg) then s else s.postEvent key e
  if n < 0x40 then s else s.signal (n - 0x40)

/-- The interrupt sources of a status bit: the status register's offset and the bit's number (Table 10.5, Table 11.2,
R359, R388, R411, R438, R439, R459, R460). -/
def intSources (a bit : Nat) : List Nat :=
  if a = 0x080060 then [0x01]
  else if a = 0x090060 then [0x02]
  else if a = 0x0A00A0 then (if bit = 2 then [0x03, 0x46] else [0x03])
  else if a = 0x0B0040 then (if bit = 2 ∨ bit = 3 then [0x04, 0x44] else [0x04])
  else if a = 0x0C0040 then [0x04]
  else if a = 0x06000C then [0x41]
  else if a = 0x050004 then [0x42]
  else if a = 0x0D0090 ∨ a = 0x0E0090 then [0x43]
  else if a = 0x020050 then (if bit ≤ 2 then [0x51] else if bit = 3 then [0x46] else [0x50])
  else if a = 0x0F00A0 then [0x10, 0x52]
  else if a = 0x1000C0 then [0x11]
  else if a = 0x110050 then [0x12, 0x53]
  else if a = 0x1300C0 then [0x13, 0x54]
  else if a = 0x1400C0 then [0x14, 0x55]
  else if a = 0x000030 then [0x15, 0x56]
  else if a = 0x010040 then [0x16, 0x57]
  else []

/-- Set an interrupt status bit; the sources are posted when it becomes set while enabled (R296). The enable register
follows the status register. -/
def State.raise (s : State) (a bit : Nat) : State :=
  let old := s.reg a
  let s := s.setReg a (old ||| (1#32 <<< bit))
  if old.getLsbD bit || !(s.reg (a + 4)).getLsbD bit then s
  else (intSources a bit).foldl State.postSource s

/-- STK_INT_STS, TMP_INT_STS and the other status registers by block. -/
abbrev intMod : Nat := 0x000030
abbrev intPwr : Nat := 0x010040
abbrev intSlc : Nat := 0x020050
abbrev intWsk : Nat := 0x050004
abbrev intKt : Nat := 0x06000C
abbrev intCp : Nat := 0x080060
abbrev intBn : Nat := 0x090060
abbrev intCld : Nat := 0x0A00A0
abbrev intTl : Nat := 0x0B0040
abbrev intCal : Nat := 0x0C0040
abbrev intMk : Nat := 0x0D0090
abbrev intSeal : Nat := 0x0E0090
abbrev intStr : Nat := 0x0F00A0
abbrev intCus : Nat := 0x1000C0
abbrev intTmp : Nat := 0x110050
abbrev intStk : Nat := 0x1300C0
abbrev intAud : Nat := 0x1400C0

/-- Send a record to a port (R420); a drop sets STK_INT_STS.DROP. -/
def State.pushLog (s : State) (port : Fin 8) (act : Bool) (r : LogRec) : State :=
  let t := s.pushRaw port act r
  if t.stk.drop = s.stk.drop then t else t.raise intStk 3

/-- Record an EVENT of a device-wide subject from a producer that can wait. -/
def State.logEvent (s : State) (port : Fin 8) (block code : Nat) (sev : BitVec 2) (a0 a1 a2 : Nat) : State :=
  s.pushLog port false (eventRec block code sev devSlice a0 a1 a2)

/-- Record an EVENT of a device-wide subject from a block that acts at once: at a full FIFO the record is dropped and counted
(R420). -/
def State.logAct (s : State) (port : Fin 8) (block code : Nat) (sev : BitVec 2) (a0 a1 a2 : Nat) : State :=
  s.pushLog port true (eventRec block code sev devSlice a0 a1 a2)

/-- Record an EVENT that concerns a slice. -/
def State.logSlice (s : State) (port : Fin 8) (block code : Nat) (sev : BitVec 2) (slice : Byte)
    (a0 a1 a2 : Nat) : State :=
  s.pushLog port false (eventRec block code sev slice a0 a1 a2)

/-! ### Refusing a write that its issuer may not make (R491) -/

/-- The level an accessor speaks for. -/
def Accessor.isS : Accessor → Bool
  | .s => true
  | _ => false

/-- S or H. The H level includes the host under the manager's PASID (R388, Table 12.2; assumption 2). -/
def Accessor.isSH : Accessor → Bool
  | .s => true
  | .h _ => true
  | .manager => true
  | _ => false

end Sys2Proof.Machine
end

