-- ==== Sys2Proof/Machine/StrainerOps.lean ====
section
/-! DEFINITION. Strainer's decision on an access: check addresses, requesters, the baseline, windows and rules
(R342 to R350). -/

namespace Sys2Proof.Machine

/-- ORIGIN of a requester (Table 12.2), coded as STR_FLT_INFO.ORIGIN. -/
inductive ReqOrigin where
  | core
  | engine
  | host
  deriving DecidableEq, Repr

/-- The requester attributes of Table 12.2. -/
structure ReqAttr where
  origin : ReqOrigin
  level : Level
  slice : Option (BitVec 6)
  bind : Option (BitVec 4)
  deriving DecidableEq, Repr

/-- Permissions an access needs or an entry leaves: [0] R, [1] W, [2] X. -/
abbrev permR : BitVec 3 := 1
abbrev permW : BitVec 3 := 2
abbrev permX : BitVec 3 := 4

/-- `need` is within `perm`. -/
def permOk (need perm : BitVec 3) : Bool := need &&& perm == need

/-- ORIGIN and LEVEL as codes and as bits of a rule. -/
def ReqOrigin.code : ReqOrigin → Nat
  | .core => 0
  | .engine => 1
  | .host => 2

def Level.code : Level → Nat
  | .n => 0
  | .h => 1
  | .s => 2

/-- A refusal: its source (0 baseline, 1 window, 2 rule), the index, the rule's TAG. -/
structure StrRefusal where
  source : Nat
  index : Nat
  tag : Word
  deriving DecidableEq, Repr

/-- The region of a check address (Table 12.1): its top four bits. -/
def regionOf (a : Nat) : Nat := a / 0x10000000

/-- The range of a window or rule holds the 64 B piece of a check address. -/
def holds (base limit : BitVec 26) (a : Nat) : Bool :=
  decide (base.toNat ≤ a / 64) && decide (a / 64 ≤ limit.toNat)

/-- A device rule as the current or the previous epoch has it (R353). -/
def Strainer.ruleOf (t : Strainer) (old : Bool) (i : Nat) (r : Rule) : Rule :=
  if old then ((t.oldRules.find? fun e => e.1 == i).map Prod.snd).getD r else r

/-- The rule table under an epoch: indices that the last landing changed read their previous values. -/
def Strainer.rulesFor (t : Strainer) (old : Bool) : List (Nat × Rule) :=
  if old then
    (t.rules.filter fun e => !t.oldRules.any fun o => o.1 == e.1) ++ t.oldRules
  else t.rules

/-- The window table under an epoch. -/
def Strainer.winsFor (t : Strainer) (old : Bool) : List (Nat × Window) :=
  if old then
    (t.wins.filter fun e => !t.oldWins.any fun o => o.1 == e.1) ++ t.oldWins
  else t.wins

/-- A rule matches a requester (R347). -/
def Rule.matches (r : Rule) (q : ReqAttr) : Bool :=
  r.valid && r.origin.getLsbD q.origin.code && r.level.getLsbD q.level.code &&
  (r.allSlices || (match q.slice with | some s => s == r.slice | .none => r.noSlice))

/-- Step 2 of R346: the refusal by the requester's windows, if any. -/
def Strainer.windowRefusal (t : Strainer) (old : Bool) (q : ReqAttr) (need : BitVec 3) (a : Nat) :
    Option StrRefusal :=
  match q.level, q.slice with
  | .n, some s =>
    let mine := (t.winsFor old).filter fun e =>
      e.1 / 8 == s.toNat && e.2.valid && regionOf (e.2.base.toNat * 64) == regionOf a
    if mine.isEmpty then none
    else match mine.find? fun e => holds e.2.base e.2.limit a with
      | none => some ⟨1, 8 * s.toNat, 0⟩
      | some (i, w) =>
        if !w.origin.getLsbD q.origin.code ||
           (q.origin == .host && !(match q.bind with | some b => w.pasidMask.getLsbD b.toNat | none => false)) ||
           !permOk need w.perm then some ⟨1, i, 0⟩ else none
  | _, _ => none

/-- Step 3 of R346: the lowest-numbered matching rule that lacks a needed permission. -/
def Strainer.ruleRefusal (t : Strainer) (old : Bool) (q : ReqAttr) (need : BitVec 3) (a : Nat) :
    Option StrRefusal :=
  let bad := (t.rulesFor old).filter fun e => e.2.matches q && holds e.2.base e.2.limit a && !permOk need e.2.perm
  (bad.foldl (fun (m : Option (Nat × Rule)) e => match m with
    | none => some e
    | some x => if e.1 < x.1 then some e else m) none).map fun e => ⟨2, e.1, e.2.tag⟩

/-- The decision on one piece (R346): none allows. `base` says whether the baseline gives the need. -/
def Strainer.piece (t : Strainer) (old : Bool) (q : ReqAttr) (base : Bool) (need : BitVec 3) (a : Nat) :
    Option StrRefusal :=
  if !base then some ⟨0, 0, 0⟩
  else match t.windowRefusal old q need a with
    | some r => some r
    | none => t.ruleRefusal old q need a

/-- First bytes of the 64 B pieces of an access of `n` bytes at `a`: where each piece's bytes begin. -/
def pieceStarts (a n : Nat) : List Nat :=
  if n = 0 then [] else (List.range ((a + n - 1) / 64 - a / 64 + 1)).map fun i => if i = 0 then a else (a / 64 + i) * 64

/-- The first forbidden address of an access and why, piece by piece (R350). -/
def Strainer.firstRefusal (t : Strainer) (old : Bool) (q : ReqAttr) (base : Bool) (need : BitVec 3) (a n : Nat) :
    Option (Nat × StrRefusal) :=
  (pieceStarts a n).findSome? fun p => (t.piece old q base need p).map fun r => (p, r)

/-- Whether the byte at `a` lies in an allowed piece. -/
def Strainer.byteOk (t : Strainer) (old : Bool) (q : ReqAttr) (base : Bool) (need : BitVec 3) (a : Nat) : Bool :=
  (t.piece old q base need a).isNone

/-- The detail code of a refusal's source (Table 12.9). -/
def StrRefusal.detail (r : StrRefusal) : Byte :=
  if r.source = 0 then 0xA0 else if r.source = 1 then 0xA1 else 0xA2

/-- Record a refusal: capture it if none is captured, else set OVERFLOW; count it (Table 12.11). -/
def State.captureRefusal (s : State) (old : Bool) (q : ReqAttr) (need : BitVec 3) (a : Nat) (r : StrRefusal) :
    State :=
  let sts := s.reg 0x0F0080
  let s := s.setReg 0x0F0094 (s.reg 0x0F0094 + 1)
  if sts.getLsbD 0 then s.setReg 0x0F0080 (sts ||| 2)
  else
    let info : Nat := q.origin.code + 4 * q.level.code + 16 * (q.slice.map BitVec.toNat).getD 0 +
      (if q.slice.isSome then 0x400 else 0) + 0x800 * need.toNat + 0x4000 * r.source + 0x10000 * r.index +
      0x10000000 * (q.bind.map BitVec.toNat).getD 0
    let s := s.setReg 0x0F0080 (sts ||| 1)
    let s := s.setRegs 0x0F0084 [BitVec.ofNat 32 a, BitVec.ofNat 32 info, r.tag,
      if old then s.str.epoch - 1 else s.str.epoch]
    (s.raise intStr 3).logEvent 6 15 4 sevNotice a 0 info

end Sys2Proof.Machine
end

