-- ==== Sys2Proof/Machine/MemOps.lean ====
section
/-! DEFINITION. Recipe memory: the watermark, the two stages of translation, store visibility, link watches
(R252, R253, R280 to R290). -/

namespace Sys2Proof.Machine

/-- Bytes of recipe memory: 16 MiB. -/
def recipeSize : Nat := 0x1000000

/-- Size of a page: 64 KiB. -/
def pageSize : Nat := 0x10000

/-- A physical address lies in a secure page (R280). -/
def State.securePhys (s : State) (p : Nat) : Bool := decide (p / pageSize < s.worlds.wmark.toNat)

/-- The segment of a map that holds a virtual address (R284). -/
def segOf (map : List MapSeg) (va : Nat) : Option MapSeg :=
  map.find? fun g => g.vbase.toNat ≤ va && va < g.vbase.toNat + g.len.toNat

/-- Stage 1 (R284): the output address, if a segment holds the address with the permission. -/
def stage1 (map : List MapSeg) (need : BitVec 3) (va : Nat) : Option Nat :=
  match segOf map va with
  | some g => if permOk need g.perm then some (g.obase.toNat + (va - g.vbase.toNat)) else none
  | none => none

/-- The stage-2 entry of a page of a slice's intermediate space. An entry with a change pending counts as invalid
(R288). -/
def State.s2 (s : State) (slice : BitVec 6) (page : Nat) : S2Entry :=
  if s.worlds.s2Pending.any fun c => c.slice == slice && c.page.toNat == page then S2Entry.none
  else sparseGet S2Entry.none s.worlds.s2 (slice.toNat * 64 + page)

/-- Stage 2 (R286): an intermediate address of a slice to a physical address. -/
def State.stage2 (s : State) (slice : BitVec 6) (need : BitVec 3) (ipa : Nat) : Option Nat :=
  if ipa < 0x400000 then
    let e := s.s2 slice (ipa / pageSize)
    let perm : BitVec 3 := (if e.r then 1 else 0) ||| (if e.w then 2 else 0) ||| (if e.x then 4 else 0)
    if e.valid && permOk need perm then some (e.ppn.toNat * pageSize + ipa % pageSize) else none
  else none

/-- Stage 1 at a level: at S, what no segment holds may lie in the window onto normal memory (R284). -/
def stage1At (level : Level) (map : List MapSeg) (need : BitVec 3) (va : Nat) : Option Nat :=
  match stage1 map need va with
  | some a => some a
  | none =>
    if level = .s ∧ 0x80000000 ≤ va ∧ va < 0x81000000 ∧ permOk need 3 then some (va - 0x80000000) else none

/-- Both stages (R284, R286): the stage-1 output address and the physical address. -/
def State.stages (s : State) (level : Level) (slice : BitVec 6) (map : List MapSeg) (need : BitVec 3) (va : Nat) :
    Option (Nat × Nat) :=
  match stage1At level map need va with
  | none => none
  | some a =>
    match (if level = .n then s.stage2 slice need a else some a) with
    | some p => if p < recipeSize then some (a, p) else none
    | none => none

/-- Only accesses made at level S reach secure pages (R281, R345). -/
def State.mayReach (s : State) (level : Level) (p : Nat) : Bool := level == .s || !s.securePhys p

/-- The translation of a virtual address at a level, under a map (R281, R284, R286). -/
def State.translate (s : State) (level : Level) (slice : BitVec 6) (map : List MapSeg) (need : BitVec 3) (va : Nat) :
    Option Nat :=
  match s.stages level slice map need va with
  | some x => if s.mayReach level x.2 then some x.2 else none
  | none => none

/-- The translation of a range, page by page: none if a byte of it does not translate. -/
def State.reachFrom (s : State) (level : Level) (slice : BitVec 6) (map : List MapSeg) (write : Bool) :
    Nat → Nat → Nat → Option (List Reach)
  | _, _, 0 => some []
  | 0, _, _ => none
  | fuel + 1, va, len =>
    match s.stages level slice map (if write then permW else permR) va with
    | none => none
    | some x =>
      let n := min len (pageSize - x.1 % pageSize)
      match s.reachFrom level slice map write fuel (va + n) (len - n) with
      | none => none
      | some rest =>
        some (⟨write, va, n, x.2, if level = .n then some (x.1 / pageSize) else none⟩ :: rest)

/-- A context's own translation. -/
def State.ctxTranslate (s : State) (c : Context) (need : BitVec 3) (va : Nat) : Option Nat :=
  s.translate c.level c.slice c.map need va

/-- The byte a context reads: its own latest store, or recipe memory (R253). -/
def State.ctxByte (s : State) (c : Context) (p : Nat) : Byte :=
  match c.stores.reverse.find? fun e => e.1 == p with
  | some e => e.2
  | none => memByte s.worlds.recipe p

/-- `n` bytes that a context reads. -/
def State.ctxRead (s : State) (c : Context) (p n : Nat) : Bytes := (List.range n).map fun i => s.ctxByte c (p + i)

/-- Zero the secure pages (R302, R306). -/
def State.zeroSecure (s : State) : State :=
  { s with worlds := { s.worlds with recipe := memZero s.worlds.recipe 0 (s.worlds.wmark.toNat * pageSize) } }

/-- The map that START binds at a level (R283): its slice's, the manager's 64, the kernel's 65. -/
def State.mapFor (s : State) (level : Level) (slice : BitVec 6) : List MapSeg :=
  sparseGet [] s.worlds.maps (match level with | .n => slice.toNat | .h => 64 | .s => 65)

end Sys2Proof.Machine
end

