-- ==== Sys2Proof/Machine/HostOps.lean ====
section
/-! DEFINITION. Slices, faults of the host link, completions (R311 to R314, R326, R332, R333, R262). -/

namespace Sys2Proof.Machine

/-- A slice by its number. -/
def State.slc (s : State) (n : Nat) : Slice := sparseGet Slice.reset s.host.slices n

/-- Replace a slice. -/
def State.setSlc (s : State) (n : Nat) (x : Slice) : State :=
  { s with host := { s.host with slices := sparseSet Slice.reset s.host.slices n x } }

/-- A ring of a slice. -/
def Slice.ring (x : Slice) (r : Nat) : Ring := sparseGet Ring.reset x.rings r

/-- Replace a ring. -/
def Slice.setRing (x : Slice) (r : Nat) (g : Ring) : Slice :=
  { x with rings := sparseSet Ring.reset x.rings r g }

/-- A ring of a slice of the device. -/
def State.ring (s : State) (n r : Nat) : Ring := (s.slc n).ring r

/-- Replace a ring of a slice of the device. -/
def State.setRing (s : State) (n r : Nat) (g : Ring) : State := s.setSlc n ((s.slc n).setRing r g)

/-- The slice-event vector of a slice (Table 11.2). -/
def sliceVector (n : Nat) : Nat := 64 + 31 * n + 16

/-- The vector of a completion ring (Table 11.2). -/
def ringVector (n r : Nat) : Nat := 64 + 31 * n + r

/-- A register of two words with a bit for each slice: set a slice's bit. -/
def State.setSliceBit (s : State) (a n : Nat) : State :=
  let a := if n < 32 then a else a + 4
  s.setReg a (s.reg a ||| (1#32 <<< (n % 32)))

/-- Raise SLICE_ERR of a slice (Table 11.16). -/
def State.sliceErr (s : State) (n : Nat) : State := (s.setSliceBit 0x020060 n).raise intSlc 3

/-- Set a bit of SLC_PG_ERR: SLICE_ERR is raised and the slice's vector signalled when the bit becomes set. -/
def State.pgErr (s : State) (n bit : Nat) : State :=
  let x := s.slc n
  if x.pgErr.getLsbD bit then s
  else ((s.setSlc n { x with pgErr := x.pgErr ||| (1#8 <<< bit) }).sliceErr n).signal (sliceVector n)

/-- Set a bit of SLC_ERR. -/
def State.slcErr (s : State) (n bit : Nat) : State :=
  let x := s.slc n
  (s.setSlc n { x with err := x.err ||| (1#8 <<< bit) }).sliceErr n

/-- Codes of Table 11.3. -/
def SliceState.code : SliceState → Nat
  | .free => 0
  | .active => 1
  | .quiescing => 2
  | .quiesced => 3
  | .resetting => 4
  | .removing => 5

/-- Move a slice to a state: recorded at Audit (R339), and its SLC_PG_STS changes. -/
def State.moveSlice (s : State) (n : Nat) (st : SliceState) : State :=
  let x := s.slc n
  if x.state = st then s
  else ((s.setSlc n { x with state := st }).logSlice 6 2 1 sevAudit (BitVec.ofNat 8 n) n 0 st.code).signal
    (sliceVector n)

/-- An engine is retired: the condition "engine class degraded" (R8, R185). -/
def State.degraded (s : State) : Bool := s.eng.table.any fun e => e.2.health == .retired

/-- The four status conditions of R8. -/
def State.conditions (s : State) : Bool × Bool × Bool × Bool :=
  (s.stk.hold, s.timeUntrusted, s.worlds.restarting, s.degraded)

/-- After a change of a status condition, SLC_PG_STS of every slice has changed (Table 11.2). -/
def State.noteConditions (s old : State) : State :=
  if s.conditions = old.conditions then s
  else (List.range 64).foldl (fun t n => t.signal (sliceVector n)) s

/-- Log a fault of the host link (R311, R313): the first since the status was cleared is captured, later ones set
OVERFLOW. The bits of Table 11.16 that name what happened, not what was logged, are set in either case: POISON_RX, DMA_ERR,
DMA_TIMEOUT, ATS_FAIL. -/
def State.hostFault (s : State) (bit : Nat) (addr : DWord) (pasid : Option (BitVec 20))
    (write received : Bool) (slice : Option (BitVec 6)) : State :=
  let sts := s.reg 0x020034
  let s := s.setReg 0x020044 (s.reg 0x020044 + 1)
  let info : Nat := (pasid.map BitVec.toNat).getD 0 + (if pasid.isSome then 0x100000 else 0) +
    (if write then 0x200000 else 0) + (if received then 0x400000 else 0) +
    0x800000 * (slice.map BitVec.toNat).getD 0 + (if slice.isSome then 0x20000000 else 0)
  if sts = 0 then
    let s := (s.setReg64 0x020038 addr).setReg 0x020040 (BitVec.ofNat 32 info)
    ((s.setReg 0x020034 (1#32 <<< bit)).raise intSlc 4).logEvent 6 2 4 sevNotice addr.toNat 0 info
  else
    let new := sts ||| 0x80#32 ||| (if 3 ≤ bit then 1#32 <<< bit else 0)
    let s := s.setReg 0x020034 new
    if new = sts then s else s.raise intSlc 4

/-- The PASID that a slice's ring names (R312). -/
def State.ringPasid (s : State) (n r : Nat) : Option (BitVec 20) := (s.slc n).pasid (s.ring n r).pasidIdx.toNat

/-- The PASID that a job's requests carry (R312): that of the ring that caused it. -/
def State.originPasid (s : State) (o : Origin) : Option (BitVec 20) :=
  match o with
  | .ring n r _ => s.ringPasid n.toNat r.toNat
  | _ => none

/-- The 4 KiB pages of a range of host memory. -/
def hostPages (addr : DWord) (n : Nat) : List (BitVec 52) :=
  if n = 0 then []
  else (List.range ((addr.toNat % 4096 + n + 4095) / 4096)).map fun i => addr.extractLsb' 12 52 + BitVec.ofNat 52 i

/-- The device's requests to a range of host memory (R312): while ATS is enabled it asks for the translations that it does not
hold, under the PASID of the requests, and caches them. DESIGN CHOICE: a full cache loses its oldest (assumption 104). -/
def State.atsUse (s : State) (pasid : Option (BitVec 20)) (addr : DWord) (n : Nat) : State :=
  match pasid with
  | none => s
  | some p =>
    if !s.host.atsEn then s
    else
      let new := ((hostPages addr n).map fun g => (p, g)).filter fun e => !s.host.ats.contains e
      let all := s.host.ats ++ new
      { s with host := { s.host with ats := all.drop (all.length - 4096), atsAsked := s.host.atsAsked ++ new } }

/-- Invalidations complete when no request that used the translations is left (R312). -/
def State.atsDone (s : State) : State :=
  if s.host.atsDue = 0 || s.eng.table.any (fun e => match e.2.running with | some g => g.awaited | none => false) then s
  else { s with host := { s.host with invalidated := s.host.invalidated + s.host.atsDue, atsDue := 0 } }

/-- A write into host memory, under the PASID it is made with (R312). -/
def State.hostWrite (s : State) (slice : Option (BitVec 6)) (pasid : Option (BitVec 20)) (addr : DWord)
    (data : Bytes) : State :=
  let w : HostWrite := { slice := slice, pasid := pasid, addr := addr, data := data }
  let s := s.atsUse pasid addr data.length
  { s with host := { s.host with dma := s.host.dma ++ [w] } }

/-- The 16 octets of a completion (Tables 9.8 and 11.8). -/
def completionBytes (v : Verdict) (phase half notice : Bool) (index : Word) (result : DWord) : Bytes :=
  let flags : Byte := (if phase then 1 else 0) ||| (if half then 2 else 0) ||| (if notice then 4 else 0)
  le 2 v.status ++ [v.detail, flags] ++ le 4 index ++ le 8 result

/-- Stop a ring (R326). -/
def State.stopRing (s : State) (n r : Nat) (index : Word) (errBit : Nat) : State :=
  let g := s.ring n r
  ((s.setRing n r { g with state := .stopped, errIdx := index, chain := [], fetched := [] }).pgErr n errBit).logSlice 6 2 3 sevNotice
    (BitVec.ofNat 8 n) (n * 16 + r) 0 index.toNat

/-- Signal a ring's vector and start the count again (R333). -/
def State.signalRing (s : State) (n r : Nat) : State :=
  let g := s.ring n r
  (s.setRing n r { g with unsignalled := 0 }).signal (ringVector n r)

/-- SQ SIZE and CQ SIZE of a ring (Table 11.15). -/
def Ring.sqSize (g : Ring) : Nat := 2 ^ g.sqLog2.toNat
def Ring.cqSize (g : Ring) : Nat := 2 ^ g.cqLog2.toNat

/-- Completion slots that no consumed job reserves and the host has consumed (R327, R332). -/
def Ring.slots (g : Ring) : Nat := g.cqSize - (g.inFlight + (g.cqTail - g.cqHead).toNat)

/-- Write a completion into a host ring and signal as R333 says. A ring that is stopped or disabled with nothing in
flight takes none. -/
def State.ringComplete (s : State) (n r : Nat) (v : Verdict) (half notice : Bool) (index : Word) (result : DWord) :
    State :=
  let g := s.ring n r
  if g.state != .running then s
  else
    let size := 2 ^ g.cqLog2.toNat
    let phase := decide (g.cqTail.toNat / size % 2 = 0)
    let s := s.hostWrite (some (BitVec.ofNat 6 n)) (s.ringPasid n r) (g.cq + BitVec.ofNat 64 (16 * (g.cqTail.toNat % size)))
      (completionBytes v phase half notice index result)
    let fl := if notice then g.inFlight else g.inFlight - 1
    let done := !g.enable && fl == 0
    let s := s.setRing n r { g with
      cqTail := g.cqTail + 1, inFlight := fl, unsignalled := g.unsignalled + 1,
      firstUnsignalled := if g.unsignalled = 0 then s.now else g.firstUnsignalled,
      state := if done then .disabled else g.state }
    if g.irqEn && (g.coalN == 0 || decide (g.coalN.toNat ≤ g.unsignalled + 1)) then s.signalRing n r else s

/-- Write a completion into an internal queue's completion ring, then advance CDONE (R262). The ring is reached under
the map that the context holds; a slot that does not translate is not written. A queue that a RESET has disabled takes the
completions of the jobs that the RESET aborted (R263, R269). -/
def State.queueComplete (s : State) (ctx : Nat) (q : BitVec 2) (v : Verdict) (half : Bool) (index : Word)
    (result : DWord) : State :=
  let c := s.ctx ctx
  let qu := c.queues[q.toFin.val]
  if !qu.enable && v.status != St.abortedQuiesce then s
  else
    let size := 2 ^ qu.sizeLog2.toNat
    let phase := decide (qu.cdone.toNat / size % 2 = 0)
    let va := qu.cbase.toNat + 16 * (qu.cdone.toNat % size)
    let map := match c.gate with | some f => f.map | none => c.map
    let level := match c.gate with | some f => f.level | none => c.level
    let s := match s.translate level c.slice map permW va with
      | some p => s.recipeWrite none p (completionBytes v phase half false index result)
      | none => s
    let c := s.ctx ctx
    s.setCtx ctx { c with queues := c.queues.set q.toFin.val { qu with cdone := qu.cdone + 1 } }

/-- The completion of a KT_CMD command (Tables 2.17 to 2.19). -/
def State.ktDone (s : State) (v : Verdict) (result : DWord) : State :=
  let sts := v.status.setWidth 32 ||| (v.detail.setWidth 32 <<< 16) ||| 0x80000000#32 |||
    (s.reg 0x060008 &&& 0x40000000#32)
  ((s.setReg 0x060008 sts).setReg64 0x060018 result).raise intKt 0

/-- Give a job or command its completion (R262, R332). The device's own work takes its elsewhere. -/
def State.complete (s : State) (o : Origin) (v : Verdict) (half : Bool) (result : DWord) : State :=
  let s := { s with completions := s.completions ++ [{ origin := o, verdict := v, half := half, result := result }] }
  match o with
  | .ring n r i => s.ringComplete n.toNat r.toNat v half false i result
  | .queue c q i => s.queueComplete c.toNat q v half i result
  | .regs => s.ktDone v result
  | .device => s

/-- A completion without a result. -/
def State.fail (s : State) (o : Origin) (st : Half) (detail : Nat) : State :=
  s.complete o ⟨st, BitVec.ofNat 8 detail⟩ false 0

end Sys2Proof.Machine
end

