-- ==== Sys2Proof/Machine/CalOps.lean ====
section
/-! DEFINITION. The calendar's entries and the markets' instants in it (R202 to R206, R218, R221). -/

namespace Sys2Proof.Machine

/-- Entry kinds (Table 7.5). -/
abbrev kindMarketOpen : Byte := 0x01
abbrev kindMarketClose : Byte := 0x02
abbrev kindSealTick : Byte := 0x03
abbrev kindKeyRoll : Byte := 0x04
abbrev kindStkSeal : Byte := 0x05
abbrev kindWake : Byte := 0x06
abbrev kindUser : Byte := 0x07

/-- The same-instant order of a kind (Table 7.5). -/
def kindOrder (k : Byte) : Nat :=
  if k = 0x02 then 1 else if k = 0x03 then 2 else if k = 0x04 then 3 else if k = 0x01 then 4
  else if k = 0x05 then 5 else if k = 0x06 then 6 else 7

/-- The kinds held while time is untrusted (Table 7.5, R205). -/
def kindHeld (k : Byte) : Bool := k != 0x03 && k != 0x05

/-- The whole microsecond that the counter is in. -/
def State.nowUs (s : State) : Nat := s.tl.ns.toNat / 1000

/-- The lowest index from `i` on that no entry of a rising list holds. -/
def freeIndex (i : Nat) : List Nat → Nat
  | [] => i
  | k :: ks => if k = i then freeIndex (i + 1) ks else i

/-- Places in use by entries of one SLICE value. -/
def State.calUsed (s : State) (slice : Byte) : Nat := (s.cal.entries.filter fun e => e.2.slice == slice).length

/-- Where an added entry stands to its instant (R204): one whose instant has passed, or is being dispatched, is due at the
next whole µs. In a frame-start cycle the dispatch of the instant has not begun (R457). -/
def State.calDue (s : State) (landing : Bool) (e : CalEntry) : CalEntry :=
  let t := e.atUs.toNat * 1000
  let passed := decide (t < s.tl.ns.toNat) || (!landing && decide (t = s.tl.ns.toNat))
  { e with due := if passed then some (BitVec.ofNat 64 (s.nowUs + 1)) else none }

/-- The whole µs at which an entry is due. -/
def CalEntry.dueUs (e : CalEntry) : Nat := (e.due.getD e.atUs).toNat

/-- Place an entry in the lowest free index. CAL_QUOTA or CAL_FULL (R206) when its SLICE's places are used up. -/
def State.calAdd (s : State) (landing : Bool) (e : CalEntry) : Except Byte (Nat × State) :=
  if e.slice = 0xFF ∧ 16384 ≤ s.calUsed 0xFF then .error 0x61
  else if e.slice ≠ 0xFF ∧ 768 ≤ s.calUsed e.slice then .error 0x60
  else
    let i := freeIndex 0 (s.cal.entries.map Prod.fst)
    let e := s.calDue landing e
    let before := s.cal.entries.filter fun x => x.1 < i
    let after := s.cal.entries.filter fun x => i < x.1
    .ok (i, { s with cal := { s.cal with entries := before ++ [(i, e)] ++ after } })

/-- Remove the entries that a test names. -/
def State.calRemove (s : State) (p : CalEntry → Bool) : State :=
  let gone := (s.cal.entries.filter fun e => p e.2).map Prod.fst
  { s with cal := { s.cal with
    entries := s.cal.entries.filter (fun e => !p e.2), held := s.cal.held.filter fun i => !gone.contains i } }

/-- An entry that the device places itself: SLICE 0xFF (R202). -/
def deviceEntry (kind : Byte) (atUs : Nat) (arg : Word) (period : Nat) : CalEntry :=
  { atUs := BitVec.ofNat 64 atUs, period := BitVec.ofNat 32 period, kind := kind, slice := 0xFF, late := false,
    arg := arg, tag := 0, level := 0, due := none }

/-- Add a device entry; a full calendar takes none. -/
def State.calPlace (s : State) (landing : Bool) (e : CalEntry) : State :=
  match s.calAdd landing e with
  | .ok r => r.2
  | .error _ => s

/-- A market by its index. -/
def State.market (s : State) (i : Nat) : Market := sparseGet Market.empty s.mkt.table i

/-- Replace a market. -/
def State.setMarket (s : State) (i : Nat) (m : Market) : State :=
  { s with mkt := { s.mkt with table := sparseSet Market.empty s.mkt.table i m } }

/-- ⌈ns ÷ 1,000⌉. -/
def ceilUs (ns : Nat) : Nat := (ns + 999) / 1000

/-- The entry of a kind that names a market. -/
def CalEntry.names (e : CalEntry) (kind : Byte) (i : Nat) : Bool :=
  e.kind == kind && e.slice == 0xFF && e.arg.toNat == i

/-- Move a market's MARKET_CLOSE entry to its CLOSE_NS (Table 8.5): none at 2^54 µs or more. -/
def State.moveClose (s : State) (landing : Bool) (i : Nat) : State :=
  let at_ := ceilUs (s.market i).closeNs.toNat
  let s := s.calRemove fun e => e.names kindMarketClose i
  if at_ < 2 ^ 54 then s.calPlace landing (deviceEntry kindMarketClose at_ (BitVec.ofNat 32 i) 0) else s

/-- A market closes itself at an instant (R221): CLOSE_NS becomes that instant, or stays if it is earlier. -/
def State.closeMarketAt (s : State) (i : Nat) (t : DWord) : State :=
  let m := s.market i
  if m.state != .scheduled && m.state != .open_ then s
  else if m.closeNs.toNat ≤ t.toNat then s
  else (s.setMarket i { m with closeNs := t }).moveClose false i

/-- Every market that a test names closes at the counter's value. -/
def State.closeMarkets (s : State) (p : Market → Bool) : State :=
  ((s.mkt.table.filter fun e => p e.2).map Prod.fst).foldl (fun t i => t.closeMarketAt i t.tl.ns) s

/-- Markets whose stamp or seal key is lost close with KEY_LOST set, recorded at Audit (R221). `lost` names the OPS bit
and the handle. -/
def State.keyLost (s : State) (lost : BitVec 6 → Nat → Word → Bool) : State :=
  let x (m : Market) : BitVec 6 := m.slice.setWidth 6
  ((s.mkt.table.filter fun e =>
      (e.2.state == .scheduled || e.2.state == .open_ || e.2.state == .closing) && !e.2.keyLost &&
      (lost (x e.2) 10 e.2.stampHandle || (e.2.sealHandle != 0 && lost (x e.2) 11 e.2.sealHandle) ||
       (e.2.seal2Handle != 0 && lost (x e.2) 11 e.2.seal2Handle))).map Prod.fst).foldl
    (fun t i =>
      let m := t.market i
      (((t.setMarket i { m with keyLost := true }).closeMarketAt i t.tl.ns).raise intMk 6).logSlice
        2 13 9 sevAudit m.slice i 0 0) s

end Sys2Proof.Machine
end

