-- ==== Sys2Proof/Machine/CerOps.lean ====
section
/-! DEFINITION. Owner and authority records, closing quorum windows, what stations show, undoing a generation (R368, R370,
R381, R385). -/

namespace Sys2Proof.Machine

/-- The event queue of a requester (R377). -/
def Requester.queueKey : Requester → Nat
  | .n x => x.toNat
  | .h => 64
  | .s => 65

/-- An owner record. -/
def State.owner (s : State) (o : Nat) : Owner := sparseGet Owner.absent s.trivet.owners o

/-- Replace an owner record. -/
def State.setOwner (s : State) (o : Nat) (r : Owner) : State :=
  { s with trivet := { s.trivet with owners := sparseSet Owner.absent s.trivet.owners o r } }

/-- An authority record. -/
def State.auth (s : State) (o : Nat) : Authority := sparseGet Authority.none s.trivet.authorities o

/-- Replace an authority record. -/
def State.setAuth (s : State) (o : Nat) (a : Authority) : State :=
  { s with trivet := { s.trivet with authorities := sparseSet Authority.none s.trivet.authorities o a } }

/-- Zero roots. -/
def State.zeroRoots (s : State) (rs : List (BitVec 10)) : State :=
  { s with trivet := { s.trivet with
    roots := s.trivet.roots.filter fun e => !(rs.any fun r => r.toNat == e.1) } }

/-- Close a quorum window for a reason (R385): it becomes free, its requester gets the event, the log a record. -/
def State.closeWindow (s : State) (w : Nat) (reason : Nat) : State :=
  match s.cus.windows.find? fun e => e.1 == w with
  | none => s
  | some (_, q) =>
    let s := { s with cus := { s.cus with windows := s.cus.windows.filter fun e => e.1 != w } }
    (s.postEvent q.who.queueKey { kind := 0x82, arg := BitVec.ofNat 32 w, tag := BitVec.ofNat 32 reason, index := 0 }).logEvent
      3 16 8 sevAudit w 0 reason

/-- Close every window that a test names. -/
def State.closeWindows (s : State) (p : QWindow → Bool) (reason : Nat) : State :=
  ((s.cus.windows.filter fun e => p e.2).map Prod.fst).foldl (fun t w => t.closeWindow w reason) s

/-- Indicator lines of position 8 (R368). -/
abbrev lampGreen : BitVec 3 := 1
abbrev lampAmber : BitVec 3 := 2
abbrev lampRed : BitVec 3 := 4

/-- The patterns of a text and of the indicators: the kernel supplies the font (R368). -/
def patterns (text : String) (lamp : BitVec 3) : Vector (BitVec 15) 9 :=
  Vector.ofFn fun i => if i.val < 8 then Config.font text i.val else lamp.setWidth 15

/-- A station. -/
def State.stn (s : State) (n : Nat) : Station := sparseGet Station.reset s.cus.stations n

/-- Replace a station. -/
def State.setStn (s : State) (n : Nat) (t : Station) : State :=
  { s with cus := { s.cus with stations := sparseSet Station.reset s.cus.stations n t } }

/-- Show a text at a station: at once, or once the notice that covers it has ended. -/
def State.showAt (s : State) (n : Nat) (text : String) (lamp : BitVec 3) : State :=
  let t := s.stn n
  s.setStn n { t with
    text := text, lamp := lamp, show_ := if s.cus.banner.isSome then t.show_ else patterns text lamp }

/-- Show a text at every station. -/
def State.showAll (s : State) (text : String) (lamp : BitVec 3) : State :=
  (List.range 8).foldl (fun t n => t.showAt n text lamp) s

/-- Show a notice at every station with red lit (R378, R380). -/
def State.notice (s : State) (text : String) : State :=
  let s := { s with cus := { s.cus with banner := some text } }
  (List.range 8).foldl (fun t n => t.setStn n { t.stn n with show_ := patterns text lampRed }) s

/-- The ceremony that a request asks for, and the owner that it names (Tables 13.10 to 13.12). -/
def CerRequest.cer (r : CerRequest) : Byte := if r.window then 0x10 else octet 0 r.desc
def CerRequest.owner (r : CerRequest) : Byte := if r.window then octet 0 r.desc else octet 1 r.desc

/-- The owner whose authority a ceremony creates or re-shares: owner 0 in a device-level ceremony, but for OWNER_CREATE. -/
def CerRequest.subject (r : CerRequest) : Nat :=
  if r.cer = 0x01 ∨ r.cer = 0x02 ∨ r.cer = 0x09 then 0 else r.owner.toNat

/-- Undo generation G (R381): roots it drew are erased, PEND_AGEN returns to 0. -/
def State.undoGeneration (s : State) (c : Ceremony) : State :=
  if !c.generated then s
  else
    let o := c.request.subject
    let s := s.zeroRoots c.drawn
    let s := if (s.owner o).state = .absent then s.setOwner o Owner.absent else s
    let a := s.auth o
    s.setAuth o (if a.agen = 0 then Authority.none else { a with pendAgen := 0 })

end Sys2Proof.Machine
end

