-- ==== Sys2Proof/Machine/Hashes.lean ====
section
/-! DEFINITION. The hash functions of the standards that the spec names: SHA-2 (FIPS 180-4), SHA-3 and SHAKE (FIPS 202),
HMAC (FIPS 198-1), KMAC (SP 800-185). R80 gives the algorithms and their blocks; what each computes is its standard's,
written from general knowledge of the standards: PRESUMED (assumption 3). -/

namespace Sys2Proof.Machine

/-- Two octet strings of one length, XORed. -/
def xorBytes (a b : Bytes) : Bytes := List.zipWith (· ^^^ ·) a b

/-- The first `n` words of a string, most significant octet first. -/
def beWords (w : Nat) : Nat → Bytes → List (BitVec w)
  | 0, _ => []
  | n + 1, bs => BitVec.ofNat w (ofBE (bs.take (w / 8))) :: beWords w n (bs.drop (w / 8))

/-! ### SHA-2 (FIPS 180-4) -/

/-- The fractional parts of the cube roots of the first 40 primes, 64 bits each. -/
def shaK0 : List Nat := [
  0x428A2F98D728AE22, 0x7137449123EF65CD, 0xB5C0FBCFEC4D3B2F, 0xE9B5DBA58189DBBC,
  0x3956C25BF348B538, 0x59F111F1B605D019, 0x923F82A4AF194F9B, 0xAB1C5ED5DA6D8118,
  0xD807AA98A3030242, 0x12835B0145706FBE, 0x243185BE4EE4B28C, 0x550C7DC3D5FFB4E2,
  0x72BE5D74F27B896F, 0x80DEB1FE3B1696B1, 0x9BDC06A725C71235, 0xC19BF174CF692694,
  0xE49B69C19EF14AD2, 0xEFBE4786384F25E3, 0x0FC19DC68B8CD5B5, 0x240CA1CC77AC9C65,
  0x2DE92C6F592B0275, 0x4A7484AA6EA6E483, 0x5CB0A9DCBD41FBD4, 0x76F988DA831153B5,
  0x983E5152EE66DFAB, 0xA831C66D2DB43210, 0xB00327C898FB213F, 0xBF597FC7BEEF0EE4,
  0xC6E00BF33DA88FC2, 0xD5A79147930AA725, 0x06CA6351E003826F, 0x142929670A0E6E70,
  0x27B70A8546D22FFC, 0x2E1B21385C26C926, 0x4D2C6DFC5AC42AED, 0x53380D139D95B3DF,
  0x650A73548BAF63DE, 0x766A0ABB3C77B2A8, 0x81C2C92E47EDAEE6, 0x92722C851482353B]

/-- The same of the next 40 primes. -/
def shaK1 : List Nat := [
  0xA2BFE8A14CF10364, 0xA81A664BBC423001, 0xC24B8B70D0F89791, 0xC76C51A30654BE30,
  0xD192E819D6EF5218, 0xD69906245565A910, 0xF40E35855771202A, 0x106AA07032BBD1B8,
  0x19A4C116B8D2D0C8, 0x1E376C085141AB53, 0x2748774CDF8EEB99, 0x34B0BCB5E19B48A8,
  0x391C0CB3C5C95A63, 0x4ED8AA4AE3418ACB, 0x5B9CCA4F7763E373, 0x682E6FF3D6B2B8A3,
  0x748F82EE5DEFB2FC, 0x78A5636F43172F60, 0x84C87814A1F0AB72, 0x8CC702081A6439EC,
  0x90BEFFFA23631E28, 0xA4506CEBDE82BDE9, 0xBEF9A3F7B2C67915, 0xC67178F2E372532B,
  0xCA273ECEEA26619C, 0xD186B8C721C0C207, 0xEADA7DD6CDE0EB1E, 0xF57D4F7FEE6ED178,
  0x06F067AA72176FBA, 0x0A637DC5A2C898A6, 0x113F9804BEF90DAE, 0x1B710B35131C471B,
  0x28DB77F523047D84, 0x32CAAB7B40C72493, 0x3C9EBE0A15C9BEBC, 0x431D67C49C100D4C,
  0x4CC5D4BECB3E42B6, 0x597F299CFC657E2A, 0x5FCB6FAB3AD6FAEC, 0x6C44198C4A475817]

/-- The fractional parts of the square roots of the first 16 primes, 64 bits each. -/
def shaH : List Nat := [
  0x6A09E667F3BCC908, 0xBB67AE8584CAA73B, 0x3C6EF372FE94F82B, 0xA54FF53A5F1D36F1,
  0x510E527FADE682D1, 0x9B05688C2B3E6C1F, 0x1F83D9ABFB41BD6B, 0x5BE0CD19137E2179,
  0xCBBB9D5DC1059ED8, 0x629A292A367CD507, 0x9159015A3070DD17, 0x152FECD8F70E5939,
  0x67332667FFC00B31, 0x8EB44A8768581511, 0xDB0C2E0D64F98FA7, 0x47B5481DBEFA4FA4]

/-- A member of SHA-2: its word size, its rounds, and the rotations of its four functions; the third number of the last two
is a shift. -/
structure Sha2 where
  w : Nat
  rounds : Nat
  bigA : Nat × Nat × Nat
  bigE : Nat × Nat × Nat
  small0 : Nat × Nat × Nat
  small1 : Nat × Nat × Nat

/-- The 32-bit member, SHA-256. -/
def sha2Small : Sha2 := ⟨32, 64, (2, 13, 22), (6, 11, 25), (7, 18, 3), (17, 19, 10)⟩

/-- The 64-bit members, SHA-384 and SHA-512. -/
def sha2Large : Sha2 := ⟨64, 80, (28, 34, 39), (14, 18, 41), (1, 8, 7), (19, 61, 6)⟩

/-- Constants in a member's words: the leading bits. -/
def Sha2.const (p : Sha2) (l : List Nat) : List (BitVec p.w) := l.map fun k => BitVec.ofNat p.w (k / 2 ^ (64 - p.w))

/-- Three rotations XORed. -/
def rot3 {w : Nat} (r : Nat × Nat × Nat) (x : BitVec w) : BitVec w :=
  x.rotateRight r.1 ^^^ x.rotateRight r.2.1 ^^^ x.rotateRight r.2.2

/-- Two rotations and a shift XORed. -/
def rotShift {w : Nat} (r : Nat × Nat × Nat) (x : BitVec w) : BitVec w :=
  x.rotateRight r.1 ^^^ x.rotateRight r.2.1 ^^^ (x >>> r.2.2)

/-- One round on the eight working words; `kw` is the round's constant plus its schedule word. -/
def Sha2.round (p : Sha2) (st : List (BitVec p.w)) (kw : BitVec p.w) : List (BitVec p.w) :=
  match st with
  | [a, b, c, d, e, f, g, h] =>
    let t1 := h + rot3 p.bigE e + ((e &&& f) ^^^ (~~~e &&& g)) + kw
    let t2 := rot3 p.bigA a + ((a &&& b) ^^^ (a &&& c) ^^^ (b &&& c))
    [t1 + t2, a, b, c, d + t1, e, f, g]
  | other => other

/-- The rounds, over the last sixteen schedule words. -/
def Sha2.go (p : Sha2) : List (BitVec p.w) → List (BitVec p.w) → List (BitVec p.w) → List (BitVec p.w)
  | [], _, st => st
  | k :: ks, win, st =>
    let w0 := win.headD 0
    let next := rotShift p.small1 (win.getD 14 0) + win.getD 9 0 + rotShift p.small0 (win.getD 1 0) + w0
    p.go ks (win.drop 1 ++ [next]) (p.round st (k + w0))

/-- The compression function on a chaining value and a block. -/
def Sha2.compress (p : Sha2) (chain block : Bytes) : Bytes :=
  let h := beWords p.w 8 chain
  let r := p.go ((p.const (shaK0 ++ shaK1)).take p.rounds) (beWords p.w 16 block) h
  (List.zipWith (· + ·) h r).flatMap fun x => be (p.w / 8) x

/-- The padding of a message of so many octets: a one bit, zeros, the length in bits. -/
def Sha2.pad (p : Sha2) (count : Nat) : Bytes :=
  let block := 2 * p.w
  0x80#8 :: zeros ((2 * block - 1 - p.w / 4 - count % block) % block) ++ beNat (p.w / 4) (8 * count)

/-! ### Keccak (FIPS 202) -/

/-- The lanes in the order in which rho meets them, each as x + 5y: from (1, 0), then from (x, y) to (y, 2x + 3y). -/
def rhoWalk : Nat → Nat → Nat → List Nat
  | 0, _, _ => []
  | n + 1, x, y => (x + 5 * y) :: rhoWalk n y ((2 * x + 3 * y) % 5)

/-- How far rho turns a lane: by the triangular number of its place in the walk; lane 0 is not met and stays. -/
def rhoTurn (lane : Nat) : Nat :=
  match (rhoWalk 24 1 0).idxOf? lane with
  | some t => (t + 1) * (t + 2) / 2 % 64
  | none => 0

/-- The turns of the 25 lanes. -/
def rhoTurns : List Nat := (List.range 25).map rhoTurn

/-- The octets of FIPS 202's shift register, over x^8 + x^6 + x^5 + x^4 + 1. -/
def rcStates : Nat → Nat → List Nat
  | 0, _ => []
  | n + 1, r => r :: rcStates n (if r < 128 then 2 * r else (2 * r) ^^^ 0x171)

/-- The round constants: of each seven bits that the register puts out, bit j stands at place 2^j - 1. -/
def iotaWords : Nat → List Nat → List Nat
  | 0, _ => []
  | n + 1, out =>
    ((out.take 7).mapIdx fun j r => r % 2 * 2 ^ (2 ^ j - 1)).sum :: iotaWords n (out.drop 7)

/-- The constants of the 24 rounds. -/
def iotaTable : List Nat := iotaWords 24 (rcStates 168 1)

/-- One round on the 25 lanes. -/
def keccakRound (a : List DWord) (rc : Nat) : List DWord :=
  let at_ (l : List DWord) (x y : Nat) : DWord := l.getD (x % 5 + 5 * (y % 5)) 0
  let c := (List.range 5).map fun x => at_ a x 0 ^^^ at_ a x 1 ^^^ at_ a x 2 ^^^ at_ a x 3 ^^^ at_ a x 4
  let d := (List.range 5).map fun x => c.getD ((x + 4) % 5) 0 ^^^ (c.getD ((x + 1) % 5) 0).rotateLeft 1
  let b := (List.range 25).map fun i =>
    let x := (i % 5 + 3 * (i / 5)) % 5
    let k := x + 5 * (i % 5)
    (a.getD k 0 ^^^ d.getD x 0).rotateLeft (rhoTurns.getD k 0)
  (List.range 25).map fun i =>
    let v := at_ b i (i / 5) ^^^ (~~~(at_ b (i % 5 + 1) (i / 5)) &&& at_ b (i % 5 + 2) (i / 5))
    if i = 0 then v ^^^ BitVec.ofNat 64 rc else v

/-- Keccak-f[1600] on 200 octets, lanes least significant octet first. -/
def keccakF (st : Bytes) : Bytes :=
  let lanes := (List.range 25).map fun i => fieldLE 64 (8 * i) 8 st
  (iotaTable.foldl keccakRound lanes).flatMap fun x => le 8 x

/-- One block absorbed. -/
def keccakStep (st block : Bytes) : Bytes := keccakF (xorBytes st (fit 200 block))

/-- The padding after a message of so many octets at a rate: the domain bits, zeros, the last bit. -/
def keccakPad (rate : Nat) (domain : Byte) (count : Nat) : Bytes :=
  let q := rate - count % rate
  if q = 1 then [domain ||| 0x80] else domain :: zeros (q - 2) ++ [0x80]

/-- `n` blocks of output from a state. -/
def squeeze (rate : Nat) : Nat → Bytes → Bytes
  | 0, _ => []
  | n + 1, st => st.take rate ++ (if n = 0 then [] else squeeze rate n (keccakF st))

/-! ### The strings of SP 800-185 -/

/-- A number in as few octets as hold it, at least one. -/
def beMin (n : Nat) : Bytes := beNat (Nat.log2 n / 8 + 1) n

/-- left_encode and right_encode. -/
def leftEncode (n : Nat) : Bytes := BitVec.ofNat 8 (beMin n).length :: beMin n
def rightEncode (n : Nat) : Bytes := beMin n ++ [BitVec.ofNat 8 (beMin n).length]

/-- encode_string. -/
def encodeString (s : Bytes) : Bytes := leftEncode (8 * s.length) ++ s

/-- bytepad to whole blocks. -/
def bytepad (rate : Nat) (s : Bytes) : Bytes :=
  let x := leftEncode rate ++ s
  x ++ zeros ((rate - x.length % rate) % rate)

/-! ### The algorithms of Table 3.1 -/

/-- Families of ALG (Table 3.1). -/
inductive HashKind where
  | sha2 (p : Sha2) (iv : Nat)
  | keccak (domain : Byte)

/-- An HMAC, a KMAC. -/
def isHmac (a : Byte) : Bool := a == 0x31 || a == 0x32 || a == 0x33
def isKmac (a : Byte) : Bool := a == 0x41 || a == 0x42

/-- The function under an ALG: a SHA-2 member with the place of its initial value, or Keccak with its domain bits. -/
def hashKind (alg : Byte) : HashKind :=
  match alg with
  | 0x01 => .sha2 sha2Small 0
  | 0x02 => .sha2 sha2Large 8
  | 0x03 => .sha2 sha2Large 0
  | 0x31 => .sha2 sha2Small 0
  | 0x32 => .sha2 sha2Large 8
  | 0x33 => .sha2 sha2Large 0
  | 0x21 => .keccak 0x1F
  | 0x22 => .keccak 0x1F
  | 0x41 => .keccak 0x04
  | 0x42 => .keccak 0x04
  | _ => .keccak 0x06

/-- The block, or the rate, of an ALG. -/
def hashBlock (alg : Byte) : Nat :=
  match alg with
  | 0x01 => 64
  | 0x31 => 64
  | 0x12 => 104
  | 0x13 => 72
  | 0x11 => 136
  | 0x22 => 136
  | 0x42 => 136
  | 0x21 => 168
  | 0x41 => 168
  | _ => 128

/-- Octets of the chaining state of an ALG. -/
def chainLen (alg : Byte) : Nat :=
  match hashKind alg with
  | .sha2 p _ => p.w
  | .keccak _ => 200

/-- The chaining state of an empty message without a key. -/
def hashInit (alg : Byte) : Bytes :=
  match hashKind alg with
  | .sha2 p iv => (p.const ((shaH.drop iv).take 8)).flatMap fun x => be (p.w / 8) x
  | .keccak _ => zeros 200

/-- One block into a chaining state: a call of R80. -/
def hashStep (alg : Byte) (chain block : Bytes) : Bytes :=
  match hashKind alg with
  | .sha2 p _ => p.compress chain block
  | .keccak _ => keccakStep chain block

/-- Absorb whole blocks; what is left is the partial block. -/
def absorb (alg : Byte) : Nat → Bytes → Bytes → Bytes × Bytes
  | 0, chain, data => (chain, data)
  | n + 1, chain, data =>
    if data.length < hashBlock alg then (chain, data)
    else absorb alg n (hashStep alg chain (data.take (hashBlock alg))) (data.drop (hashBlock alg))

/-- Absorb every whole block of a string. -/
def absorbAll (alg : Byte) (chain data : Bytes) : Bytes × Bytes := absorb alg (data.length / hashBlock alg) chain data

/-- The unkeyed end of a message: padding, and `n` octets of output. `count` is the message's octets with any block that
stands before it. -/
def hashEnd (alg : Byte) (chain rest : Bytes) (count n : Nat) : Bytes :=
  match hashKind alg with
  | .sha2 p _ => ((absorbAll alg chain (rest ++ p.pad count)).1).take n
  | .keccak d =>
    (squeeze (hashBlock alg) ((n + hashBlock alg - 1) / hashBlock alg)
      (absorbAll alg chain (rest ++ keccakPad (hashBlock alg) d rest.length)).1).take n

/-- The digest of a message under an unkeyed ALG. -/
def hashOf (alg : Byte) (msg : Bytes) (n : Nat) : Bytes :=
  let r := absorbAll alg (hashInit alg) msg
  hashEnd alg r.1 r.2 msg.length n

/-- The states after key load (R82): for HMAC the inner and the outer pad state, for KMAC the state after the
customisation string and the key. -/
def keyLoad (alg : Byte) (key cust : Bytes) : Bytes × Bytes :=
  let b := hashBlock alg
  if isHmac alg then
    let k := fit b (if b < key.length then
      hashOf (if alg = 0x31 then 0x01 else if alg = 0x32 then 0x02 else 0x03) key (hashInit alg).length else key)
    (hashStep alg (hashInit alg) (k.map (· ^^^ 0x36)), hashStep alg (hashInit alg) (k.map (· ^^^ 0x5C)))
  else if isKmac alg then
    ((absorbAll alg (hashInit alg) (bytepad b (encodeString (ascii "KMAC") ++ encodeString cust) ++
      bytepad b (encodeString key))).1, [])
  else (hashInit alg, [])

/-- Octets of the full output of a SHA-2 member. -/
def shaLen (alg : Byte) : Nat := if alg = 0x01 ∨ alg = 0x31 then 32 else if alg = 0x02 ∨ alg = 0x32 then 48 else 64

/-- The end of a message under an ALG (R86): `outer` is HMAC's outer pad state, `count` the message's octets, `n` the octets
of output. -/
def macEnd (alg : Byte) (outer chain rest : Bytes) (count n : Nat) : Bytes :=
  let b := hashBlock alg
  if isHmac alg then
    let inner := hashEnd alg chain rest (b + count) (shaLen alg)
    let r := absorbAll alg outer inner
    (hashEnd alg r.1 r.2 (b + inner.length) (shaLen alg)).take n
  else if isKmac alg then
    let r := absorbAll alg chain (rest ++ rightEncode (8 * n))
    hashEnd alg r.1 r.2 0 n
  else hashEnd alg chain rest count n

/-- A keyed ALG over a whole message. -/
def macOf (alg : Byte) (key cust msg : Bytes) (n : Nat) : Bytes :=
  let k := keyLoad alg key cust
  let r := absorbAll alg k.1 msg
  macEnd alg k.2 r.1 r.2 msg.length n

/-! ### The functions by name -/

def sha256 (m : Bytes) : Bytes := hashOf 0x01 m 32
def sha384 (m : Bytes) : Bytes := hashOf 0x02 m 48
def sha512 (m : Bytes) : Bytes := hashOf 0x03 m 64
def sha3_256 (m : Bytes) : Bytes := hashOf 0x11 m 32
def sha3_512 (m : Bytes) : Bytes := hashOf 0x13 m 64
def shake128 (m : Bytes) (n : Nat) : Bytes := hashOf 0x21 m n
def shake256 (m : Bytes) (n : Nat) : Bytes := hashOf 0x22 m n
def hmacSha256 (key m : Bytes) : Bytes := macOf 0x31 key [] m 32
def hmacSha384 (key m : Bytes) : Bytes := macOf 0x32 key [] m 48
def hmacSha512 (key m : Bytes) : Bytes := macOf 0x33 key [] m 64

/-- KMAC256 with a customisation string. -/
def kmac256 (key m cust : Bytes) (n : Nat) : Bytes := macOf 0x42 key cust m n

end Sys2Proof.Machine
end

