-- ==== Sys2Proof/Machine/Lattice.lean ====
section
/-! DEFINITION. The module-lattice schemes of Table 4.3: ML-KEM (FIPS 203) and ML-DSA (FIPS 204). R117 names the standards;
what each computes is written from general knowledge of them: PRESUMED (assumption 3). -/

namespace Sys2Proof.Machine

/-! ### Polynomials of 256 coefficients modulo q, and their transform -/

/-- A polynomial's coefficients, from the constant on, each below q. -/
abbrev Poly := List Nat

/-- What a transform needs: q, its root of unity and the bits of an index. -/
structure NttRing where
  q : Nat
  zeta : Nat
  bits : Nat

def kemRing : NttRing := ⟨3329, 17, 7⟩
def dsaRing : NttRing := ⟨8380417, 1753, 8⟩

/-- The bits of an index in reverse order. -/
def bitRev : Nat → Nat → Nat
  | 0, _ => 0
  | n + 1, i => i % 2 * 2 ^ n + bitRev n (i / 2)

/-- b to the power of e modulo q. -/
def NttRing.powGo (r : NttRing) : Nat → Nat → Nat → Nat → Nat
  | 0, _, _, acc => acc
  | n + 1, b, e, acc => r.powGo n (b * b % r.q) (e / 2) (if e % 2 = 1 then acc * b % r.q else acc)

def NttRing.pow (r : NttRing) (b e : Nat) : Nat := r.powGo 24 b e 1

/-- The factor at node `i` of the transform's tree. -/
def NttRing.factor (r : NttRing) (i : Nat) : Nat := r.pow r.zeta (bitRev r.bits i)

/-- Sums and differences, coefficient by coefficient. -/
def NttRing.add (r : NttRing) (a b : Poly) : Poly := List.zipWith (fun x y => (x + y) % r.q) a b
def NttRing.sub (r : NttRing) (a b : Poly) : Poly := List.zipWith (fun x y => (x + r.q - y) % r.q) a b
def NttRing.scale (r : NttRing) (k : Nat) (a : Poly) : Poly := a.map fun x => k * x % r.q

/-- The transform, `n` levels below node `i`. -/
def NttRing.nttGo (r : NttRing) : Nat → Nat → Poly → Poly
  | 0, _, f => f
  | n + 1, i, f =>
    let h := f.length / 2
    let t := r.scale (r.factor i) (f.drop h)
    r.nttGo n (2 * i) (r.add (f.take h) t) ++ r.nttGo n (2 * i + 1) (r.sub (f.take h) t)

/-- Its inverse. -/
def NttRing.inttGo (r : NttRing) : Nat → Nat → Poly → Poly
  | 0, _, f => f
  | n + 1, i, f =>
    let h := f.length / 2
    let a := r.inttGo n (2 * i) (f.take h)
    let b := r.inttGo n (2 * i + 1) (f.drop h)
    let half := (r.q + 1) / 2
    r.scale half (r.add a b) ++ r.scale (half * r.pow (r.factor i) (r.q - 2) % r.q) (r.sub a b)

def NttRing.ntt (r : NttRing) (f : Poly) : Poly := r.nttGo r.bits 1 f
def NttRing.intt (r : NttRing) (f : Poly) : Poly := r.inttGo r.bits 1 f

/-- Products of linear polynomials in the transform of ML-KEM. -/
def kemMul : Nat → Poly → Poly → Poly
  | i, a0 :: a1 :: as, b0 :: b1 :: bs =>
    let g := kemRing.pow 17 (2 * bitRev 7 i + 1)
    (a0 * b0 + a1 * b1 % 3329 * g) % 3329 :: (a0 * b1 + a1 * b0) % 3329 :: kemMul (i + 1) as bs
  | _, _, _ => []

/-- The product of two transforms. -/
def NttRing.mul (r : NttRing) (a b : Poly) : Poly :=
  if r.bits = 7 then kemMul 0 a b else List.zipWith (fun x y => x * y % r.q) a b

/-- The zero polynomial. -/
def polyZero : Poly := List.replicate 256 0

/-- The inner product of two vectors of transforms. -/
def NttRing.dot (r : NttRing) (a b : List Poly) : Poly := (List.zipWith r.mul a b).foldl r.add polyZero

/-! ### Packing -/

/-- Values of `d` bits each, least significant first. -/
def packBits (d : Nat) (l : List Nat) : Bytes := leNat (l.length * d / 8) (l.foldr (fun v n => v % 2 ^ d + 2 ^ d * n) 0)

/-- The `n` values of `d` bits that a string holds. -/
def unpackGo (d : Nat) : Nat → Nat → List Nat
  | 0, _ => []
  | n + 1, v => v % 2 ^ d :: unpackGo d n (v / 2 ^ d)

def unpackBits (d n : Nat) (b : Bytes) : List Nat := unpackGo d n (ofLE b)

/-- Equal pieces of a string. -/
def pieces (n size : Nat) (b : Bytes) : List Bytes := (List.range n).map fun i => slice (i * size) size b

/-! ### Rejection sampling (R125): a companion's output, block by block, until enough values are accepted -/

/-- Values that a sampler accepts from the blocks of a Keccak output, `n` of them. -/
def sampleStream (rate : Nat) (f : Bytes → List Nat) (n : Nat) : Nat → Bytes → List Nat → List Nat
  | 0, _, acc => acc.take n
  | fuel + 1, st, acc =>
    let acc := acc ++ f (st.take rate)
    if n ≤ acc.length then acc.take n else sampleStream rate f n fuel (keccakF st) acc

/-- The state of SHAKE128 or SHAKE256 after a message and its padding. -/
def shakeState (alg : Byte) (m : Bytes) : Bytes :=
  (absorbAll alg (hashInit alg) (m ++ keccakPad (hashBlock alg) 0x1F m.length)).1

/-- Three octets at a time through a sampler. -/
def byThree (f : Nat → Nat → Nat → List Nat) : Bytes → List Nat
  | a :: b :: c :: rest => f a.toNat b.toNat c.toNat ++ byThree f rest
  | _ => []

/-- The values below 3,329 that SampleNTT finds in octets. -/
def nttValues : Bytes → List Nat :=
  byThree fun a b c => [a + 256 * (b % 16), b / 16 + 16 * c].filter fun d => decide (d < 3329)

/-- The values below 8,380,417 that RejNTTPoly finds in octets. -/
def rejValues : Bytes → List Nat :=
  byThree fun a b c => [a + 256 * b + 65536 * (c % 128)].filter fun d => decide (d < 8380417)

/-- The values that RejBoundedPoly finds in octets, for η of 2 or 4. -/
def boundedValues (eta : Nat) (bs : Bytes) : List Nat :=
  let half (b : Nat) : List Nat :=
    if eta = 2 then (if b < 15 then [(8380417 + 2 - b % 5) % 8380417] else [])
    else (if b < 9 then [(8380417 + 4 - b) % 8380417] else [])
  bs.flatMap fun b => half (b.toNat % 16) ++ half (b.toNat / 16)

/-- SampleNTT of FIPS 203. -/
def sampleNTT (seed : Bytes) : Poly := sampleStream 168 nttValues 256 64 (shakeState 0x21 seed) []

/-- RejNTTPoly of FIPS 204. -/
def rejNTTPoly (seed : Bytes) : Poly := sampleStream 168 rejValues 256 64 (shakeState 0x21 seed) []

/-- RejBoundedPoly of FIPS 204. -/
def rejBoundedPoly (eta : Nat) (seed : Bytes) : Poly :=
  sampleStream 136 (boundedValues eta) 256 64 (shakeState 0x22 seed) []

/-! ### ML-KEM (FIPS 203) -/

/-- A parameter set. -/
structure KemParams where
  k : Nat
  eta1 : Nat
  du : Nat
  dv : Nat

/-- The parameter set of a type. -/
def kemParams (t : Byte) : KemParams :=
  if t = 0x40 then ⟨2, 3, 10, 4⟩ else if t = 0x41 then ⟨3, 2, 10, 4⟩ else ⟨4, 2, 11, 5⟩

/-- SamplePolyCBD of PRF output. -/
def sampleCBD (eta : Nat) (s : Bytes) (n : Nat) : Poly :=
  let bits := unpackBits 1 (512 * eta) (shake256 (s ++ [BitVec.ofNat 8 n]) (64 * eta))
  let sum (l : List Nat) : Nat := l.foldl (· + ·) 0
  let rec go : Nat → List Nat → Poly
    | 0, _ => []
    | m + 1, l => (3329 + sum (l.take eta) - sum ((l.drop eta).take eta)) % 3329 :: go m (l.drop (2 * eta))
  go 256 bits

/-- Compress and Decompress. -/
def kemCompress (d x : Nat) : Nat := (2 * x * 2 ^ d + 3329) / 6658 % 2 ^ d
def kemDecompress (d y : Nat) : Nat := (2 * 3329 * y + 2 ^ d) / 2 ^ (d + 1)

/-- Entry (i, j) of the matrix, made as it is consumed (R125). -/
def kemEntry (rho : Bytes) (i j : Nat) : Poly := sampleNTT (rho ++ [BitVec.ofNat 8 j, BitVec.ofNat 8 i])

/-- The encapsulation key, and the transform of s, of a seed d. -/
def kemKeys (p : KemParams) (d : Bytes) : Bytes × List Poly :=
  let g := sha3_512 (d ++ [BitVec.ofNat 8 p.k])
  let rho := g.take 32
  let s := (List.range p.k).map fun i => kemRing.ntt (sampleCBD p.eta1 (g.drop 32) i)
  let t := (List.range p.k).map fun i =>
    kemRing.add (kemRing.dot ((List.range p.k).map (kemEntry rho i)) s) (kemRing.ntt (sampleCBD p.eta1 (g.drop 32) (p.k + i)))
  (t.flatMap (packBits 12) ++ rho, s)

/-- K-PKE.Encrypt. -/
def kemEncrypt (p : KemParams) (ek m r : Bytes) : Bytes :=
  let t := (pieces p.k 384 ek).map fun b => (unpackBits 12 256 b).map (· % 3329)
  let rho := ek.drop (384 * p.k)
  let y := (List.range p.k).map fun i => kemRing.ntt (sampleCBD p.eta1 r i)
  let u := (List.range p.k).map fun i =>
    kemRing.add (kemRing.intt (kemRing.dot ((List.range p.k).map fun j => kemEntry rho j i) y)) (sampleCBD 2 r (p.k + i))
  let mu := (unpackBits 1 256 m).map (kemDecompress 1)
  let v := kemRing.add (kemRing.add (kemRing.intt (kemRing.dot t y)) (sampleCBD 2 r (2 * p.k))) mu
  u.flatMap (fun f => packBits p.du (f.map (kemCompress p.du))) ++ packBits p.dv (v.map (kemCompress p.dv))

/-- K-PKE.Decrypt under the transform of s. -/
def kemDecrypt (p : KemParams) (s : List Poly) (c : Bytes) : Bytes :=
  let u := (pieces p.k (32 * p.du) c).map fun b => (unpackBits p.du 256 b).map (kemDecompress p.du)
  let v := (unpackBits p.dv 256 (c.drop (32 * p.du * p.k))).map (kemDecompress p.dv)
  packBits 1 ((kemRing.sub v (kemRing.intt (kemRing.dot s (u.map kemRing.ntt)))).map (kemCompress 1))

/-- The encapsulation key of a type's 64-octet secret d ‖ z. -/
def kemPublic (t : Byte) (secret : Bytes) : Bytes := (kemKeys (kemParams t) (secret.take 32)).1

/-- Encapsulation with the message m: ciphertext and shared key. -/
def kemEncaps (t : Byte) (ek m : Bytes) : Bytes × Bytes :=
  let g := sha3_512 (m ++ sha3_256 ek)
  (kemEncrypt (kemParams t) ek m (g.drop 32), g.take 32)

/-- Decapsulation, with the implicit-rejection key for a ciphertext that does not re-encrypt. -/
def kemDecaps (t : Byte) (secret c : Bytes) : Bytes :=
  let p := kemParams t
  let k := kemKeys p (secret.take 32)
  let m := kemDecrypt p k.2 c
  let g := sha3_512 (m ++ sha3_256 k.1)
  if kemEncrypt p k.1 m (g.drop 32) == c then g.take 32 else shake256 (secret.drop 32 ++ c) 32

/-- The modulus check of an encapsulation key. -/
def kemKeyOk (t : Byte) (ek : Bytes) : Bool :=
  (pieces (kemParams t).k 384 ek).all fun b => (unpackBits 12 256 b).all fun v => decide (v < 3329)

/-! ### ML-DSA (FIPS 204) -/

/-- A parameter set: (k, ℓ), η, τ, the octets of c̃, log2 γ1, γ2, ω. -/
structure DsaParams where
  k : Nat
  l : Nat
  eta : Nat
  tau : Nat
  cLen : Nat
  g1 : Nat
  gamma2 : Nat
  omega : Nat

/-- The parameter set of a type. -/
def dsaParams (t : Byte) : DsaParams :=
  if t = 0x48 then ⟨4, 4, 2, 39, 32, 17, 95232, 80⟩
  else if t = 0x49 then ⟨6, 5, 4, 49, 48, 19, 261888, 55⟩
  else ⟨8, 7, 2, 60, 64, 19, 261888, 75⟩

/-- q of ML-DSA. -/
abbrev dsaQ : Nat := 8380417

/-- β = τ · η. -/
def DsaParams.beta (p : DsaParams) : Nat := p.tau * p.eta

/-- The absolute value of a coefficient's centred representative, and its sign. -/
def centred (x : Nat) : Int := if x ≤ dsaQ / 2 then x else (x : Int) - dsaQ
def normOf (f : Poly) : Nat := f.foldl (fun m x => max m (centred x).natAbs) 0
def ofInt (x : Int) : Nat := (x % (dsaQ : Int)).toNat

/-- Decompose: high and low bits. -/
def decompose (p : DsaParams) (r : Nat) : Nat × Int :=
  let r0 : Int := if r % (2 * p.gamma2) ≤ p.gamma2 then (r % (2 * p.gamma2) : Nat)
    else ((r % (2 * p.gamma2) : Nat) : Int) - 2 * p.gamma2
  if (r : Int) - r0 = dsaQ - 1 then (0, r0 - 1) else (((r : Int) - r0).toNat / (2 * p.gamma2), r0)

/-- Entry (r, s) of the matrix, made as it is consumed (R125). -/
def dsaEntry (rho : Bytes) (r s : Nat) : Poly := rejNTTPoly (rho ++ [BitVec.ofNat 8 s, BitVec.ofNat 8 r])

/-- A matrix of entries times a vector of transforms. -/
def dsaTimes (p : DsaParams) (rho : Bytes) (v : List Poly) : List Poly :=
  (List.range p.k).map fun r => dsaRing.dot ((List.range p.l).map (dsaEntry rho r)) v

/-- What a seed ξ expands to. -/
structure DsaKey where
  rho : Bytes
  key : Bytes
  s1 : List Poly
  s2 : List Poly
  t1 : List Poly
  t0 : List Poly

/-- KeyGen. -/
def dsaKey (p : DsaParams) (xi : Bytes) : DsaKey :=
  let h := shake256 (xi ++ [BitVec.ofNat 8 p.k, BitVec.ofNat 8 p.l]) 128
  let rho := h.take 32
  let s (i : Nat) : Poly := rejBoundedPoly p.eta (slice 32 64 h ++ leNat 2 i)
  let s1 := (List.range p.l).map s
  let s2 := (List.range p.k).map fun i => s (p.l + i)
  let t := List.zipWith (fun f e => dsaRing.add (dsaRing.intt f) e) (dsaTimes p rho (s1.map dsaRing.ntt)) s2
  let low (x : Nat) : Int := if x % 8192 ≤ 4096 then (x % 8192 : Nat) else ((x % 8192 : Nat) : Int) - 8192
  { rho := rho, key := h.drop 96, s1 := s1, s2 := s2,
    t1 := t.map fun f => f.map fun (x : Nat) => ((x : Int) - low x).toNat / 8192,
    t0 := t.map fun f => f.map fun (x : Nat) => ofInt (low x) }

/-- The public key. -/
def DsaKey.public (x : DsaKey) : Bytes := x.rho ++ x.t1.flatMap (packBits 10)

/-- SampleInBall: the values of the last τ places in turn, from the octets of SHAKE256. -/
def ballGo (signs : Nat) : Nat → Nat → Bytes → Poly → Poly
  | 0, _, _, c => c
  | n + 1, i, s, c =>
    let rest := s.dropWhile fun b => decide (i < b.toNat)
    let j := (rest.headD 0).toNat
    let c := (c.set i (c.getD j 0)).set j (if signs % 2 = 1 then dsaQ - 1 else 1)
    ballGo (signs / 2) n (i + 1) (rest.drop 1) c

def sampleInBall (p : DsaParams) (c : Bytes) : Poly :=
  let s := shake256 c (8 + 136 * 16)
  ballGo (ofLE (s.take 8)) p.tau (256 - p.tau) (s.drop 8) polyZero

/-- ExpandMask: y of an iteration. -/
def expandMask (p : DsaParams) (seed : Bytes) (kappa : Nat) : List Poly :=
  (List.range p.l).map fun r =>
    (unpackBits (p.g1 + 1) 256 (shake256 (seed ++ leNat 2 (kappa + r)) (32 * (p.g1 + 1)))).map fun v =>
      (dsaQ + 2 ^ p.g1 - v) % dsaQ

/-- The packed high bits of w. -/
def packHigh (p : DsaParams) (w : List Poly) : Bytes := w.flatMap (packBits (if p.gamma2 = 95232 then 6 else 4))

/-- HintBitPack and its inverse. -/
def hintPack (p : DsaParams) (h : List (List Nat)) : Bytes :=
  let all := h.flatten
  fit p.omega (all.map fun i => BitVec.ofNat 8 i) ++
    ((List.range p.k).map fun i => BitVec.ofNat 8 ((h.take (i + 1)).map List.length).sum)

/-- Rising indexes. -/
def rising : List Nat → Bool
  | a :: b :: l => decide (a < b) && rising (b :: l)
  | _ => true

/-- The places of the ones of each polynomial, if the packing is a proper one. -/
def hintUnpack (p : DsaParams) (b : Bytes) : Option (List (List Nat)) :=
  let ends := (b.drop p.omega).map BitVec.toNat
  let starts := 0 :: ends
  let parts := (List.zip starts ends).map fun r => ((b.take r.2).drop r.1).map BitVec.toNat
  let ok := (List.zip starts ends).all (fun r => decide (r.1 ≤ r.2) && decide (r.2 ≤ p.omega)) &&
    parts.all rising && allZero ((b.take p.omega).drop (ends.getLastD 0))
  if ok then some parts else none

/-- w of an iteration. -/
def dsaW (p : DsaParams) (rho seed : Bytes) (kappa : Nat) : List Poly :=
  (dsaTimes p rho ((expandMask p seed kappa).map dsaRing.ntt)).map dsaRing.intt

/-- What the commitment hash of an iteration takes: μ and the packed high bits of w. -/
def dsaHashed (p : DsaParams) (mu : Bytes) (w : List Poly) : Bytes :=
  mu ++ packHigh p (w.map fun f => f.map fun v => (decompose p v).1)

/-- One iteration of the rejection loop: the signature, if nothing is rejected. -/
def dsaTry (p : DsaParams) (x : DsaKey) (mu seed : Bytes) (kappa : Nat) : Option Bytes :=
  let y := expandMask p seed kappa
  let w := dsaW p x.rho seed kappa
  let ct := shake256 (dsaHashed p mu w) p.cLen
  let c := dsaRing.ntt (sampleInBall p ct)
  let times (f : Poly) : Poly := dsaRing.intt (dsaRing.mul c (dsaRing.ntt f))
  let z := List.zipWith dsaRing.add y (x.s1.map times)
  let r := List.zipWith dsaRing.sub w (x.s2.map times)
  let low := r.map fun f => f.map fun v => (decompose p v).2.natAbs
  let c0 := x.t0.map times
  let hint := List.zipWith (fun f g => (List.range 256).filter fun i =>
    (decompose p (f.getD i 0)).1 != (decompose p ((f.getD i 0 + g.getD i 0) % dsaQ)).1) r c0
  let top (l : List Nat) : Nat := l.foldl max 0
  if 2 ^ p.g1 - p.beta ≤ top (z.map normOf) ∨ p.gamma2 - p.beta ≤ top (low.map top) ∨
     p.gamma2 ≤ top (c0.map normOf) ∨ p.omega < (hint.map List.length).sum then none
  else
    some (ct ++ z.flatMap (fun f => packBits (p.g1 + 1) (f.map fun v => ofInt ((2 ^ p.g1 : Nat) - centred v))) ++
      hintPack p hint)

/-- The loop: the signature and the iterations made. The counter κ has 16 bits. -/
def dsaLoop (p : DsaParams) (x : DsaKey) (mu seed : Bytes) : Nat → Nat → Bytes × Nat
  | 0, i => ([], i)
  | fuel + 1, i =>
    match dsaTry p x mu seed (i * p.l) with
    | some s => (s, i + 1)
    | none => dsaLoop p x mu seed fuel (i + 1)

/-- The message that is signed: pure, or the digest under a HASH (HashML-DSA), with its context. -/
def dsaMessage (hashed : Option Nat) (ctx m : Bytes) : Bytes :=
  let head (b : Byte) : Bytes := [b, BitVec.ofNat 8 ctx.length] ++ ctx
  match hashed with
  | none => head 0 ++ m
  | some h =>
    head 1 ++ [0x06#8, 0x09#8, 0x60#8, 0x86#8, 0x48#8, 0x01#8, 0x65#8, 0x03#8, 0x04#8, 0x02#8, BitVec.ofNat 8 (h + 1)] ++ m

/-- The signature of a formatted message under a seed, with rnd, and the iterations made (R126). -/
def dsaSign (t : Byte) (xi m rnd : Bytes) : Bytes × Nat :=
  let p := dsaParams t
  let x := dsaKey p xi
  let mu := shake256 (shake256 x.public 64 ++ m) 64
  dsaLoop p x mu (shake256 (x.key ++ rnd ++ mu) 64) (65536 / p.l) 0

/-- A signature verifies; a hint or bound check that fails says that it does not (R133). -/
def dsaVerify (t : Byte) (pub m sig : Bytes) : Bool :=
  let p := dsaParams t
  let zLen := 32 * (p.g1 + 1)
  let ct := sig.take p.cLen
  let z := (pieces p.l zLen (sig.drop p.cLen)).map fun b =>
    (unpackBits (p.g1 + 1) 256 b).map fun v => (dsaQ + 2 ^ p.g1 - v) % dsaQ
  match hintUnpack p (sig.drop (p.cLen + p.l * zLen)) with
  | none => false
  | some hint =>
    let t1 := (pieces p.k 320 (pub.drop 32)).map (unpackBits 10 256)
    let mu := shake256 (shake256 pub 64 ++ m) 64
    let c := dsaRing.ntt (sampleInBall p ct)
    let az := dsaTimes p (pub.take 32) (z.map dsaRing.ntt)
    let w := List.zipWith (fun f g => dsaRing.intt (dsaRing.sub f (dsaRing.mul c (dsaRing.ntt (dsaRing.scale 8192 g))))) az t1
    let m1 := (dsaQ - 1) / (2 * p.gamma2)
    let use (f : Poly) (h : List Nat) : Poly := (List.range 256).map fun i =>
      let d := decompose p (f.getD i 0)
      if h.contains i then (if 0 < d.2 then (d.1 + 1) % m1 else (d.1 + m1 - 1) % m1) else d.1
    decide ((z.map normOf).foldl max 0 < 2 ^ p.g1 - p.beta) &&
      ct == shake256 (mu ++ packHigh p (List.zipWith use w hint)) p.cLen

end Sys2Proof.Machine
end

