-- ==== Sys2Proof/Machine/Aes.lean ====
section
/-! DEFINITION. AES (FIPS 197) and the modes that the spec names: CBC, CTR, GCM, CCM, XTS, CMAC, KW and KWP (SP 800-38A to
38F), and the CTR_DRBG of SP 800-90A. R97 gives the modes, R151 the DRBG's parameters; what each computes is its
standard's, written from general knowledge of the standards: PRESUMED (assumption 3). -/

namespace Sys2Proof.Machine

/-! ### The block cipher (FIPS 197) -/

/-- The substitution box, by the high and the low half of the octet. -/
def sboxRows : List (List Nat) := [
  [0x63, 0x7C, 0x77, 0x7B, 0xF2, 0x6B, 0x6F, 0xC5, 0x30, 0x01, 0x67, 0x2B, 0xFE, 0xD7, 0xAB, 0x76],
  [0xCA, 0x82, 0xC9, 0x7D, 0xFA, 0x59, 0x47, 0xF0, 0xAD, 0xD4, 0xA2, 0xAF, 0x9C, 0xA4, 0x72, 0xC0],
  [0xB7, 0xFD, 0x93, 0x26, 0x36, 0x3F, 0xF7, 0xCC, 0x34, 0xA5, 0xE5, 0xF1, 0x71, 0xD8, 0x31, 0x15],
  [0x04, 0xC7, 0x23, 0xC3, 0x18, 0x96, 0x05, 0x9A, 0x07, 0x12, 0x80, 0xE2, 0xEB, 0x27, 0xB2, 0x75],
  [0x09, 0x83, 0x2C, 0x1A, 0x1B, 0x6E, 0x5A, 0xA0, 0x52, 0x3B, 0xD6, 0xB3, 0x29, 0xE3, 0x2F, 0x84],
  [0x53, 0xD1, 0x00, 0xED, 0x20, 0xFC, 0xB1, 0x5B, 0x6A, 0xCB, 0xBE, 0x39, 0x4A, 0x4C, 0x58, 0xCF],
  [0xD0, 0xEF, 0xAA, 0xFB, 0x43, 0x4D, 0x33, 0x85, 0x45, 0xF9, 0x02, 0x7F, 0x50, 0x3C, 0x9F, 0xA8],
  [0x51, 0xA3, 0x40, 0x8F, 0x92, 0x9D, 0x38, 0xF5, 0xBC, 0xB6, 0xDA, 0x21, 0x10, 0xFF, 0xF3, 0xD2],
  [0xCD, 0x0C, 0x13, 0xEC, 0x5F, 0x97, 0x44, 0x17, 0xC4, 0xA7, 0x7E, 0x3D, 0x64, 0x5D, 0x19, 0x73],
  [0x60, 0x81, 0x4F, 0xDC, 0x22, 0x2A, 0x90, 0x88, 0x46, 0xEE, 0xB8, 0x14, 0xDE, 0x5E, 0x0B, 0xDB],
  [0xE0, 0x32, 0x3A, 0x0A, 0x49, 0x06, 0x24, 0x5C, 0xC2, 0xD3, 0xAC, 0x62, 0x91, 0x95, 0xE4, 0x79],
  [0xE7, 0xC8, 0x37, 0x6D, 0x8D, 0xD5, 0x4E, 0xA9, 0x6C, 0x56, 0xF4, 0xEA, 0x65, 0x7A, 0xAE, 0x08],
  [0xBA, 0x78, 0x25, 0x2E, 0x1C, 0xA6, 0xB4, 0xC6, 0xE8, 0xDD, 0x74, 0x1F, 0x4B, 0xBD, 0x8B, 0x8A],
  [0x70, 0x3E, 0xB5, 0x66, 0x48, 0x03, 0xF6, 0x0E, 0x61, 0x35, 0x57, 0xB9, 0x86, 0xC1, 0x1D, 0x9E],
  [0xE1, 0xF8, 0x98, 0x11, 0x69, 0xD9, 0x8E, 0x94, 0x9B, 0x1E, 0x87, 0xE9, 0xCE, 0x55, 0x28, 0xDF],
  [0x8C, 0xA1, 0x89, 0x0D, 0xBF, 0xE6, 0x42, 0x68, 0x41, 0x99, 0x2D, 0x0F, 0xB0, 0x54, 0xBB, 0x16]]

/-- Its inverse. -/
def invSboxRows : List (List Nat) := [
  [0x52, 0x09, 0x6A, 0xD5, 0x30, 0x36, 0xA5, 0x38, 0xBF, 0x40, 0xA3, 0x9E, 0x81, 0xF3, 0xD7, 0xFB],
  [0x7C, 0xE3, 0x39, 0x82, 0x9B, 0x2F, 0xFF, 0x87, 0x34, 0x8E, 0x43, 0x44, 0xC4, 0xDE, 0xE9, 0xCB],
  [0x54, 0x7B, 0x94, 0x32, 0xA6, 0xC2, 0x23, 0x3D, 0xEE, 0x4C, 0x95, 0x0B, 0x42, 0xFA, 0xC3, 0x4E],
  [0x08, 0x2E, 0xA1, 0x66, 0x28, 0xD9, 0x24, 0xB2, 0x76, 0x5B, 0xA2, 0x49, 0x6D, 0x8B, 0xD1, 0x25],
  [0x72, 0xF8, 0xF6, 0x64, 0x86, 0x68, 0x98, 0x16, 0xD4, 0xA4, 0x5C, 0xCC, 0x5D, 0x65, 0xB6, 0x92],
  [0x6C, 0x70, 0x48, 0x50, 0xFD, 0xED, 0xB9, 0xDA, 0x5E, 0x15, 0x46, 0x57, 0xA7, 0x8D, 0x9D, 0x84],
  [0x90, 0xD8, 0xAB, 0x00, 0x8C, 0xBC, 0xD3, 0x0A, 0xF7, 0xE4, 0x58, 0x05, 0xB8, 0xB3, 0x45, 0x06],
  [0xD0, 0x2C, 0x1E, 0x8F, 0xCA, 0x3F, 0x0F, 0x02, 0xC1, 0xAF, 0xBD, 0x03, 0x01, 0x13, 0x8A, 0x6B],
  [0x3A, 0x91, 0x11, 0x41, 0x4F, 0x67, 0xDC, 0xEA, 0x97, 0xF2, 0xCF, 0xCE, 0xF0, 0xB4, 0xE6, 0x73],
  [0x96, 0xAC, 0x74, 0x22, 0xE7, 0xAD, 0x35, 0x85, 0xE2, 0xF9, 0x37, 0xE8, 0x1C, 0x75, 0xDF, 0x6E],
  [0x47, 0xF1, 0x1A, 0x71, 0x1D, 0x29, 0xC5, 0x89, 0x6F, 0xB7, 0x62, 0x0E, 0xAA, 0x18, 0xBE, 0x1B],
  [0xFC, 0x56, 0x3E, 0x4B, 0xC6, 0xD2, 0x79, 0x20, 0x9A, 0xDB, 0xC0, 0xFE, 0x78, 0xCD, 0x5A, 0xF4],
  [0x1F, 0xDD, 0xA8, 0x33, 0x88, 0x07, 0xC7, 0x31, 0xB1, 0x12, 0x10, 0x59, 0x27, 0x80, 0xEC, 0x5F],
  [0x60, 0x51, 0x7F, 0xA9, 0x19, 0xB5, 0x4A, 0x0D, 0x2D, 0xE5, 0x7A, 0x9F, 0x93, 0xC9, 0x9C, 0xEF],
  [0xA0, 0xE0, 0x3B, 0x4D, 0xAE, 0x2A, 0xF5, 0xB0, 0xC8, 0xEB, 0xBB, 0x3C, 0x83, 0x53, 0x99, 0x61],
  [0x17, 0x2B, 0x04, 0x7E, 0xBA, 0x77, 0xD6, 0x26, 0xE1, 0x69, 0x14, 0x63, 0x55, 0x21, 0x0C, 0x7D]]

/-- An octet through a box. -/
def boxAt (rows : List (List Nat)) (b : Byte) : Byte :=
  BitVec.ofNat 8 ((rows.getD (b.toNat / 16) []).getD (b.toNat % 16) 0)

/-- Times x in the field of AES. -/
def xtime (b : Byte) : Byte := if b.getLsbD 7 then (b <<< 1) ^^^ 0x1B else b <<< 1

/-- The product of an octet with a constant of four bits. -/
def mulSmall (k : Nat) (b : Byte) : Byte :=
  let b2 := xtime b
  let b4 := xtime b2
  let b8 := xtime b4
  (if k % 2 = 1 then b else 0) ^^^ (if k / 2 % 2 = 1 then b2 else 0) ^^^ (if k / 4 % 2 = 1 then b4 else 0) ^^^
    (if k / 8 % 2 = 1 then b8 else 0)

/-- The words of the key schedule: `n` more words after those of `ws`, for a key of `nk` words. -/
def keyWords (nk : Nat) : Nat → Byte → List Bytes → List Bytes
  | 0, _, ws => ws
  | n + 1, rcon, ws =>
    let i := ws.length
    let last := ws.getD (i - 1) []
    let sub (w : Bytes) : Bytes := w.map (boxAt sboxRows)
    let t := if i % nk = 0 then xorBytes (sub (last.drop 1 ++ last.take 1)) [rcon, 0, 0, 0]
      else if 6 < nk ∧ i % nk = 4 then sub last else last
    keyWords nk n (if i % nk = 0 then xtime rcon else rcon) (ws ++ [xorBytes (ws.getD (i - nk) []) t])

/-- The round keys of a key of 16, 24 or 32 octets. -/
def aesKeys (key : Bytes) : List Bytes :=
  let nk := key.length / 4
  let ws := keyWords nk (4 * (nk + 7) - nk) 1 ((List.range nk).map fun i => slice (4 * i) 4 key)
  (List.range (nk + 7)).map fun r => (List.range 4).flatMap fun c => ws.getD (4 * r + c) []

/-- The rows of a state turned by `k` times their number. -/
def shiftRows (k : Nat) (st : Bytes) : Bytes := (List.range 16).map fun i => octet (i % 4 + 4 * ((i / 4 + k * (i % 4)) % 4)) st

/-- The columns of a state times a row of constants. -/
def mixColumns (m : List Nat) (st : Bytes) : Bytes :=
  (List.range 16).map fun i =>
    (List.range 4).foldl (fun v j => v ^^^ mulSmall (m.getD ((j + 4 - i % 4) % 4) 0) (octet (i / 4 * 4 + j) st)) 0

/-- A block enciphered under round keys. -/
def aesEnc (ks : List Bytes) (block : Bytes) : Bytes :=
  let n := ks.length
  (List.range (n - 1)).foldl (fun st r =>
    let s := shiftRows 1 (st.map (boxAt sboxRows))
    xorBytes (if r + 2 = n then s else mixColumns [2, 3, 1, 1] s) (ks.getD (r + 1) []))
    (xorBytes block (ks.getD 0 []))

/-- A block deciphered under round keys. -/
def aesDec (ks : List Bytes) (block : Bytes) : Bytes :=
  let n := ks.length
  (List.range (n - 1)).foldl (fun st r =>
    let s := xorBytes ((shiftRows 3 st).map (boxAt invSboxRows)) (ks.getD (n - 2 - r) [])
    if r + 2 = n then s else mixColumns [14, 11, 13, 9] s)
    (xorBytes block (ks.getD (n - 1) []))

/-! ### ECB, CBC and CTR (SP 800-38A) -/

/-- The blocks of a string, the last one short where the length is no multiple. -/
def blocksOf (size : Nat) : Nat → Bytes → List Bytes
  | 0, _ => []
  | n + 1, bs => if bs = [] then [] else bs.take size :: blocksOf size n (bs.drop size)

/-- The 16-octet blocks of a string. -/
def blocks16 (bs : Bytes) : List Bytes := blocksOf 16 ((bs.length + 15) / 16) bs

/-- CBC over blocks, from an IV. -/
def cbcEnc (ks : List Bytes) : Bytes → List Bytes → Bytes
  | _, [] => []
  | iv, b :: bs => let c := aesEnc ks (xorBytes iv b); c ++ cbcEnc ks c bs
def cbcDec (ks : List Bytes) : Bytes → List Bytes → Bytes
  | _, [] => []
  | iv, c :: cs => xorBytes iv (aesDec ks c) ++ cbcDec ks c cs

/-- The counter block `n` after another, of which `w` octets count. -/
def ctrAdd (w n : Nat) (b : Bytes) : Bytes :=
  b.take (16 - w) ++ beNat w ((ofBE (b.drop (16 - w)) + n) % 256 ^ w)

/-- CTR from a counter block of which `w` octets count. -/
def ctrBlocks (ks : List Bytes) (w : Nat) : Bytes → List Bytes → Bytes
  | _, [] => []
  | c, b :: bs => xorBytes b (aesEnc ks c) ++ ctrBlocks ks w (ctrAdd w 1 c) bs

/-! ### GCM (SP 800-38D) -/

/-- The product in the field of GHASH. -/
def ghashMul (x y : BitVec 128) : BitVec 128 :=
  ((List.range 128).foldl (fun (p : BitVec 128 × BitVec 128) i =>
    (if x.getMsbD i then p.1 ^^^ p.2 else p.1,
      if p.2.getLsbD 0 then (p.2 >>> 1) ^^^ 0xE1000000000000000000000000000000#128 else p.2 >>> 1)) (0, y)).1

/-- GHASH of a string, zero-filled to whole blocks, from a value. -/
def ghash (h : BitVec 128) (y : BitVec 128) (bs : Bytes) : BitVec 128 :=
  (blocks16 bs).foldl (fun y b => ghashMul (y ^^^ BitVec.ofNat 128 (ofBE (fit 16 b))) h) y

/-- The cipher of GCM under a 96-bit nonce, both ways. -/
def gcmCrypt (key nonce text : Bytes) : Bytes :=
  ctrBlocks (aesKeys key) 4 (nonce ++ [0, 0, 0, 2]) (blocks16 text)

/-- The tag of GCM: additional data and ciphertext. -/
def gcmTag (key nonce aad ct : Bytes) (n : Nat) : Bytes :=
  let ks := aesKeys key
  let h := BitVec.ofNat 128 (ofBE (aesEnc ks (zeros 16)))
  let y := ghash h (ghash h 0 aad) ct
  let y := ghash h y (beNat 8 (8 * aad.length) ++ beNat 8 (8 * ct.length))
  (xorBytes (be 16 y) (aesEnc ks (nonce ++ [0, 0, 0, 1]))).take n

/-! ### CCM (SP 800-38C) -/

/-- A counter block of CCM. -/
def ccmCounter (nonce : Bytes) (i : Nat) : Bytes :=
  BitVec.ofNat 8 (14 - nonce.length) :: nonce ++ beNat (15 - nonce.length) i

/-- The length that stands before additional data. -/
def ccmLength (n : Nat) : Bytes :=
  if n = 0 then [] else if n < 0xFF00 then beNat 2 n else [0xFF, 0xFE] ++ beNat 4 n

/-- The octets that the CBC-MAC of CCM takes. -/
def ccmInput (nonce aad plain : Bytes) (t : Nat) : Bytes :=
  let pad (b : Bytes) : Bytes := fit ((b.length + 15) / 16 * 16) b
  let flags := (if aad = [] then 0 else 64) + 8 * ((t - 2) / 2) + (14 - nonce.length)
  BitVec.ofNat 8 flags :: nonce ++ beNat (15 - nonce.length) plain.length ++
    pad (ccmLength aad.length ++ aad) ++ pad plain

/-- The cipher of CCM, both ways. -/
def ccmCrypt (key nonce text : Bytes) : Bytes :=
  ctrBlocks (aesKeys key) (15 - nonce.length) (ccmCounter nonce 1) (blocks16 text)

/-- The tag of CCM, of `t` octets. -/
def ccmTag (key nonce aad plain : Bytes) (t : Nat) : Bytes :=
  let ks := aesKeys key
  let x := (blocks16 (ccmInput nonce aad plain t)).foldl (fun y b => aesEnc ks (xorBytes y b)) (zeros 16)
  (xorBytes x (aesEnc ks (ccmCounter nonce 0))).take t

/-! ### XTS (SP 800-38E, IEEE 1619) -/

/-- Times x in the field of XTS, least significant octet first. -/
def xtsNext (t : Bytes) : Bytes :=
  let v := 2 * ofLE t
  leNat 16 (if v < 2 ^ 128 then v else Nat.xor (v % 2 ^ 128) 0x87)

/-- A block under a tweak. -/
def xtsBlock (f : Bytes → Bytes) (t b : Bytes) : Bytes := xorBytes (f (xorBytes b t)) t

/-- XTS over blocks with ciphertext stealing. `enc` chooses the direction, which decides the order of the last two
tweaks. -/
def xtsGo (f : Bytes → Bytes) (enc : Bool) : Bytes → List Bytes → Bytes
  | _, [] => []
  | t, [b] => xtsBlock f t b
  | t, [b, last] =>
    if last.length = 16 then xtsBlock f t b ++ xtsBlock f (xtsNext t) last
    else
      let whole := xtsBlock f (if enc then t else xtsNext t) b
      xtsBlock f (if enc then xtsNext t else t) (last ++ whole.drop last.length) ++ whole.take last.length
  | t, b :: bs => xtsBlock f t b ++ xtsGo f enc (xtsNext t) bs

/-- XTS of a data unit. -/
def xts (enc : Bool) (key key2 tweak text : Bytes) : Bytes :=
  let ks := aesKeys key
  xtsGo (if enc then aesEnc ks else aesDec ks) enc (aesEnc (aesKeys key2) tweak) (blocks16 text)

/-! ### CMAC (SP 800-38B) -/

/-- Times x in the field of CMAC. -/
def cmacDouble (b : Bytes) : Bytes :=
  let v := 2 * ofBE b
  beNat 16 (if v < 2 ^ 128 then v else Nat.xor (v % 2 ^ 128) 0x87)

/-- CMAC of a string. -/
def cmac (key msg : Bytes) : Bytes :=
  let ks := aesKeys key
  let k1 := cmacDouble (aesEnc ks (zeros 16))
  let n := (msg.length - 1) / 16 * 16
  let last := msg.drop n
  let fin := if last.length = 16 then xorBytes last k1 else xorBytes (fit 16 (last ++ [0x80])) (cmacDouble k1)
  (blocks16 (msg.take n) ++ [fin]).foldl (fun y b => aesEnc ks (xorBytes y b)) (zeros 16)

/-! ### KW and KWP (SP 800-38F) -/

/-- The integrity values of KW and of KWP. -/
def kwIv : Bytes := List.replicate 8 0xA6#8
def kwpIv : Bytes := [0xA6, 0x59, 0x59, 0xA6]

/-- The wrapping function over semiblocks: step number, register A and the semiblocks. -/
def kwGo (ks : List Bytes) : Nat → Nat → Bytes → List Bytes → Bytes × List Bytes
  | 0, _, a, rs => (a, rs)
  | n + 1, t, a, rs =>
    let b := aesEnc ks (a ++ rs.headD [])
    kwGo ks n (t + 1) (xorBytes (b.take 8) (beNat 8 t)) (rs.drop 1 ++ [b.drop 8])

/-- So many steps of its inverse, from step number `t` down. -/
def kwBack (ks : List Bytes) : Nat → Nat → Bytes → List Bytes → Bytes × List Bytes
  | 0, _, a, rs => (a, rs)
  | n + 1, t, a, rs =>
    let b := aesDec ks (xorBytes a (beNat 8 t) ++ rs.getLastD [])
    kwBack ks n (t - 1) (b.take 8) (b.drop 8 :: rs.dropLast)

/-- Semiblocks of a string. -/
def semiblocks (bs : Bytes) : List Bytes := blocksOf 8 (bs.length / 8) bs

/-- The wrapping of a string of at least two semiblocks under an integrity value. -/
def kwWrap (key iv plain : Bytes) : Bytes :=
  let rs := semiblocks plain
  let r := kwGo (aesKeys key) (6 * rs.length) 1 iv rs
  r.1 ++ r.2.flatten

/-- The integrity value and the string that a wrapped string gives. -/
def kwUnwrap (key text : Bytes) : Bytes × Bytes :=
  let rs := semiblocks (text.drop 8)
  let r := kwBack (aesKeys key) (6 * rs.length) (6 * rs.length) (text.take 8) rs
  (r.1, r.2.flatten)

/-- KWP wrapping of a string of any length. -/
def kwpWrap (key plain : Bytes) : Bytes :=
  let iv := kwpIv ++ beNat 4 plain.length
  let padded := fit ((plain.length + 7) / 8 * 8) plain
  if padded.length = 8 then aesEnc (aesKeys key) (iv ++ padded) else kwWrap key iv padded

/-- The integrity value of KWP, the length it names and the zero padding hold on an unwrapped string. -/
def kwpHolds (a plain : Bytes) : Bool :=
  let n := ofBE (a.drop 4)
  a.take 4 == kwpIv && decide (plain.length < n + 8) && decide (n ≤ plain.length) && decide (0 < n) &&
    allZero (plain.drop n)

/-- KWP unwrapping: the string, if its integrity value, its length and its zero padding hold. -/
def kwpUnwrap (key text : Bytes) : Option Bytes :=
  let r := if text.length = 16 then
      let b := aesDec (aesKeys key) text
      (b.take 8, b.drop 8)
    else kwUnwrap key text
  if kwpHolds r.1 r.2 then some (r.2.take (ofBE (r.1.drop 4))) else none

/-! ### CTR_DRBG (SP 800-90A) with AES-256 and no derivation function -/

/-- `n` blocks of the DRBG's cipher, each under the counter's next value. -/
def drbgBlocks (ks : List Bytes) : Nat → Bytes → Bytes
  | 0, _ => []
  | n + 1, v => let v := ctrAdd 16 1 v; aesEnc ks v ++ drbgBlocks ks n v

/-- The update of a state, Key ‖ V, with 48 octets of provided data. -/
def drbgUpdate (state data : Bytes) : Bytes :=
  xorBytes (drbgBlocks (aesKeys (state.take 32)) 3 (state.drop 32)) data

/-- The output of a generate request and the state it leaves: V has advanced by the blocks made. -/
def drbgGenerate (state : Bytes) (n : Nat) : Bytes × Bytes :=
  let m := (n + 15) / 16
  let out := drbgBlocks (aesKeys (state.take 32)) m (state.drop 32)
  (out.take n, drbgUpdate (state.take 32 ++ ctrAdd 16 m (state.drop 32)) (zeros 48))

/-- The state that entropy and a personalisation string instantiate. -/
def drbgInstantiate (entropy person : Bytes) : Bytes := drbgUpdate (zeros 48) (xorBytes entropy person)

end Sys2Proof.Machine
end

