-- ==== Sys2Proof/Machine/Curves.lean ====
section
/-! DEFINITION. The elliptic-curve schemes of Table 4.3: ECDSA and ECC CDH over P-256, P-384 and P-521, Ed25519 and Ed448 with
their prehash variants, X25519 and X448; and the validation checks of Table 4.9 that belong to them. R117 names the
standards (FIPS 186-5, SP 800-56A, RFC 6979, RFC 7748, RFC 8032); what each computes is written from general knowledge of
them: PRESUMED (assumption 3). -/

namespace Sys2Proof.Machine

/-! ### Arithmetic modulo a number -/

/-- b to the power of e modulo m, over `n` bits of the exponent. -/
def powGo (m : Nat) : Nat → Nat → Nat → Nat → Nat
  | 0, _, _, acc => acc
  | n + 1, b, e, acc => powGo m n (b * b % m) (e / 2) (if e % 2 = 1 then acc * b % m else acc)

/-- b to the power of e modulo m. -/
def powMod (m b e : Nat) : Nat := powGo m (Nat.log2 e + 1) (b % m) e (1 % m)

/-- The inverse modulo a prime; 0 of 0. -/
def invMod (p a : Nat) : Nat := powMod p a (p - 2)

/-- a − b modulo m. -/
def subMod (m a b : Nat) : Nat := (a + m - b % m) % m

/-! ### Short Weierstrass curves with a = −3 (SP 800-186) -/

/-- A prime curve: field, coefficient b, order and base point. -/
structure Curve where
  p : Nat
  b : Nat
  n : Nat
  gx : Nat
  gy : Nat
  /-- Octets of a field element and of a scalar; bits of the order. -/
  len : Nat
  bits : Nat

def p256 : Curve :=
  { p := 0xFFFFFFFF00000001000000000000000000000000FFFFFFFFFFFFFFFFFFFFFFFF
    b := 0x5AC635D8AA3A93E7B3EBBD55769886BC651D06B0CC53B0F63BCE3C3E27D2604B
    n := 0xFFFFFFFF00000000FFFFFFFFFFFFFFFFBCE6FAADA7179E84F3B9CAC2FC632551
    gx := 0x6B17D1F2E12C4247F8BCE6E563A440F277037D812DEB33A0F4A13945D898C296
    gy := 0x4FE342E2FE1A7F9B8EE7EB4A7C0F9E162BCE33576B315ECECBB6406837BF51F5
    len := 32, bits := 256 }

def p384 : Curve :=
  { p := 2 ^ 384 - 2 ^ 128 - 2 ^ 96 + 2 ^ 32 - 1
    b := 0xB3312FA7E23EE7E4988E056BE3F82D19181D9C6EFE8141120314088F5013875AC656398D8A2ED19D2A85C8EDD3EC2AEF
    n := 0xFFFFFFFFFFFFFFFFFFFFFFFFFFFFFFFFFFFFFFFFFFFFFFFFC7634D81F4372DDF581A0DB248B0A77AECEC196ACCC52973
    gx := 0xAA87CA22BE8B05378EB1C71EF320AD746E1D3B628BA79B9859F741E082542A385502F25DBF55296C3A545E3872760AB7
    gy := 0x3617DE4A96262C6F5D9E98BF9292DC29F8F41DBD289A147CE9DA3113B5F0B8C00A60B1CE1D7E819D7A431D7C90EA0E5F
    len := 48, bits := 384 }

def p521 : Curve :=
  { p := 2 ^ 521 - 1
    b := 0x51953EB9618E1C9A1F929A21A0B68540EEA2DA725B99B315F3B8B489918EF109E156193951EC7E937B1652C0BD3BB1BF073573DF883D2C34F1EF451FD46B503F00
    n := 0x1FFFFFFFFFFFFFFFFFFFFFFFFFFFFFFFFFFFFFFFFFFFFFFFFFFFFFFFFFFFFFFFFFA51868783BF2F966B7FCC0148F709A5D03BB5C9B8899C47AEBB6FB71E91386409
    gx := 0xC6858E06B70404E9CD9E3ECB662395B4429C648139053FB521F828AF606B4D3DBAA14B5E77EFE75928FE1DC127A2FFA8DE3348B3C1856A429BF97E7E31C2E5BD66
    gy := 0x11839296A789A3BC0045C8A5FB42C7D1BD998F54449579B446817AFBD17273E662C97EE72995EF42640C550B9013FAD0761353C7086A272C24088BE94769FD16650
    len := 66, bits := 521 }

/-- The curve of an ECDSA type. -/
def curveOf (t : Byte) : Curve := if t = 0x20 then p256 else if t = 0x21 then p384 else p521

/-- A point: none is the point at infinity. -/
abbrev Point := Option (Nat × Nat)

/-- The right-hand side of the curve's equation at x. -/
def Curve.rhs (c : Curve) (x : Nat) : Nat := subMod c.p (x * x % c.p * x + c.b) (3 * x)

/-- The line through a point with a slope, met again. -/
def Curve.meet (c : Curve) (m x1 y1 x2 : Nat) : Point :=
  let x := subMod c.p (m * m) (x1 + x2)
  some (x, subMod c.p (m * subMod c.p x1 x) y1)

/-- The sum of two points. -/
def Curve.add (c : Curve) (a b : Point) : Point :=
  match a, b with
  | none, q => q
  | q, none => q
  | some (x1, y1), some (x2, y2) =>
    if x1 = x2 then
      if (y1 + y2) % c.p = 0 then none
      else c.meet ((3 * x1 * x1 + (c.p - 3)) * invMod c.p (2 * y1) % c.p) x1 y1 x2
    else c.meet (subMod c.p y2 y1 * invMod c.p (subMod c.p x2 x1) % c.p) x1 y1 x2

/-- k times a point, over `n` bits of k. -/
def Curve.mulGo (c : Curve) : Nat → Nat → Point → Point → Point
  | 0, _, _, acc => acc
  | n + 1, k, q, acc => c.mulGo n (k / 2) (c.add q q) (if k % 2 = 1 then c.add acc q else acc)

/-- k times a point. -/
def Curve.mul (c : Curve) (k : Nat) (q : Point) : Point := if k = 0 then none else c.mulGo (Nat.log2 k + 1) k q none

/-- The base point. -/
def Curve.base (c : Curve) : Point := some (c.gx, c.gy)

/-- A SEC1 value: the point it names, and the failing checks of Table 4.9 by code: 3 COORD_RANGE, 4 POINT_INVALID,
5 POINT_INFINITY. Every check runs; a later one takes a reduced value (R132). -/
def Curve.decode (c : Curve) (v : Bytes) : Point × List Nat :=
  let f := c.len
  let tag := octet 0 v
  let x := ofBE (slice 1 f v)
  let y := ofBE (slice (1 + f) f v)
  let xr := x % c.p
  let root := powMod c.p (c.rhs xr) ((c.p + 1) / 4)
  if tag = 0 ∧ v.length = 1 then (none, [5])
  else if tag = 4 ∧ v.length = 1 + 2 * f then
    (some (xr, y % c.p), (if c.p ≤ x ∨ c.p ≤ y then [3] else []) ++
      (if (y % c.p) * (y % c.p) % c.p = c.rhs xr then [] else [4]))
  else if (tag = 2 ∨ tag = 3) ∧ v.length = 1 + f then
    (some (xr, if root % 2 = tag.toNat % 2 then root else (c.p - root) % c.p),
      (if c.p ≤ x then [3] else []) ++ (if root * root % c.p = c.rhs xr then [] else [4]))
  else (none, [4])

/-- A point in SEC1's uncompressed form. -/
def Curve.encode (c : Curve) (q : Point) : Bytes :=
  match q with
  | none => [0]
  | some (x, y) => 4 :: beNat c.len x ++ beNat c.len y

/-! ### ECDSA (FIPS 186-5) with the nonce of RFC 6979 (R121) -/

/-- HMAC under a job's HASH. -/
def hmacBy (h : Nat) (key m : Bytes) : Bytes :=
  if h = 0 then hmacSha256 key m else if h = 1 then hmacSha384 key m else hmacSha512 key m

/-- A digest under a job's HASH. -/
def hashBy (h : Nat) (m : Bytes) : Bytes := if h = 0 then sha256 m else if h = 1 then sha384 m else sha512 m

/-- Octets of a digest under a job's HASH (Table 4.5). -/
def hashLen (h : Nat) : Nat := if h = 0 then 32 else if h = 1 then 48 else 64

/-- The leading bits of a string, as many as the order has. -/
def Curve.bits2int (c : Curve) (b : Bytes) : Nat := ofBE b / 2 ^ (8 * b.length - c.bits)

/-- The state of the nonce construction: K and V. -/
abbrev NonceState := Bytes × Bytes

/-- The construction's start: private key, digest, additional input. -/
def Curve.nonceInit (c : Curve) (h d : Nat) (digest extra : Bytes) : NonceState :=
  let seed := beNat c.len d ++ beNat c.len (c.bits2int digest % c.n) ++ extra
  let k0 := zeros (hashLen h)
  let v0 := List.replicate (hashLen h) 1#8
  let k1 := hmacBy h k0 (v0 ++ [0] ++ seed)
  let v1 := hmacBy h k1 v0
  let k2 := hmacBy h k1 (v1 ++ [1] ++ seed)
  (k2, hmacBy h k2 v1)

/-- Octets of the construction, as many as the order has, and the value that V then has. -/
def nonceOctets (h : Nat) (k : Bytes) : Nat → Bytes → Bytes × Bytes
  | 0, v => ([], v)
  | n + 1, v => let v := hmacBy h k v; let r := nonceOctets h k n v; (v ++ r.1, r.2)

/-- A candidate, and the state for the next one. -/
def Curve.nonceNext (c : Curve) (h : Nat) (st : NonceState) : Nat × NonceState :=
  let r := nonceOctets h st.1 ((c.bits + 8 * hashLen h - 1) / (8 * hashLen h)) st.2
  let k := hmacBy h st.1 (r.2 ++ [0])
  (c.bits2int (r.1.take c.len), (k, hmacBy h k r.2))

/-- The signature under the first candidate that is a nonce and gives neither r = 0 nor s = 0, among `n`. -/
def Curve.signGo (c : Curve) (h d z : Nat) : Nat → NonceState → Nat × Nat
  | 0, _ => (0, 0)
  | n + 1, st =>
    let k := c.nonceNext h st
    let r := (match c.mul k.1 c.base with | some q => q.1 | none => 0) % c.n
    let s := invMod c.n k.1 * (z + r * d) % c.n
    if k.1 = 0 ∨ c.n ≤ k.1 ∨ r = 0 ∨ s = 0 then c.signGo h d z n k.2 else (r, s)

/-- r ‖ s of a digest under a private key (Table 4.7). -/
def Curve.sign (c : Curve) (h : Nat) (key digest extra : Bytes) : Bytes :=
  let d := ofBE key
  let r := c.signGo h d (c.bits2int digest % c.n) 256 (c.nonceInit h d digest extra)
  beNat c.len r.1 ++ beNat c.len r.2

/-- The failing checks of an ECDSA verification by code: 1 SCALAR_ZERO, 2 SCALAR_RANGE, and those of the key. -/
def Curve.verifyChecks (c : Curve) (pub sig : Bytes) : List Nat :=
  let r := ofBE (sig.take c.len)
  let s := ofBE (slice c.len c.len sig)
  (if r = 0 ∨ s = 0 then [1] else []) ++ (if c.n ≤ r ∨ c.n ≤ s then [2] else []) ++ (c.decode pub).2

/-- An ECDSA signature verifies, its checks passed. -/
def Curve.verify (c : Curve) (pub digest sig : Bytes) : Bool :=
  let r := ofBE (sig.take c.len)
  let w := invMod c.n (ofBE (slice c.len c.len sig))
  let z := c.bits2int digest % c.n
  match c.add (c.mul (z * w % c.n) c.base) (c.mul (r * w % c.n) (c.decode pub).1) with
  | none => false
  | some q => q.1 % c.n == r

/-- A signature of a digest passes every check and verifies. -/
def Curve.accepts (c : Curve) (pub digest sig : Bytes) : Bool := c.verifyChecks pub sig == [] && c.verify pub digest sig

/-- The x-coordinate of ECC CDH; the generator stands for a peer that fails its checks (R134). -/
def Curve.agree (c : Curve) (key peer : Bytes) : Bytes :=
  let q := c.decode peer
  match c.mul (ofBE key) (if q.2 = [] then q.1 else c.base) with
  | none => zeros c.len
  | some z => beNat c.len z.1

/-! ### Edwards curves (RFC 8032) -/

/-- Ed25519 or Ed448: field, a = ±1, d, order, octets of an encoding, log2 of the cofactor, base point. -/
structure Edwards where
  p : Nat
  a : Nat
  d : Nat
  l : Nat
  len : Nat
  cof : Nat
  gx : Nat
  gy : Nat

def p25519 : Nat := 2 ^ 255 - 19
def p448 : Nat := 2 ^ 448 - 2 ^ 224 - 1

def ed25519 : Edwards :=
  { p := p25519, a := p25519 - 1
    d := 0x52036CEE2B6FFE738CC740797779E89800700A4D4141D8AB75EB4DCA135978A3
    l := 2 ^ 252 + 27742317777372353535851937790883648493, len := 32, cof := 3
    gx := 0x216936D3CD6E53FEC0A4E231FDD6DC5C692CC7609525A7B2C9562D608F25D51A
    gy := 0x6666666666666666666666666666666666666666666666666666666666666658 }

def ed448 : Edwards :=
  { p := p448, a := 1, d := p448 - 39081
    l := 2 ^ 446 - 13818066809895115352007386748515426880336692474882178609894547503885, len := 57, cof := 2
    gx := 224580040295924300187604334099896036246789641632564134246125461686950415467406032909029192869357953282578032075146446173674602635247710
    gy := 298819210078481492676017930443930673437544040154080242095928241372331506189835876003536878655418784733982303233503462500531545062832660 }

/-- A point in projective coordinates. -/
abbrev EdPoint := Nat × Nat × Nat

/-- The sum of two points. -/
def Edwards.add (e : Edwards) (q r : EdPoint) : EdPoint :=
  let a := q.2.2 * r.2.2 % e.p
  let b := a * a % e.p
  let c := q.1 * r.1 % e.p
  let d := q.2.1 * r.2.1 % e.p
  let m := e.d * c % e.p * d % e.p
  let f := subMod e.p b m
  let g := (b + m) % e.p
  (a * f % e.p * subMod e.p ((q.1 + q.2.1) * (r.1 + r.2.1)) (c + d) % e.p, a * g % e.p * subMod e.p d (e.a * c) % e.p,
    f * g % e.p)

/-- k times a point, over `n` bits of k. -/
def Edwards.mulGo (e : Edwards) : Nat → Nat → EdPoint → EdPoint → EdPoint
  | 0, _, _, acc => acc
  | n + 1, k, q, acc => e.mulGo n (k / 2) (e.add q q) (if k % 2 = 1 then e.add acc q else acc)

/-- k times a point. -/
def Edwards.mul (e : Edwards) (k : Nat) (q : EdPoint) : EdPoint :=
  if k = 0 then (0, 1, 1) else e.mulGo (Nat.log2 k + 1) k q (0, 1, 1)

/-- Two projective points are one point. -/
def Edwards.same (e : Edwards) (q r : EdPoint) : Bool :=
  q.1 * r.2.2 % e.p == r.1 * q.2.2 % e.p && q.2.1 * r.2.2 % e.p == r.2.1 * q.2.2 % e.p

/-- A point's encoding: y, with the low bit of x in the last octet's top bit. -/
def Edwards.encode (e : Edwards) (q : EdPoint) : Bytes :=
  let z := invMod e.p q.2.2
  leNat e.len (q.2.1 * z % e.p + (q.1 * z % e.p) % 2 * 2 ^ (8 * e.len - 1))

/-- A square root in the field, if the second component says that it is one. -/
def Edwards.sqrt (e : Edwards) (w : Nat) : Nat × Bool :=
  if e.a = 1 then
    let r := powMod e.p w ((e.p + 1) / 4)
    (r, r * r % e.p == w % e.p)
  else
    let r := powMod e.p w ((e.p + 3) / 8)
    let r := if r * r % e.p = w % e.p then r else r * powMod e.p 2 ((e.p - 1) / 4) % e.p
    (r, r * r % e.p == w % e.p)

/-- What an encoding names, and the failing checks by code: 3 its y is at or above p, 4 it does not decode. -/
def Edwards.decode (e : Edwards) (v : Bytes) : EdPoint × List Nat :=
  let n := ofLE v
  let y := n % 2 ^ (8 * e.len - 1)
  let yr := y % e.p
  let sign := n / 2 ^ (8 * e.len - 1) % 2
  let r := e.sqrt (subMod e.p (yr * yr) 1 * invMod e.p (subMod e.p (e.d * (yr * yr % e.p)) e.a) % e.p)
  let x := if r.1 % 2 = sign then r.1 else (e.p - r.1) % e.p
  ((x, yr, 1), (if e.p ≤ y then [3] else []) ++ (if r.2 && !(r.1 == 0 && sign == 1) then [] else [4]))

/-- The hash of an EdDSA scheme: SHA-512, or SHAKE256 with 114 octets. -/
def Edwards.hash (e : Edwards) (m : Bytes) : Bytes := if e.len = 32 then sha512 m else shake256 m 114

/-- dom2 and dom4: the prehash flag and the context. Ed25519 without prehash has none. -/
def Edwards.dom (e : Edwards) (ph : Bool) (ctx : Bytes) : Bytes :=
  let tail := [if ph then 1#8 else 0#8, BitVec.ofNat 8 ctx.length] ++ ctx
  if e.len = 57 then ascii "SigEd448" ++ tail
  else if ph then ascii "SigEd25519 no Ed25519 collisions" ++ tail
  else []

/-- The secret scalar of an EdDSA key, and the prefix that makes the nonce. -/
def Edwards.expand (e : Edwards) (key : Bytes) : Nat × Bytes :=
  let h := e.hash key
  let n := ofLE (h.take e.len)
  (if e.len = 32 then n % 2 ^ 254 / 8 * 8 + 2 ^ 254 else n % 2 ^ 447 / 4 * 4 + 2 ^ 447, h.drop e.len)

/-- The base point. -/
def Edwards.base (e : Edwards) : EdPoint := (e.gx, e.gy, 1)

/-- The public key of an EdDSA key. -/
def Edwards.public (e : Edwards) (key : Bytes) : Bytes := e.encode (e.mul (e.expand key).1 e.base)

/-- A signature R ‖ S of a message, or of a prehash; `m1` is what the first pass over the message gave, `m2` what the second
did (R122). -/
def Edwards.signTwice (e : Edwards) (key m1 m2 : Bytes) (ph : Bool) (ctx : Bytes) : Bytes :=
  let s := e.expand key
  let d := e.dom ph ctx
  let r := ofLE (e.hash (d ++ s.2 ++ m1)) % e.l
  let rEnc := e.encode (e.mul r e.base)
  let k := ofLE (e.hash (d ++ rEnc ++ e.public key ++ m2)) % e.l
  rEnc ++ leNat e.len ((r + k * s.1) % e.l)

/-- The two hashes of a signature, for r and for the challenge, of what the two passes over the message gave. -/
def Edwards.signHashes (e : Edwards) (key m1 m2 ctx : Bytes) : Bytes :=
  let d := e.dom false ctx
  let h := e.hash (d ++ (e.expand key).2 ++ m1)
  h ++ e.hash (d ++ e.encode (e.mul (ofLE h % e.l) e.base) ++ e.public key ++ m2)

/-- The challenge hash of a verification. -/
def Edwards.challenge (e : Edwards) (pub m sig ctx : Bytes) : Bytes := e.hash (e.dom false ctx ++ sig.take e.len ++ pub ++ m)

/-- The failing checks of an EdDSA verification (Table 4.9): 2 S ≥ L; 3 and 4 of A and of R; 4 also where A has small order
other than the identity; 5 where A is the identity. -/
def Edwards.verifyChecks (e : Edwards) (pub sig : Bytes) : List Nat :=
  let a := e.decode pub
  let small := e.same (e.mul (2 ^ e.cof) a.1) (0, 1, 1)
  let ident := e.same a.1 (0, 1, 1)
  (if e.l ≤ ofLE (sig.drop e.len) then [2] else []) ++ a.2 ++ (e.decode (sig.take e.len)).2 ++
    (if small && !ident then [4] else []) ++ (if ident then [5] else [])

/-- An EdDSA signature verifies, its checks passed: the cofactored equation. -/
def Edwards.verify (e : Edwards) (pub m sig : Bytes) (ph : Bool) (ctx : Bytes) : Bool :=
  let k := ofLE (e.hash (e.dom ph ctx ++ sig.take e.len ++ pub ++ m)) % e.l
  let right := e.add (e.decode (sig.take e.len)).1 (e.mul k (e.decode pub).1)
  e.same (e.mul (2 ^ e.cof * ofLE (sig.drop e.len)) e.base) (e.mul (2 ^ e.cof) right)

/-! ### X25519 and X448 (RFC 7748) -/

/-- One step of the ladder: the difference's u, a24, the bit, and the two points. -/
def ladderStep (p a24 u : Nat) (bit : Bool) (q : (Nat × Nat) × (Nat × Nat)) : (Nat × Nat) × (Nat × Nat) :=
  let q := if bit then (q.2, q.1) else q
  let a := (q.1.1 + q.1.2) % p
  let b := subMod p q.1.1 q.1.2
  let aa := a * a % p
  let bb := b * b % p
  let e := subMod p aa bb
  let da := subMod p q.2.1 q.2.2 * a % p
  let cb := (q.2.1 + q.2.2) * b % p
  let two := (aa * bb % p, e * ((aa + a24 * e) % p) % p)
  let sum := ((da + cb) * (da + cb) % p, u * (subMod p da cb * subMod p da cb % p) % p)
  if bit then (sum, two) else (two, sum)

/-- u times a scalar. -/
def montgomery (p a24 bits k u : Nat) : Nat :=
  let r := (List.range bits).foldl (fun q i => ladderStep p a24 (u % p) (k.testBit (bits - 1 - i)) q)
    ((1, 0), (u % p, 1))
  r.1.1 * invMod p r.1.2 % p

/-- X25519 (`big` false) or X448 of a private key and a u-coordinate. The high bit of an X25519 input is masked, a
non-canonical u is reduced. -/
def xdh (big : Bool) (key u : Bytes) : Bytes :=
  let k := ofLE key
  if big then leNat 56 (montgomery p448 39081 448 (k % 2 ^ 447 / 4 * 4 + 2 ^ 447) (ofLE u))
  else leNat 32 (montgomery p25519 121665 255 (k % 2 ^ 254 / 8 * 8 + 2 ^ 254) (ofLE u % 2 ^ 255))

/-- The base point's u-coordinate. -/
def xdhBase (big : Bool) : Bytes := leNat (if big then 56 else 32) (if big then 5 else 9)

end Sys2Proof.Machine
end

