-- ==== Sys2Proof/Machine/Rsa.lean ====
section
/-! DEFINITION. RSA (RFC 8017): PKCS1-v1_5 and PSS signatures, OAEP, and the prime generation of FIPS 186-5 A.1.3 from a
seed (R52). R117 names the standards; what each computes is written from general knowledge of them: PRESUMED
(assumption 3). -/

namespace Sys2Proof.Machine

/-! ### Keys -/

/-- Euclid's algorithm on (r0, r1) with the cofactors of the first. -/
def egcdGo : Nat → Int → Int → Int → Int → Int × Int
  | 0, r0, _, s0, _ => (r0, s0)
  | n + 1, r0, r1, s0, s1 => if r1 = 0 then (r0, s0) else egcdGo n r1 (r0 % r1) s1 (s0 - r0 / r1 * s1)

/-- The inverse modulo any number that is coprime to it. -/
def invAny (m a : Nat) : Nat := ((egcdGo (2 * Nat.log2 m + 4) a m 1 0).2 % m).toNat

/-- The public exponent of every device key (R52). -/
abbrev rsaExp : Nat := 65537

/-- A private key as its octets give it: p, q, dP, dQ, qInv, each half the modulus. -/
structure RsaKey where
  p : Nat
  q : Nat
  dP : Nat
  dQ : Nat
  qInv : Nat

/-- Read a private key of a modulus of `k` octets. -/
def RsaKey.ofBytes (k : Nat) (b : Bytes) : RsaKey :=
  let at_ (i : Nat) : Nat := ofBE (slice (i * (k / 2)) (k / 2) b)
  ⟨at_ 0, at_ 1, at_ 2, at_ 3, at_ 4⟩

/-- Its octets. -/
def RsaKey.bytes (k : Nat) (x : RsaKey) : Bytes :=
  [x.p, x.q, x.dP, x.dQ, x.qInv].flatMap fun v => beNat (k / 2) v

/-- The modulus. -/
def RsaKey.n (x : RsaKey) : Nat := x.p * x.q

/-- The private operation, by the Chinese remainder theorem. -/
def RsaKey.crt (x : RsaKey) (m : Nat) : Nat :=
  let a := powMod x.p m x.dP
  let b := powMod x.q m x.dQ
  b + x.q * (subMod x.p a b * x.qInv % x.p)

/-- A public key: modulus, exponent. -/
structure RsaPublic where
  n : Nat
  e : Nat
  nbits : Nat

/-- Octets of the modulus. -/
def RsaPublic.len (x : RsaPublic) : Nat := (x.nbits + 7) / 8

/-- Read a public key in the format of Table 4.6. -/
def RsaPublic.ofBytes (b : Bytes) : RsaPublic :=
  let nbits := ofLE (slice 0 2 b)
  let k := (nbits + 7) / 8
  ⟨ofBE (slice 4 k b), ofBE (slice (4 + k) (octet 2 b).toNat b), nbits⟩

/-- A device key's public key in that format. -/
def rsaPublicBytes (k : Nat) (key : Bytes) : Bytes :=
  leNat 2 (8 * k) ++ [3, 0] ++ beNat k (RsaKey.ofBytes k key).n ++ beNat 3 rsaExp

/-- The failing checks of an RSA public key by code (Table 4.9): 6 MODULUS_INVALID, 7 OPERAND_RANGE. -/
def RsaPublic.checks (x : RsaPublic) : List Nat :=
  (if x.nbits < 2048 ∨ 8192 < x.nbits ∨ x.n % 2 = 0 ∨ x.n / 2 ^ (x.nbits - 1) ≠ 1 then [6] else []) ++
  (if x.e % 2 = 0 ∨ x.e < 3 ∨ x.n ≤ x.e then [7] else [])

/-! ### Encodings (RFC 8017) -/

/-- MGF1 with a job's HASH. -/
def mgf1 (h : Nat) (seed : Bytes) (n : Nat) : Bytes :=
  ((List.range ((n + hashLen h - 1) / hashLen h)).flatMap fun i => hashBy h (seed ++ beNat 4 i)).take n

/-- The DigestInfo of a digest. -/
def digestInfo (h : Nat) (digest : Bytes) : Bytes :=
  let id : Byte := if h = 0 then 1 else if h = 1 then 2 else 3
  [0x30#8, BitVec.ofNat 8 (17 + hashLen h), 0x30#8, 0x0D#8, 0x06#8, 0x09#8, 0x60#8, 0x86#8, 0x48#8, 0x01#8, 0x65#8, 0x03#8, 0x04#8, 0x02#8, id,
    0x05#8, 0x00#8, 0x04#8, BitVec.ofNat 8 (hashLen h)] ++ digest

/-- EMSA-PKCS1-v1_5. -/
def emsaPkcs1 (h k : Nat) (digest : Bytes) : Bytes :=
  let t := digestInfo h digest
  [0, 1] ++ List.replicate (k - t.length - 3) 0xFF#8 ++ [0] ++ t

/-- The bits of an octet string's first octet that a length in bits leaves. -/
def clearTop (bits : Nat) (b : Bytes) : Bytes := beNat b.length (ofBE b % 2 ^ bits)

/-- EMSA-PSS of `emBits` bits. -/
def emsaPss (h emBits : Nat) (digest salt : Bytes) : Bytes :=
  let em := (emBits + 7) / 8
  let hh := hashBy h (zeros 8 ++ digest ++ salt)
  let db := zeros (em - salt.length - hashLen h - 2) ++ [1] ++ salt
  clearTop (emBits - 8 * (hashLen h + 1)) (xorBytes db (mgf1 h hh db.length)) ++ hh ++ [0xBC]

/-- A PSS encoding agrees with a digest. -/
def pssOk (h emBits sLen : Nat) (digest em : Bytes) : Bool :=
  let n := em.length - hashLen h - 1
  let masked := em.take n
  let hh := slice n (hashLen h) em
  let db := clearTop (emBits - 8 * (hashLen h + 1)) (xorBytes masked (mgf1 h hh n))
  let salt := db.drop (n - sLen)
  em.getLastD 0 == 0xBC && decide (ofBE masked < 2 ^ (emBits - 8 * (hashLen h + 1))) &&
    decide (hashLen h + sLen + 2 ≤ em.length) && allZero (db.take (n - sLen - 1)) && octet (n - sLen - 1) db == 1 &&
    hashBy h (zeros 8 ++ digest ++ salt) == hh

/-- EME-OAEP of a message under a label and a seed. -/
def oaepPad (h k : Nat) (label seed m : Bytes) : Bytes :=
  let db := hashBy h label ++ zeros (k - m.length - 2 * hashLen h - 2) ++ [1] ++ m
  let db := xorBytes db (mgf1 h seed db.length)
  [0] ++ xorBytes seed (mgf1 h db seed.length) ++ db

/-- The message in an OAEP encoding, if it decodes under a label. -/
def oaepOpen (h : Nat) (label em : Bytes) : Option Bytes :=
  let l := hashLen h
  let db := em.drop (1 + l)
  let seed := xorBytes (slice 1 l em) (mgf1 h db l)
  let db := xorBytes db (mgf1 h seed db.length)
  let rest := (db.drop l).dropWhile (· == 0)
  if octet 0 em == 0 && db.take l == hashBy h label && rest.headD 0 == 1 then some (rest.drop 1) else none

/-! ### Operations -/

/-- A signature of a digest: PKCS1-v1_5, or PSS with a salt. -/
def rsaSign (k h : Nat) (pss : Bool) (key digest salt : Bytes) : Bytes :=
  let x := RsaKey.ofBytes k key
  beNat k (x.crt (ofBE (if pss then emsaPss h (8 * k - 1) digest salt else emsaPkcs1 h k digest)))

/-- A signature verifies, its checks passed. -/
def rsaVerify (x : RsaPublic) (h : Nat) (pss : Bool) (sLen : Nat) (digest sig : Bytes) : Bool :=
  let m := powMod x.n (ofBE sig) x.e
  if pss then
    let em := (x.nbits - 1 + 7) / 8
    decide (m < 256 ^ em) && pssOk h (x.nbits - 1) sLen digest (beNat em m)
  else beNat x.len m == emsaPkcs1 h x.len digest

/-- The ciphertext of a message. -/
def rsaEncrypt (x : RsaPublic) (h : Nat) (label seed m : Bytes) : Bytes :=
  beNat x.len (powMod x.n (ofBE (oaepPad h x.len label seed m)) x.e)

/-- The message of a ciphertext; the representative 1 stands for one that is out of range (R134). -/
def rsaDecrypt (k h : Nat) (key label c : Bytes) : Option Bytes :=
  let x := RsaKey.ofBytes k key
  oaepOpen h label (beNat k (x.crt (if ofBE c < x.n then ofBE c else 1)))

/-! ### Prime generation (R52, FIPS 186-5 A.1.3) -/

/-- Octets [pos, pos + n) of SHAKE256(seed ‖ "SH6496 RSA"). -/
def rsaStream (seed : Bytes) (pos n : Nat) : Bytes := slice pos n (shake256 (seed ++ ascii "SH6496 RSA") (pos + n))

/-- One round of the Miller-Rabin test of w with a base: w − 1 = 2^a · m. -/
def millerRabin (w a m b : Nat) : Bool :=
  let z := powMod w b m
  z == 1 || (List.range a).any fun i => powMod w z (2 ^ i) == w - 1

/-- The rounds of the test of w, with bases that the stream gives in order: whether all pass, and where the stream then
stands. -/
def primeGo (seed : Bytes) (w a m : Nat) : Nat → Nat → Nat → Bool × Nat
  | 0, _, pos => (true, pos)
  | _ + 1, 0, pos => (true, pos)
  | fuel + 1, rounds + 1, pos =>
    let n := (Nat.log2 w + 8) / 8
    let b := ofBE (rsaStream seed pos n) % 2 ^ (Nat.log2 w + 1)
    if b ≤ 1 ∨ w - 1 ≤ b then primeGo seed w a m fuel (rounds + 1) (pos + n)
    else if millerRabin w a m b then primeGo seed w a m fuel rounds (pos + n)
    else (false, pos + n)

/-- The powers of two in a number. -/
def twos : Nat → Nat → Nat
  | 0, _ => 0
  | fuel + 1, n => if n % 2 = 0 then twos fuel (n / 2) + 1 else 0

/-- A number passes the test. The rounds are the device's (assumption 3). -/
def probablePrime (seed : Bytes) (w pos : Nat) : Bool × Nat :=
  let a := twos (Nat.log2 w + 1) (w - 1)
  let rounds := Config.mrRounds (Nat.log2 w + 1)
  primeGo seed w a ((w - 1) / 2 ^ a) (rounds + 1024) rounds pos

/-- A prime of `n` octets: candidates from the stream, made odd, large enough, far from `other`, coprime less one to e. -/
def primeCand (seed : Bytes) (n other : Nat) : Nat → Nat → Nat × Nat
  | 0, pos => (0, pos)
  | fuel + 1, pos =>
    let c := ofBE (rsaStream seed pos n)
    let c := if c % 2 = 0 then c + 1 else c
    let pos := pos + n
    let near := other ≠ 0 ∧ (if c < other then other - c else c - other) ≤ 2 ^ (8 * n - 100)
    if c * c < 2 ^ (16 * n - 1) ∨ near ∨ Nat.gcd (c - 1) rsaExp ≠ 1 then primeCand seed n other fuel pos
    else
      let r := probablePrime seed c pos
      if r.1 then (c, r.2) else primeCand seed n other fuel r.2

/-- The private key of a modulus of `k` octets that a seed yields (R52). -/
def rsaGenerate (k : Nat) (seed : Bytes) : Bytes :=
  let a := primeCand seed (k / 2) 0 (80 * k) 0
  let b := primeCand seed (k / 2) a.1 (160 * k) a.2
  RsaKey.bytes k ⟨a.1, b.1, invAny (a.1 - 1) rsaExp, invAny (b.1 - 1) rsaExp, invAny a.1 b.1⟩

/-- The pairwise consistency check of R127: a fixed 32 B representative signed under PKCS1-v1_5 with SHA-256 and verified. -/
def rsaConsistent (k : Nat) (key : Bytes) : Bool :=
  let pub := RsaPublic.ofBytes (rsaPublicBytes k key)
  rsaVerify pub 0 false 0 Config.pctRepresentative (rsaSign k 0 false key Config.pctRepresentative [])

end Sys2Proof.Machine
end

