-- ==== Sys2Proof/Machine/EngineBase.lean ====
section
/-! DEFINITION. The engines and Whisk's accounts as every other file reads and writes them (R23, R24, R164, R168, R169). -/

namespace Sys2Proof.Machine

/-- A class as WSK_ENG_SEL codes it (Table 6.11). -/
def EngClass.code : EngClass → Nat
  | .pool => 0
  | .cipher => 1
  | .bn => 2
  | .lane => 3

/-- Engines of a class (R164). -/
def EngClass.size : EngClass → Nat
  | .pool => 160
  | .cipher => 128
  | .bn => 64
  | .lane => 32

/-- Key of an engine in the table. -/
def engKey (c : EngClass) (n : Nat) : Nat := c.code * 256 + n

/-- An engine. -/
def State.engine (s : State) (c : EngClass) (n : Nat) : Engine := sparseGet Engine.reset s.eng.table (engKey c n)

/-- Replace an engine. -/
def State.setEngine (s : State) (c : EngClass) (n : Nat) (e : Engine) : State :=
  { s with eng := { s.eng with table := sparseSet Engine.reset s.eng.table (engKey c n) e } }

/-- ARG0 of an engine event (R492). -/
def engArg (c : EngClass) (n : Nat) : Nat := n + 256 * c.code

/-- The power group of an engine (Table 1.2, R23): digest groups 0 to 9, cipher 10 to 17, big-number 18 to 25 by engine
number; lane engines belong to none (R24). -/
def groupOf (c : EngClass) (n : Nat) : Option Nat :=
  match c with
  | .pool => some (n / 16)
  | .cipher => some (10 + n / 16)
  | .bn => some (18 + n / 8)
  | .lane => none

/-- An engine's power group is ON. -/
def State.groupOn (s : State) (c : EngClass) (n : Nat) : Bool :=
  match groupOf c n with
  | none => true
  | some g =>
    let p := sparseGet PGroup.reset s.power.groups g
    p.state == .on && p.joined

/-- An engine is online: it counts in N of R168. -/
def State.online (s : State) (c : EngClass) (n : Nat) : Bool :=
  let e := s.engine c n
  e.health == .online && s.groupOn c n && e.tap.isNone && e.substFor.isNone && e.stalled.isNone && !e.scrubbing

/-- The engines of a class that pass a test, by number. -/
def enginesWhere (c : EngClass) (p : Nat → Bool) : List Nat := (List.range c.size).filter p

/-! ### Accounts (Table 6.10) -/

/-- A slice's account in a class. -/
def State.account (s : State) (c : EngClass) (x : Nat) : Account :=
  sparseGet Account.reset s.whisk.accounts (c.code * 64 + x)

/-- Replace an account. -/
def State.setAccount (s : State) (c : EngClass) (x : Nat) (a : Account) : State :=
  { s with whisk := { s.whisk with accounts := sparseSet Account.reset s.whisk.accounts (c.code * 64 + x) a } }

/-- Balance of a slice in a class. -/
def State.balance (s : State) (c : EngClass) (x : Option (BitVec 6)) : Nat :=
  match x with | some i => (s.account c i.toNat).balance.toNat | none => 0

/-- Nanoseconds of a number of ECLK cycles. -/
def cyclesNs (n : Nat) : Nat := n * 2 / 3

/-- Charge cycles of a class to a slice outside a running segment: owned if the balance covers them, which is then reduced,
else borrowed (R169, R170). -/
def State.chargeOnce (s : State) (c : EngClass) (x : Option (BitVec 6)) (cycles : Nat) : State :=
  match x with
  | none => s
  | some i =>
    let a := s.account c i.toNat
    s.setAccount c i.toNat
      (if cycles ≤ a.balance.toNat then
        { a with balance := a.balance - BitVec.ofNat 16 cycles, owned := a.owned + BitVec.ofNat 64 cycles }
       else { a with borrowed := a.borrowed + BitVec.ofNat 64 cycles })

/-- The pool engine that counts a derivation made within one command: the lowest-numbered one that is idle, else the lowest that
is online. -/
def State.derivationEngine (s : State) : Option Nat :=
  let on := enginesWhere .pool (s.online .pool)
  match on.find? fun n => (s.engine .pool n).running.isNone && (s.engine .pool n).lane.isEmpty with
  | some n => some n
  | none => on.head?

/-- Derivation steps of so many calls that a command makes at once (R71): 26 cycles a call, charged to a slice
(assumption 11). The steps that a job needs are segments of its own. -/
def State.deriveWork (s : State) (x : Option (BitVec 6)) (calls : Nat) : State :=
  if calls = 0 then s
  else
    let s := match s.derivationEngine with
      | some n => s.setEngine .pool n { s.engine .pool n with calls := (s.engine .pool n).calls + BitVec.ofNat 64 calls }
      | none => s
    s.chargeOnce .pool x (26 * calls)

end Sys2Proof.Machine
end

