-- ==== Sys2Proof/Machine/KeyOps.lean ====
section
/-! DEFINITION. Handles, their checks, counted uses, derivation and the derived-key cache (R44 to R71, R75). -/

namespace Sys2Proof.Machine

/-! ### Types and entries -/

/-- What Table 2.3 gives a node type: the derived bits L, the cache entries, the operations its OPS may contain. -/
structure TypeInfo where
  bits : Nat
  entries : Nat
  ops : Half

/-- Table 2.3. -/
def typeInfo (t : Byte) : Option TypeInfo :=
  match t with
  | 0x01 => some ⟨256, 1, 0x1001⟩
  | 0x10 => some ⟨128, 1, 0x107E⟩
  | 0x11 => some ⟨192, 1, 0x107E⟩
  | 0x12 => some ⟨256, 1, 0x107E⟩
  | 0x13 => some ⟨256, 1, 0x1060⟩
  | 0x14 => some ⟨512, 1, 0x1060⟩
  | 0x15 => some ⟨256, 1, 0x1060⟩
  | 0x18 => some ⟨256, 1, 0x1400⟩
  | 0x20 => some ⟨320, 1, 0x1B80⟩
  | 0x21 => some ⟨448, 1, 0x1380⟩
  | 0x22 => some ⟨585, 2, 0x1380⟩
  | 0x28 => some ⟨256, 1, 0x1180⟩
  | 0x29 => some ⟨456, 1, 0x1180⟩
  | 0x2A => some ⟨256, 1, 0x1200⟩
  | 0x2B => some ⟨448, 1, 0x1200⟩
  | 0x30 => some ⟨256, 10, 0x1186⟩
  | 0x31 => some ⟨256, 15, 0x1186⟩
  | 0x32 => some ⟨256, 20, 0x1186⟩
  | 0x33 => some ⟨256, 40, 0x1186⟩
  | 0x40 => some ⟨512, 1, 0x1200⟩
  | 0x41 => some ⟨512, 1, 0x1200⟩
  | 0x42 => some ⟨512, 1, 0x1200⟩
  | 0x48 => some ⟨256, 1, 0x1180⟩
  | 0x49 => some ⟨256, 1, 0x1980⟩
  | 0x4A => some ⟨256, 1, 0x1180⟩
  | _ => none

/-- An RSA node type (R52). -/
def isRsa (t : Byte) : Bool := t == 0x30 || t == 0x31 || t == 0x32 || t == 0x33

/-- Operations of Table 2.6, by bit. -/
abbrev opDerive : Nat := 0
abbrev opEncrypt : Nat := 1
abbrev opDecrypt : Nat := 2
abbrev opWrap : Nat := 3
abbrev opUnwrap : Nat := 4
abbrev opMacGen : Nat := 5
abbrev opMacVerify : Nat := 6
abbrev opSign : Nat := 7
abbrev opVerify : Nat := 8
abbrev opAgree : Nat := 9
abbrev opStamp : Nat := 10
abbrev opSeal : Nat := 11
abbrev opProve : Nat := 12

/-- The counted operations of Table 2.6. -/
def countedOp (op : Nat) : Bool := op != 0 && op != 8 && decide (op < 12)

/-- FLAGS of Table 2.5. -/
def Handle.valid (e : Handle) : Bool := e.flags.getLsbD 0
def Handle.expired (e : Handle) : Bool := e.flags.getLsbD 1
def Handle.quorum (e : Handle) : Bool := e.flags.getLsbD 2
def Handle.scope (e : Handle) : BitVec 2 := e.flags.extractLsb 4 3
def Handle.rootParent (e : Handle) : Bool := e.flags.getLsbD 5
def Handle.pin (e : Handle) : Bool := e.flags.getLsbD 6

/-- LIVE (R56). -/
def Handle.live (e : Handle) : Bool := e.valid && !e.expired

/-- An entry with a counted operation in its OPS. -/
def Handle.counted (e : Handle) : Bool := e.ops &&& 0x0EFE != 0

/-- The entry of a node that has gone: FREE, its tag kept for the next allocation (R54, R68). -/
def Handle.freed (e : Handle) : Handle := { Handle.free with tag := e.tag }

/-- Strictness of a scope (R62): persistent, device, slice. -/
def scopeRank (c : BitVec 2) : Nat := if c = 0 then 0 else if c = 2 then 1 else 2

/-- Index and tag of a handle identifier (R54). -/
def hIndex (h : Word) : Nat := (h.extractLsb 19 0).toNat
def hTag (h : Word) : BitVec 12 := h.extractLsb 31 20

/-- The identifier of an entry. -/
def handleId (i : Nat) (e : Handle) : Word := e.tag ++ BitVec.ofNat 20 i

/-- The limit that USE_LIMIT encodes (R57); none is unlimited. -/
def limitOf (l : Half) : Option Nat :=
  if l = 0 then none else some ((l.extractLsb 10 0).toNat * 2 ^ (l.extractLsb 15 11).toNat)

/-- A USE_LIMIT with a zero mantissa and a non-zero exponent (R57). -/
def badLimit (l : Half) : Bool := l.extractLsb 10 0 == 0 && l.extractLsb 15 11 != 0

/-- The lower of two encoded limits, unlimited the highest (NARROW). -/
def lowerLimit (a b : Half) : Half :=
  match limitOf a, limitOf b with
  | _, none => a
  | none, some _ => b
  | some x, some y => if y < x then b else a

/-- The 40 B of an entry (Table 2.4). -/
def Handle.bytes (e : Handle) : Bytes :=
  le 4 e.parent ++ le 8 e.label ++ [e.owner, e.type, e.flags, e.policy] ++ le 8 e.sliceMask ++ le 2 e.ops ++
  le 2 (e.depth ++ e.tag) ++ le 4 e.generation ++ le 6 e.useCount ++ le 2 e.useLimit

/-- The entry that 40 B spell. -/
def Handle.ofBytes (b : Bytes) : Handle :=
  { parent := fieldLE 32 0 4 b, label := fieldLE 64 4 8 b, owner := octet 12 b, type := octet 13 b,
    flags := octet 14 b, policy := octet 15 b, sliceMask := fieldLE 64 0x10 8 b, ops := fieldLE 16 0x18 2 b,
    tag := fieldLE 12 0x1A 2 b, depth := (fieldLE 16 0x1A 2 b).extractLsb 15 12,
    generation := fieldLE 32 0x1C 4 b, useCount := fieldLE 48 0x20 6 b, useLimit := fieldLE 16 0x26 2 b,
    ceilBase := 0 }

/-- An entry of the handle table. -/
def State.entry (s : State) (i : Nat) : Handle := sparseGet Handle.free s.keys.table i

/-- Replace an entry. -/
def State.setEntry (s : State) (i : Nat) (e : Handle) : State :=
  { s with keys := { s.keys with table := sparseSet Handle.free s.keys.table i e } }

/-- Rewrite every entry. -/
def State.mapEntries (s : State) (f : Nat → Handle → Handle) : State :=
  { s with keys := { s.keys with table := sparseMap Handle.free f s.keys.table } }

/-- First index and length of an owner's region (R47). -/
def Owner.first (o : Owner) : Nat := o.regionBase.toNat * 4096
def Owner.size (o : Owner) : Nat := o.regionUnits.toNat * 4096

/-- Index i lies in the owner's region. -/
def Owner.holds (o : Owner) (i : Nat) : Bool := decide (o.first ≤ i) && decide (i < o.first + o.size)

/-- The owner of a root, if one that is LIVE has it. -/
def State.rootOwner (s : State) (r : Nat) : Option Nat :=
  (s.trivet.owners.find? fun e => e.2.state == .live && e.2.roots.any fun x => x.toNat == r).map Prod.fst

/-- The VALID entries of an owner's region, by index. -/
def State.regionUsed (s : State) (o : Owner) : List (Nat × Handle) :=
  s.keys.table.filter fun e => o.holds e.1 && e.2.valid

/-- The index that an allocation takes (R56). -/
def State.allocIndex (s : State) (o : Owner) : Option Nat :=
  let used := s.regionUsed o
  let i := freeIndex o.first (used.map Prod.fst)
  if i < o.first + o.size then some i else (used.find? fun e => e.2.expired).map Prod.fst

/-- The tag that follows (R54): 4,095 wraps to 1. -/
def nextTag (t : BitVec 12) : BitVec 12 := if t = 0xFFF then 1 else t + 1

/-! ### Issuers and ancestry -/

/-- The slice that an issuer speaks for, if it is a slice or N issuer. -/
def Issuer.slice? : Issuer → Option (BitVec 6)
  | .slice x => some x
  | .n x => some x
  | .h => .none
  | .s => .none

/-- The issuer's level as LEVELS of a window counts it. -/
def Issuer.levelBit : Issuer → Nat
  | .slice _ => 0
  | .n _ => 0
  | .h => 1
  | .s => 2

/-- The ancestors of an entry that are VALID under their tags, nearest first, as far as the walk reaches; and whether
it reached a root. -/
def State.walk (s : State) : Nat → Handle → List (Word × Handle) × Bool
  | 0, _ => ([], false)
  | n + 1, e =>
    if e.rootParent then ([], true)
    else
      let p := s.entry (hIndex e.parent)
      if p.valid && p.tag == hTag e.parent then
        let r := s.walk n p
        ((e.parent, p) :: r.1, r.2)
      else ([], false)

/-- The walk of any entry: at most 15 levels (R62). -/
def State.ancestry (s : State) (e : Handle) : List (Word × Handle) × Bool := s.walk 16 e

/-! ### Quorum windows (R384) -/

/-- A window admits an operation of an owner. `node` holds the node and its ancestors. -/
def QWindow.admitsOp (w : QWindow) (o : Nat) (bit : Nat) (i : Issuer) (node : List Word) (root : Bool) : Bool :=
  w.owner.toNat == o && w.admits.getLsbD bit && w.levels.getLsbD i.levelBit &&
  (match i.slice? with | some x => w.sliceMask.getLsbD x.toNat | none => true) &&
  (w.handle == 0 || node.contains w.handle || root) && (w.unlimited || w.budget != 0)

/-- The lowest-numbered window that admits an operation. -/
def State.admitting (s : State) (o bit : Nat) (i : Issuer) (node : List Word) (root : Bool) : Option Nat :=
  let ok := (s.cus.windows.filter fun e => e.2.admitsOp o bit i node root).map Prod.fst
  ok.foldl (fun m n => match m with | none => some n | some k => some (min k n)) none

/-- Take one operation from a window's budget; the window closes with BUDGET when it is spent (R384, R385). -/
def State.admitUse (s : State) (w : Option Nat) : State :=
  match w with
  | none => s
  | some n =>
    let dec (q : QWindow) : QWindow := if q.unlimited then q else { q with budget := q.budget - 1 }
    let wins := s.cus.windows.map fun e => if e.1 = n then (e.1, dec e.2) else e
    let s := { s with cus := { s.cus with windows := wins } }
    if wins.any fun e => e.1 == n && !e.2.unlimited && e.2.budget == 0 then s.closeWindow n 1 else s

/-! ### Checks (Table 2.7) -/

/-- A verdict from a status and a detail. -/
abbrev verdict (st : Half) (d : Nat) : Verdict := ⟨st, BitVec.ofNat 8 d⟩

/-- The handle's entry is VALID, its tag matches, its owner is LIVE (check 1). -/
def State.lookup (s : State) (h : Word) : Option Handle :=
  let e := s.entry (hIndex h)
  if e.valid && e.tag == hTag h && (s.owner e.owner.toNat).state == .live then some e else none

/-- Checks 1 to 3 of Table 2.7. QUERY, DESTROY and UNPIN skip check 3 (R64). -/
def State.checkHandle (s : State) (i : Issuer) (h : Word) (skip3 : Bool) : Except Verdict Handle :=
  match s.lookup h with
  | none => .error (verdict St.handleInvalid 0)
  | some e =>
    let masked := match i.slice? with | some x => e.sliceMask.getLsbD x.toNat | none => true
    if !masked then .error (verdict St.handleInvalid 0)
    else if !skip3 && (e.expired || (s.ancestry e).1.any fun a => a.2.expired) then .error (verdict St.keyExpired 0)
    else .ok e

/-- Check 4 of Table 2.7: the operation is permitted for TYPE and present in OPS. -/
def opCheck (e : Handle) (op : Nat) : Option Verdict :=
  if !(match typeInfo e.type with | some t => t.ops.getLsbD op | none => false) then
    some (verdict St.attrDenied 0x11)
  else if !e.ops.getLsbD op then some (verdict St.attrDenied 0x10)
  else none

/-- The node and its ancestors, as R384 matches them. -/
def State.family (s : State) (h : Word) (e : Handle) : List Word := h :: (s.ancestry e).1.map Prod.fst

/-- Check 5 of Table 2.7 for an operation on a node: QUORUM needs a window (R63). -/
def State.quorumCheck (s : State) (i : Issuer) (h : Word) (e : Handle) (bit : Nat) : Option Verdict :=
  if e.quorum && (s.admitting e.owner.toNat bit i (s.family h e) false).isNone then
    some (verdict St.quorumRequired 0)
  else none

/-- Check 6 of Table 2.7. -/
def limitReached (e : Handle) : Bool :=
  match limitOf e.useLimit with
  | none => false
  | some l => decide (l ≤ e.useCount.toNat)

/-- All the checks of a use of a handle for an operation (R64). -/
def State.checkUse (s : State) (i : Issuer) (h : Word) (op : Nat) : Except Verdict Handle :=
  match s.checkHandle i h false with
  | .error v => .error v
  | .ok e =>
    match opCheck e op with
    | some v => .error v
    | none =>
      if !countedOp op then .ok e
      else match s.quorumCheck i h e 0 with
        | some v => .error v
        | none => if limitReached e then .error (verdict St.keyExhausted 0) else .ok e

/-- The walk to the root that a derivation makes: HANDLE_INVALID at an ancestor that is not VALID (R64). -/
def State.walkCheck (s : State) (e : Handle) : Option Verdict :=
  if (s.ancestry e).2 then none else some (verdict St.handleInvalid 0)

/-- The checks that a running job repeats at each segment (R65): 1 to 4, and the walk, which a destroyed ancestor fails
(R68). -/
def State.recheck (s : State) (i : Issuer) (h : Word) (op : Nat) : Option Verdict :=
  match s.checkHandle i h false with
  | .error v => some v
  | .ok e => match opCheck e op with
    | some v => some v
    | none => s.walkCheck e

/-! ### Counted uses -/

/-- Record an event of the key tree (Table 2.25). -/
def State.logKey (s : State) (code : Nat) (sev : BitVec 2) (h : Word) (arg1 arg2 : Nat) : State :=
  s.logEvent 3 6 code sev h.toNat arg1 arg2

/-- RES of an owner (R46). -/
def Owner.res (o : Owner) : Nat := 2 ^ o.resLog2.toNat

/-- The ceiling of an entry under its owner's EPOCH (R75). -/
def ceiling (o : Owner) (e : Handle) : Nat := (e.ceilBase.toNat + o.res * o.epoch.toNat) % 2 ^ 48

/-- The CEIL_BASE with which the ceiling equals `c` (R75). -/
def ceilBaseFor (o : Owner) (c : Nat) : BitVec 48 :=
  BitVec.ofInt 48 ((c : Int) - (o.res * o.epoch.toNat : Nat))

/-- The first KEY_EXHAUSTED of a handle is recorded (Table 2.25). -/
def State.noteExhausted (s : State) (h : Word) : State :=
  if s.keys.exhausted.contains h then s
  else
    let s := { s with keys := { s.keys with exhausted := s.keys.exhausted ++ [h] } }
    s.logKey 13 sevNotice h (verdict St.keyExhausted 0).arg (s.entry (hIndex h)).useCount.toNat

/-- Take `n` counted uses of a node whose checks have passed (R58, R59, R75): EPOCH advances before the ceiling is
reached, the window pays, the count rises. The answer is whether the half limit was reached. -/
def State.takeUses (s : State) (i : Issuer) (h : Word) (n : Nat) : State × Bool :=
  let ix := hIndex h
  let e := s.entry ix
  let s := if e.quorum then s.admitUse (s.admitting e.owner.toNat 0 i (s.family h e) false) else s
  let o := s.owner e.owner.toNat
  let after := e.useCount.toNat + n
  let s :=
    if ceiling o e ≤ after then
      ((s.setOwner e.owner.toNat { o with epoch := o.epoch + 1 }).raise intKt 2).logKey 11 sevNotice h 0
        (o.epoch.toNat + 1)
    else s
  let s := s.setEntry ix { e with useCount := BitVec.ofNat 48 after }
  match limitOf e.useLimit with
  | none => (s, false)
  | some l =>
    let half := (l + 1) / 2
    if e.useCount.toNat < half ∧ half ≤ after then
      (((s.raise intKt 1).setReg 0x0600D0 h).logKey 12 sevNotice h 0 after, true)
    else (s, false)

/-! ### Derivation (R49 to R52) -/

/-- PRF of R49. -/
def kdfBlock (kp : Bytes) (label : DWord) (context : Bytes) (l i : Nat) : Bytes :=
  kmac256 kp (beNat 4 i ++ be 8 label ++ [0#8] ++ context ++ beNat 4 l) (ascii "SH6496 KT") 32

/-- K(1) ‖ … ‖ K(n) of R49 for L bits. -/
def kdfRaw (kp : Bytes) (label : DWord) (context : Bytes) (l : Nat) : Bytes :=
  (List.range ((l + 255) / 256)).flatMap fun i => kdfBlock kp label context l (i + 1)

/-- The derived value of R49 for L a whole number of octets. -/
def kdf (kp : Bytes) (label : DWord) (context : Bytes) (l : Nat) : Bytes := (kdfRaw kp label context l).take (l / 8)

/-- Context of Table 2.2. -/
def kdfContext (owner type : Byte) (depth : Nat) (mark : Byte) (gen : Word) : Bytes :=
  [owner, type, BitVec.ofNat 8 depth, mark] ++ be 4 gen

/-- Octets of a private key of an ECDSA type. -/
def curveBytes (t : Byte) : Nat := if t = 0x20 then 32 else if t = 0x21 then 48 else 66

/-- Octets of an RSA modulus by type. -/
def rsaBytes (t : Byte) : Nat := if t = 0x30 then 256 else if t = 0x31 then 384 else if t = 0x32 then 512 else 1024

/-- The key formed from K(1) ‖ … ‖ K(n) (Table 2.3, R52). An ECDSA key is d, most significant octet first; an RSA
key is p, q, dP, dQ and qInv. -/
def formKey (t : Byte) (l : Nat) (raw : Bytes) : Bytes :=
  if t = 0x20 ∨ t = 0x21 ∨ t = 0x22 then
    let c := ofBE raw / 2 ^ (8 * raw.length - l)
    beNat (curveBytes t) (c % ((curveOf t).n - 1) + 1)
  else if isRsa t then rsaGenerate (rsaBytes t) (raw.take 32)
  else raw.take (l / 8)

/-- A root's 32 octets (R45). -/
def State.root (s : State) (r : Nat) : Bytes := sparseGet (zeros 32) s.trivet.roots r

/-- The octets K(1) ‖ … that a node's key is formed from. -/
def deriveRaw (kp : Bytes) (e : Handle) : Bytes :=
  let l := match typeInfo e.type with | some t => t.bits | none => 256
  kdfRaw kp e.label (kdfContext e.owner e.type e.depth.toNat 0 e.generation) l

/-- The secret of a node, or of its check key (R50, R76), from its parent's. -/
def deriveNode (kp : Bytes) (e : Handle) (check : Bool) : Bytes :=
  let l := match typeInfo e.type with | some t => t.bits | none => 256
  if check then kdf kp e.label (kdfContext e.owner 0x7F e.depth.toNat 0 e.generation) 256
  else formKey e.type l (deriveRaw kp e)

/-- Derive down a path of entries from a secret, the farthest ancestor last in the list. -/
def derivePath (from_ : Bytes) (path : List (Word × Handle)) : Bytes :=
  path.foldr (fun e kp => deriveNode kp e.2 false) from_

/-- The root secret under which a node's path begins. -/
def State.rootSecret (s : State) (e : Handle) (anc : List (Word × Handle)) : Bytes :=
  let top := (anc.getLast?.map Prod.snd).getD e
  s.root (top.parent.extractLsb 9 0).toNat

/-- A node's secret derived afresh from its root; none if its walk meets an ancestor that is not VALID (R64). -/
def State.deriveFresh (s : State) (e : Handle) (check : Bool) : Option Bytes :=
  let w := s.ancestry e
  if w.2 then some (deriveNode (derivePath (s.rootSecret e w.1) w.1) e check) else none

/-- The 32 octets that an RSA node's primes are generated from (R52). -/
def State.primeSeed (s : State) (e : Handle) : Bytes :=
  let w := (s.ancestry e).1
  (deriveRaw (derivePath (s.rootSecret e w) w) e).take 32

/-! ### The derived-key cache (R70, R71) -/

/-- The partition of a slice. -/
def State.partition (s : State) (n : Nat) : Partition := sparseGet Partition.empty s.keys.cache n

/-- Replace a partition. -/
def State.setPartition (s : State) (n : Nat) (p : Partition) : State :=
  { s with keys := { s.keys with cache := sparseSet Partition.empty s.keys.cache n p } }

/-- Entries occupied, and entries pinned. -/
def Partition.used (p : Partition) : Nat := (p.lines.map CacheLine.entries).sum
def Partition.pinned (p : Partition) : Nat := ((p.lines.filter CacheLine.pinned).map CacheLine.entries).sum

/-- Drop least-recently-used unpinned lines until at most `room` entries are in use. The list has the oldest first. -/
def evict (room : Nat) : List CacheLine → List CacheLine
  | [] => []
  | l :: ls =>
    if ((l :: ls).map CacheLine.entries).sum ≤ room then l :: ls
    else if l.pinned then l :: evict (room - l.entries) ls
    else evict room ls

/-- Keccak calls of one K(i): the key load of KMAC256 and its input block (R49, R82). -/
abbrev kdfCalls : Nat := 2

/-- Place a line at the front of a partition, evicting for it (R70): 1,024 entries in all, 768 of them pinned. -/
def Partition.place (p : Partition) (l : CacheLine) : Partition :=
  let l := if l.pinned && decide (768 < p.pinned + l.entries) then { l with pinned := false } else l
  { p with lines := l :: (evict (1024 - l.entries) p.lines.reverse).reverse }

/-- A line of a node. -/
def Partition.find (p : Partition) (i : Nat) (check : Bool) : Option CacheLine :=
  p.lines.find? fun l => l.index.toNat == i && l.check == check

/-- Move a line to the front. -/
def Partition.touch (p : Partition) (i : Nat) (check : Bool) : Partition :=
  { p with lines := (p.lines.filter fun l => l.index.toNat == i && l.check == check) ++
      (p.lines.filter fun l => !(l.index.toNat == i && l.check == check)) }

/-- The line of a node's secret. -/
def lineOf (i : Nat) (e : Handle) (check : Bool) (secret : Bytes) : CacheLine :=
  { index := BitVec.ofNat 20 i, owner := e.owner, check := check,
    entries := if check then 1 else (match typeInfo e.type with | some t => t.entries | none => 1),
    pinned := e.pin && !check, secret := secret }

/-- Place the secrets of a path of ancestors, the farthest first; `kp` is the secret above them (R70). -/
def placePath (p : Partition) (kp : Bytes) : List (Word × Handle) → Partition × Bytes
  | [] => (p, kp)
  | e :: es =>
    let r := placePath p kp es
    let sec := deriveNode r.2 e.2 false
    (r.1.place { lineOf (hIndex e.1) e.2 false sec with pinned := false }, sec)

/-- The ancestors below the nearest one that a partition holds, with that one's secret; or all of them, with the
root's. -/
def nearest (p : Partition) (root : Bytes) : List (Word × Handle) → List (Word × Handle) × Bytes
  | [] => ([], root)
  | e :: es =>
    match p.find (hIndex e.1) false with
    | some l => ([], l.secret)
    | none =>
      let r := nearest p root es
      (e :: r.1, r.2)

/-- The ancestor that a partition holds nearest above a path is used too: it moves to the front. -/
def Partition.touchNearest (p : Partition) (path : List (Word × Handle)) : Partition :=
  match path.find? fun e => (p.find (hIndex e.1) false).isSome with
  | some e => p.touch (hIndex e.1) false
  | none => p

/-- Set or clear the pin of a node's lines in a partition: its secret's, not its check key's, which is another node's. -/
def Partition.setPin (p : Partition) (i : Nat) (pin : Bool) : Partition :=
  { p with lines := p.lines.map fun l => if l.index.toNat == i && !l.check then { l with pinned := pin } else l }

/-- Entries that pinning a node would take beyond those it holds pinned, with those of the partition (R70). -/
def Partition.pinnedWith (p : Partition) (i : Nat) (e : Handle) : Nat :=
  let own := ((p.lines.filter fun l => l.index.toNat == i && !l.check && l.pinned).map CacheLine.entries).sum
  p.pinned - own + (match typeInfo e.type with | some t => t.entries | none => 1)

/-- Calls that deriving a node and the ancestors of a path takes. -/
def deriveCalls (path : List (Word × Handle)) (e : Handle) (check : Bool) : Nat :=
  let blocks (t : Byte) : Nat := match typeInfo t with | some i => (i.bits + 255) / 256 | none => 1
  kdfCalls * ((path.map fun a => blocks a.2.type).sum + (if check then 1 else blocks e.type))

/-- A market of a slice holds a tree slot with a stamp key, whose line is therefore pinned (R217). -/
def State.marketPins (s : State) (x : BitVec 6) (i : Nat) : Bool :=
  s.mkt.table.any fun e => e.2.tree.isSome && e.2.slice.setWidth 6 == x &&
    (hIndex e.2.stampHandle == i || (e.2.nextStamp != 0 && hIndex e.2.nextStamp == i))

/-- Calls of the derivation steps that forming a node's secret for an issuer takes now: none where the slice's partition holds
it (R70, R71), or where the walk fails. -/
def State.keyCalls (s : State) (i : Issuer) (h : Word) (check : Bool) : Nat :=
  let e := s.entry (hIndex h)
  let w := s.ancestry e
  if !w.2 then 0
  else match i.slice? with
    | none => deriveCalls w.1 e check
    | some x =>
      let p := s.partition x.toNat
      if (p.find (hIndex h) check).isSome then 0 else deriveCalls (nearest p (s.rootSecret e w.1) w.1).1 e check

/-- A node's secret for an issuer: from the slice's partition, or derived into it (R70). H and S have no partition, so theirs is
derived afresh (assumption 10). None if the walk fails. The engine work of the steps is the caller's (R71). -/
def State.keySecret (s : State) (i : Issuer) (h : Word) (check : Bool) : Option Bytes × State :=
  let ix := hIndex h
  let e := s.entry ix
  match i.slice? with
  | none => (s.deriveFresh e check, s)
  | some x =>
    let p := s.partition x.toNat
    match p.find ix check with
    | some l => (some l.secret, s.setPartition x.toNat { p.touch ix check with hits := p.hits + 1 })
    | none =>
      let p := { p with misses := p.misses + 1 }
      let w := s.ancestry e
      if !w.2 then (none, s.setPartition x.toNat p)
      else
        let near := nearest p (s.rootSecret e w.1) w.1
        let r := placePath (p.touchNearest w.1) near.2 near.1
        let sec := deriveNode r.2 e check
        let l := lineOf ix e check sec
        let l := { l with pinned := l.pinned || (!check && s.marketPins x ix) }
        (some sec, s.setPartition x.toNat (r.1.place l))

/-- A secret that is formed within one command, for a stamp key or for the device itself: its steps are charged at once
(assumption 11). None while the key-path gate is CLOSED: no transfer starts (R395). -/
def State.keyNow (s : State) (i : Issuer) (h : Word) (check : Bool) : Option Bytes × State :=
  if s.tamper.gateClosed then (none, s) else
  let k := s.keySecret i h check
  (k.1, k.2.deriveWork i.slice? (s.keyCalls i h check))

/-- The partition holds the node's secret, or needs no prime generation to form it (R52). -/
def State.needsPrimes (s : State) (i : Issuer) (h : Word) : Bool :=
  isRsa (s.entry (hIndex h)).type &&
  (match i.slice? with
   | some x => ((s.partition x.toNat).find (hIndex h) false).isNone
   | none => true)

/-- Clear the lines that a test names, in the partitions that a test names. -/
def State.clearCache (s : State) (part : Nat → Bool) (line : CacheLine → Bool) : State :=
  let keep (n : Nat) (p : Partition) : Partition :=
    if part n then { p with lines := p.lines.filter fun l => !line l } else p
  { s with keys := { s.keys with cache := sparseMap Partition.empty keep s.keys.cache } }

/-- The stamp keys of the markets that hold a slot are in their partitions again, pinned (R217), as far as their walks
allow. -/
def State.repin (s : State) : State :=
  (s.mkt.table.filter fun e => e.2.tree.isSome).foldl
    (fun t e =>
      let x : BitVec 6 := e.2.slice.setWidth 6
      let one (t : State) (h : Word) : State :=
        if h = 0 ∨ ((t.partition x.toNat).find (hIndex h) false).isSome = true ∨ (t.lookup h).isNone = true then t
        else (t.keyNow (.slice x) h false).2
      one (one t e.2.stampHandle) e.2.nextStamp) s

/-- Clear an owner's lines everywhere (R71). A stamp key of the owner that a market still uses pays its derivation walk at
once, so that it stays pinned. -/
def State.clearOwnerCache (s : State) (o : Nat) : State :=
  (s.clearCache (fun _ => true) fun l => l.owner.toNat == o).repin

/-- A slice reset's effect on the key tree (R61, R71): its slice-scope nodes expire, its partition is cleared, its
counts return to zero. -/
def State.keySliceReset (s : State) (n : Nat) : State :=
  let hit (e : Handle) : Bool := e.live && e.scope == 1 && e.sliceMask == (1#64 <<< n)
  let gone := (s.keys.table.filter fun e => hit e.2).map Prod.fst
  let s := s.mapEntries fun _ e => if hit e then { e with flags := e.flags ||| 2 } else e
  let s := s.clearCache (fun _ => true) fun l => gone.contains l.index.toNat
  s.setPartition n Partition.empty

/-- KT_STS.FREE: FREE entries of the device. -/
def State.freeEntries (s : State) : Nat := 0x100000 - (s.keys.table.filter fun e => e.2.valid).length

/-- Free the entries of a sweep whose ancestry is broken (R68). -/
def State.sweepOwner (s : State) (w : Sweep) : State :=
  let t := s
  s.mapEntries fun i e =>
    if decide (w.lo ≤ i) && decide (i < w.hi) && e.valid && !(t.ancestry e).2 then e.freed else e

/-- Find the markets whose keys have become unusable (R221): a check of Table 2.7 fails for the market's slice, the walk
to the root meets an ancestor that is gone (R64), or a seal key has no use left. A stamp key's last uses are in a block
(R229). -/
def State.noteKeys (s : State) : State :=
  s.keyLost fun x op h => (s.recheck (.slice x) h op).isSome || (op == opSeal && limitReached (s.entry (hIndex h)))

end Sys2Proof.Machine
end

