-- ==== Sys2Proof/Machine/ColanderOps.lean ====
section
/-! DEFINITION. Colander's channels, its queue of requests and their service (R148 to R155). -/

namespace Sys2Proof.Machine

/-- A slice's channel. -/
def State.channel (s : State) (n : Nat) : Channel := sparseGet Channel.reset s.cld.channels n

/-- Replace a slice's channel. -/
def State.setChannel (s : State) (n : Nat) (c : Channel) : State :=
  { s with cld := { s.cld with channels := sparseSet Channel.reset s.cld.channels n c } }

/-- A request waits at Colander from now on. -/
def State.awaitFor (s : State) (w : Want) (job : Option Nat) (use : Option DevUse) : State :=
  { s with cld := { s.cld with waiting := s.cld.waiting ++ [{ want := w, since := s.now, job := job, use := use }] } }

/-- The same, for a job or for Colander's own needs. -/
def State.await (s : State) (w : Want) (job : Option Nat) : State := s.awaitFor w job none

/-- The personalisation string of a slice's DRBG (Table 5.3). -/
def State.personal (s : State) (n : Nat) : Bytes :=
  ascii "SH6496 SLC" ++ [BitVec.ofNat 8 n] ++ be 4 (s.slc n).se ++ zeros 33

/-- The reseed limit of Table 5.3 is reached: 4,096 requests or 1 ms. -/
def State.atLimit (s : State) (c : Channel) : Bool :=
  decide (4096 ≤ c.reqs.toNat) || decide (c.lastReseed + 1500000 ≤ s.now)

/-- Reseed, or instantiate, a slice's channel from a block (R151). `prov` names the open span of a provisional block. -/
def State.reseed (s : State) (n : Nat) (block : Bytes) (prov : Option (BitVec 4 × Nat)) : State :=
  let c := s.channel n
  let key :=
    if c.state = .uninst then drbgInstantiate (block.take 48) (s.personal n)
    else drbgUpdate c.key (block.take 48)
  s.setChannel n { c with
    state := .ready, key := key, reqs := 0, reseeds := c.reseeds + 1, lastReseed := s.now, prov := prov }

/-- One generate request of a slice's channel (R151): after 2,048 of them a background reseed is requested. -/
def State.generate (s : State) (n octets : Nat) : Bytes × State :=
  let c := s.channel n
  let g := drbgGenerate c.key octets
  let want := decide (2048 ≤ c.reqs.toNat + 1) && !c.reseedPend
  let s := s.setChannel n { c with
    key := g.2, reqs := c.reqs + 1, reseedPend := c.reseedPend || want }
  (g.1, if want then s.await (.slice (BitVec.ofNat 6 n) 0 false) none else s)

/-- The residue of a privileged channel (R149). -/
def State.residue (s : State) (ch : Priv) : Bytes :=
  ((s.cld.residues.find? fun e => e.1 == ch).map Prod.snd).getD []

/-- Replace the residue of a privileged channel. -/
def State.setResidue (s : State) (ch : Priv) (bs : Bytes) : State :=
  let rest := s.cld.residues.filter fun e => e.1 != ch
  { s with cld := { s.cld with residues := if bs = [] then rest else rest ++ [(ch, bs)] } }

/-- A request waits for a privileged channel. -/
def Request.waitsFor (r : Request) (ch : Priv) : Bool := match r.want with | .priv c _ _ => c == ch | _ => false

/-- What a draw meets on its arrival (R149, R151, R152, R154). -/
inductive Drawn where
  | got (bytes : Bytes) (s : State)
  | wait (s : State)
  | failed (v : Verdict)

/-- Make a draw, if it need not wait. A generate request of a READY channel below its reseed limit runs at once, whatever else
waits for the channel (Table 5.4). -/
def State.draw (s : State) (d : Draw) (job : Option Nat) : Drawn :=
  match d with
  | .priv ch n =>
    let r := s.residue ch
    if s.cld.ready && !(s.cld.waiting.any fun q => q.waitsFor ch) && decide (n < r.length) then .got (r.take n) (s.setResidue ch (r.drop n))
    else if n = 0 then .got [] s
    else .wait (s.await (.priv ch n []) job)
  | .slice x n fresh =>
    let c := s.channel x.toNat
    if c.state = .stopped then .failed (verdict St.entropyFail 0x52)
    else if !s.cld.ready || c.state != .ready || fresh || s.atLimit c then
      .wait (s.await (.slice x n fresh) job)
    else
      let r := s.generate x.toNat n
      .got r.1 r.2

/-- Class of a request (Table 5.2). -/
def Want.cls : Want → Nat
  | .mask _ => 1
  | .priv _ _ _ => 2
  | .slice _ _ _ => 3

/-- Service order of the privileged channels (R149). -/
def Priv.order : Priv → Nat
  | .key => 0
  | .draw => 1
  | .nonce => 2
  | .blind => 3

/-- Rank of a request: its class, then the rotation of its class, then its arrival. -/
def State.rank (s : State) (r : Request) : Nat :=
  match r.want with
  | .mask _ => 0
  | .priv ch _ _ => 100 + (ch.order + 3 - s.cld.lastPriv.order) % 4
  | .slice x _ _ => 200 + (x.toNat + 64 - s.cld.rot.toNat) % 64

/-- A request may be served at all: before READY only seeds and instantiations are (R154, R155), and no seed of a draw
while log hold is in force (R158). -/
def State.servable (s : State) (r : Request) : Bool :=
  match r.want with
  | .mask _ => true
  | .priv ch _ _ => s.cld.ready && !(s.stk.hold && ch == .draw)
  | .slice _ n _ => s.cld.ready || (n == 0 && r.job.isNone)

/-- The first of the servable requests in the order of R149. -/
def State.nextRequest (s : State) : Option Request :=
  (s.cld.waiting.filter s.servable).foldl (fun m r =>
    match m with
    | none => some r
    | some q => if s.rank r < s.rank q then some r else some q) none

/-- Take the oldest verified block. -/
def State.takeVerified (s : State) : Option (Bytes × State) :=
  match s.cld.verified with
  | [] => none
  | b :: bs => some (b, { s with cld := { s.cld with verified := bs } })

/-- Replace a group. -/
def State.setGroup (s : State) (g : Nat) (x : Group) : State :=
  { s with cld := { s.cld with groups := sparseSet Group.reset s.cld.groups g x } }

/-- A group. -/
def State.group (s : State) (g : Nat) : Group := sparseGet Group.reset s.cld.groups g

/-- A raw block that its RUNNING group has delivered in its open span makes a provisional block that nobody has taken. -/
def State.provisional (s : State) (g : BitVec 4) (raw : Bytes) : Bool :=
  let x := s.group g.toNat
  x.state == .running && decide (x.blocks.length < 16) && !x.blocks.contains (sha3_512 raw)

/-- Take a provisional block, conditioned from a raw block of an open span: it is consumed (R147, R148). -/
def State.takeProvisional (s : State) (p : Option (BitVec 4 × Bytes)) : Option (Bytes × (BitVec 4 × Nat) × State) :=
  match p with
  | none => none
  | some (g, raw) =>
    if !s.provisional g raw then none
    else
      let x := s.group g.toNat
      let b := sha3_512 raw
      let t := s.setGroup g.toNat { x with blocks := x.blocks ++ [b] }
      some (b, (g, x.span), { t with cld := { t.cld with blocks := t.cld.blocks + 1 } })

/-- A job's request has been met: the job, the octets. -/
abbrev Served := Option (Nat × Bytes)

/-- Drop the first waiting request equal to one. -/
def State.dropRequest (s : State) (r : Request) : State :=
  { s with cld := { s.cld with waiting := s.cld.waiting.erase r } }

/-- A request of a slice's channel needs no reseed first. -/
def State.runsOn (s : State) (x : BitVec 6) (n : Nat) (fresh : Bool) : Bool :=
  let c := s.channel x.toNat
  c.state == .ready && !fresh && !s.atLimit c && n != 0

/-- The reseed before a request of a slice's channel takes a verified block: an instantiation, prediction resistance. -/
def State.needsVerified (s : State) (x : BitVec 6) (fresh : Bool) : Bool :=
  fresh || (s.channel x.toNat).state == .uninst

/-- A request of a slice's channel can be met: from its DRBG, a verified block or a provisional one (R150). -/
def State.suits (s : State) (raw : Option (BitVec 4 × Bytes)) (r : Request) : Bool :=
  match r.want with
  | .slice x n fresh =>
    s.runsOn x n fresh ||
    (if s.needsVerified x fresh then !s.cld.verified.isEmpty
     else decide (32 < s.cld.verified.length) ||
       (match raw with | some p => s.provisional p.1 p.2 | none => false))
  | _ => false

/-- The oldest servable request of a slice's channel that can be met: a request that a reseed without prediction resistance
serves does not wait for a verified block behind one that needs it (R150). -/
def State.sliceHead (s : State) (raw : Option (BitVec 4 × Bytes)) (x : BitVec 6) : Option Request :=
  (s.cld.waiting.filter s.servable).find? fun r =>
    (match r.want with | .slice y _ _ => y == x | _ => false) && s.suits raw r

/-- A request that takes no block: the first of its privileged channel, for fewer octets than the residue holds (R149); or one
that runs from the state of its slice's DRBG (Table 5.4). -/
def State.needsNoBlock (s : State) (r : Request) : Bool :=
  match r.want with
  | .priv ch n got =>
    got == [] && decide (n < (s.residue ch).length) && (s.cld.waiting.filter s.servable).find? (fun q => q.waitsFor ch) == some r
  | .slice x n fresh => s.runsOn x n fresh
  | .mask _ => false

/-- The request that Colander serves next: one that takes no block; the first of a higher class; else, in rotated slice order,
the first that can be met (R149, R150). -/
def State.chosenRequest (s : State) (raw : Option (BitVec 4 × Bytes)) : Option Request :=
  match (s.cld.waiting.filter s.servable).find? s.needsNoBlock with
  | some r => some r
  | none =>
    match s.nextRequest with
    | none => none
    | some r =>
      if r.want.cls < 3 then some r
      else (List.range 64).findSome? fun i => s.sliceHead raw (BitVec.ofNat 6 (s.cld.rot.toNat + i))

/-- A request of the device itself has been met: Kboot stands, any other octets wait for their use. -/
def State.giveDevice (s : State) (u : DevUse) (bs : Bytes) : State :=
  match u with
  | .kboot => { s with eng := { s.eng with kboot := some bs } }
  | _ => { s with cld := { s.cld with served := s.cld.served ++ [(u, bs)] } }

/-- A request of a privileged channel takes a block (R149): it is met, or waits for its next one. -/
def State.servePriv (s : State) (r : Request) (ch : Priv) (n : Nat) (got b : Bytes) : State × Served :=
  let s := { s with cld := { s.cld with lastPriv := ch } }
  let all := got ++ s.residue ch ++ b
  if n ≤ all.length then
    let s := (s.dropRequest r).setResidue ch (all.drop n)
    (match r.use with | some u => s.giveDevice u (all.take n) | none => s, r.job.map fun j => (j, all.take n))
  else
    let q : Request := { r with want := .priv ch n all }
    let w := s.cld.waiting.map fun x => if x = r then q else x
    ({ s with cld := { s.cld with waiting := w } }.setResidue ch [], none)

/-- A request of a privileged channel is met from its residue alone (R149). -/
def State.serveResidue (s : State) (r : Request) (ch : Priv) (n : Nat) : State × Served :=
  let all := s.residue ch
  let s := (s.dropRequest r).setResidue ch (all.drop n)
  (match r.use with | some u => s.giveDevice u (all.take n) | none => s, r.job.map fun j => (j, all.take n))

/-- A request of a slice's channel is met, after the reseed that it needs (R150, R151). A background reseed is pending until it
is made (Table 5.16). -/
def State.serveSlice (s : State) (raw : Option (BitVec 4 × Bytes)) (r : Request) (x : BitVec 6) (n : Nat) (fresh : Bool) :
    State × Served :=
  let give (t : State) : State × Served :=
    let t := t.dropRequest r
    if n = 0 then (t.setChannel x.toNat { t.channel x.toNat with reseedPend := false }, none)
    else
      let g := t.generate x.toNat n
      (g.2, r.job.map fun j => (j, g.1))
  if s.runsOn x n fresh then give s
  else
    let fromVerified := s.needsVerified x fresh || decide (32 < s.cld.verified.length)
    match (if fromVerified then s.takeVerified else none) with
    | some (b, t) => give (t.reseed x.toNat b none)
    | none =>
      if s.needsVerified x fresh then (s, none)
      else match s.takeProvisional raw with
        | none => (s, none)
        | some (b, p, t) => give (t.reseed x.toNat b (some p))

/-- Serve the next request a block (R149, R150). The answer says which job drew what. Nothing happens when no request
can be served, or no block suits it. `raw` is a raw block of an open span that may serve as a provisional block. -/
def State.serveOne (s : State) (raw : Option (BitVec 4 × Bytes)) : State × Served :=
  match s.chosenRequest raw with
  | none => (s, none)
  | some r =>
    match r.want with
    | .mask n =>
      match s.takeVerified with
      | none => (s, none)
      | some (b, t) =>
        ((t.dropRequest r).setEngine .cipher n.toNat { t.engine .cipher n.toNat with seedIn := some b }, none)
    | .priv ch n got =>
      if s.needsNoBlock r then s.serveResidue r ch n
      else match s.takeVerified with
        | none => (s, none)
        | some (b, t) => t.servePriv r ch n got b
    | .slice x n fresh => s.serveSlice raw r x n fresh

/-- A draw of the device's own on a privileged channel (R149): the octets that it was given, or that its channel's residue
covers; else it waits at Colander as a job's draw does. None: it has no octets yet. -/
def State.deviceDraw (s : State) (u : DevUse) (ch : Priv) (n : Nat) : Option Bytes × State :=
  match s.cld.served.find? fun e => e.1 == u && e.2.length == n with
  | some e => (some e.2, { s with cld := { s.cld with served := s.cld.served.filter fun x => x.1 != u } })
  | none =>
    let r := s.residue ch
    if n = 0 then (some [], s)
    else if s.cld.waiting.any fun q => q.use == some u && (match q.want with | .priv _ m _ => m == n | _ => false) then
      (none, s)
    else if s.cld.ready && !(s.cld.waiting.any fun q => q.waitsFor ch) && decide (n < r.length) then
      (some (r.take n), s.setResidue ch (r.drop n))
    else (none, s.awaitFor (.priv ch n []) none (some u))

/-- Every job request that waits fails (R152, R154): the jobs, with those requests gone. -/
def State.dropRequests (s : State) (p : Request → Bool) : State × List Nat :=
  let hit := s.cld.waiting.filter p
  ({ s with cld := { s.cld with waiting := s.cld.waiting.filter fun r => !p r } }, hit.filterMap Request.job)

end Sys2Proof.Machine
end

