-- ==== Sys2Proof/Machine/JobBase.lean ====
section
/-! DEFINITION. The job table, the engines, the memory that jobs reach, and the end of a job (R84, R164, R281, R334,
R342 to R350). -/

namespace Sys2Proof.Machine

/-! ### Issuer, slice and Strainer attributes -/

/-- The level of an issuer. A slice's ring issues at N. -/
def Issuer.level : Issuer → Level
  | .slice _ => .n
  | .n _ => .n
  | .h => .h
  | .s => .s

/-- The slice a submission is charged to, and whose Ladle halves space 0 names (R258). -/
def Submission.slice? (u : Submission) : Option (BitVec 6) :=
  match u.issuer.slice? with
  | some x => some x
  | none => u.charge

/-- The requester attributes of a job (Table 12.2). -/
def Submission.attr (u : Submission) : ReqAttr :=
  { origin := .engine, level := u.issuer.level, slice := u.slice?, bind := none }

/-- OPCODE of a job block. -/
def Submission.op (u : Submission) : Byte := octet 0 u.block

/-- A little-endian field of a job block. -/
def Submission.field (u : Submission) (w off n : Nat) : BitVec w := fieldLE w off n u.block

/-- The same field as a number. -/
def Submission.nat (u : Submission) (off n : Nat) : Nat := ofLE (slice off n u.block)

/-- Octets that the source delivers (R331). -/
def Submission.delivered (u : Submission) : Nat := (u.source.map fun f => f.len.toNat).sum

/-- OPCODE is one of a digest, cipher or big-number job. -/
def isDigestOp (op : Byte) : Bool := 0x40 ≤ op && op ≤ 0x46
def isCipherOp (op : Byte) : Bool := 0x50 ≤ op && op ≤ 0x55
def isBnOp (op : Byte) : Bool := 0x60 ≤ op && op ≤ 0x66

/-- The class whose engines run an opcode. -/
def opClass (op : Byte) : EngClass := if isCipherOp op then .cipher else if isBnOp op then .bn else .pool

/-- An opcode that no engine runs: key-tree commands, RANDOM and DRAW. -/
def engineless (op : Byte) : Bool := !(isDigestOp op || isCipherOp op || isBnOp op)

/-! ### The job table -/

/-- A job by its number. -/
def State.job (s : State) (id : Nat) : Option Job := s.eng.jobs.find? fun j => j.id == id

/-- Replace a job in its place. -/
def State.setJob (s : State) (j : Job) : State :=
  { s with eng := { s.eng with jobs := s.eng.jobs.map fun x => if x.id = j.id then j else x } }

/-- A job stands in the queue of its home engine: a big-number job leaves it when its first run starts. -/
def Job.inQueue (j : Job) (c : EngClass) (n : Nat) : Bool :=
  j.cls == c && j.home == n && j.stage == .queued && j.run1.isNone

/-- Entries of the queue of an engine (R165). -/
def State.queueLen (s : State) (c : EngClass) (n : Nat) : Nat := (s.eng.jobs.filter fun j => j.inQueue c n).length

/-- The home engine of a job (R165): of the four home engines, those not online replaced by the next above, the one
whose queue holds the fewest jobs. -/
def State.homeEngine (s : State) (c : EngClass) (x : Nat) : Nat :=
  let e := c.size
  let home (i : Nat) : Nat :=
    let h := (x * e / 64 + i) % e
    ((List.range e).map (fun k => (h + k) % e)).find? (fun n => s.online c n) |>.getD h
  let cands := (List.range 4).map home
  cands.foldl (fun m n =>
    if s.queueLen c n < s.queueLen c m ∨ (s.queueLen c n = s.queueLen c m ∧ n < m) then n else m) (home 0)

/-- All the home queues of a slice in a class are full, so the issuer's fetch waits (R165). -/
def State.homeFull (s : State) (c : EngClass) (x : Nat) : Bool := decide (256 ≤ s.queueLen c (s.homeEngine c x))

/-- The job that a submission makes, not yet checked. -/
def newJob (id : Nat) (u : Submission) : Job :=
  { id := id, sub := { u with reach := none, old := false }, cls := opClass u.op, stage := .blocked, home := 0, draws := [], rand := [], aux := [], pos := 0,
    started := false, half := false, key := [], key2 := [], payload := [], output := [], result := 0, run1 := none,
    run2 := none, excluded := [], reruns := 0, openRange := none, deriveLeft := 0, derived := false, primes := false, primed := false, front := false,
    headed := false, seal_ := none, dev := none, hashing := 0, passes := [], expect := [], ending := none }

/-- Add a job, blocked until it may start. -/
def State.addJob (s : State) (u : Submission) : State :=
  { s with eng := { s.eng with jobs := s.eng.jobs ++ [newJob s.eng.nextJob u], nextJob := s.eng.nextJob + 1 } }

/-! ### Digest slots -/

/-- The slot that a digest job names (R87). -/
def Submission.slotNo (u : Submission) : Nat := u.nat 2 2 / 16 % 16

/-- Key of a slot: a slice's, H's or S's (R87). -/
def Submission.slotKey (u : Submission) : Nat :=
  match u.issuer with
  | .slice x => x.toNat * 16 + u.slotNo
  | .n x => x.toNat * 16 + u.slotNo
  | .h => 1024 + u.slotNo
  | .s => 1040 + u.slotNo

/-- A digest slot. -/
def State.slot (s : State) (k : Nat) : Slot := sparseGet Slot.empty s.eng.slots k

/-- Replace a digest slot. -/
def State.setSlot (s : State) (k : Nat) (x : Slot) : State :=
  { s with eng := { s.eng with slots := sparseSet Slot.empty s.eng.slots k x } }

/-! ### What a job reads and writes -/

/-- Octets of the write part and of the read part of a slice's Ladle (R334). -/
def Slice.writePart (x : Slice) : Nat := 0x4000 * x.split.toNat
def Slice.readPart (x : Slice) : Nat := 0x40000 - x.writePart

/-- An admission holds a slice's write half (R336). -/
def State.admissionHolds (s : State) (n : Nat) : Bool :=
  match s.worlds.admission with
  | some a => a.carrier.toNat == n
  | none => false

/-- Whether a range of a Ladle half lies in its backed part (R334, R336). -/
def State.ladleRange (s : State) (slice : Option (BitVec 6)) (write : Bool) (off len : Nat) : Option Verdict :=
  match slice with
  | none => some (verdict St.ladleRange 0)
  | some x =>
    let c := s.slc x.toNat
    if !write && s.admissionHolds x.toNat then some (verdict St.ladleRange 0x96)
    else if (if write then c.readPart else c.writePart) < off + len then some (verdict St.ladleRange 0)
    else none

/-- The context that posted a job, and the map its space-2 addresses go through (R259): the map of its own level, which
a gate call holds in its frame. -/
def State.jobMap (s : State) (u : Submission) : Option (Context × List MapSeg) :=
  match u.origin with
  | .queue c _ _ =>
    let x := s.ctx c.toNat
    some (x, match x.gate with
      | some f => if f.level = u.issuer.level then f.map else x.map
      | none => x.map)
  | _ => none

/-- The translation of a range of space 2 with the maps now in force: none if it leaves its stage-1 segment or a byte of it does
not translate (R259). -/
def State.reachOf (s : State) (u : Submission) (write : Bool) (va len : Nat) : Option (List Reach) :=
  match s.jobMap u with
  | some x =>
    if len = 0 then some []
    else if segOf x.2 va == segOf x.2 (va + len - 1) then
      s.reachFrom u.issuer.level x.1.slice x.2 write (len / pageSize + 2) va len
    else none
  | none => none

/-- What a job translated at its start holds an address (R259): the physical address, and the octets from there that lie in the
same piece of the translation. -/
def Submission.reachAt (u : Submission) (write : Bool) (va : Nat) : Option (Nat × Nat) :=
  ((u.reach.getD []).find? fun x => x.write == write && decide (x.va ≤ va) && decide (va < x.va + x.len)).map fun x =>
    (x.pa + (va - x.va), x.va + x.len - va)

/-- The physical address of a byte of space 2 of a job (R259). -/
def Submission.phys (u : Submission) (write : Bool) (va : Nat) : Option Nat := (u.reachAt write va).map Prod.fst

/-- The physical pieces of a range of space 2, as far as the job translated it. -/
def Submission.pieces (u : Submission) (write : Bool) : Nat → Nat → Nat → List (Nat × Nat)
  | 0, _, _ => []
  | fuel + 1, va, len =>
    if len = 0 then []
    else match u.reachAt write va with
      | none => []
      | some x =>
        let n := min len x.2
        (x.1, n) :: u.pieces write fuel (va + n) (len - n)

/-- The baseline gives a job a byte of recipe memory (R281, R345). -/
def State.jobBase (s : State) (u : Submission) (p : Nat) : Bool := s.mayReach u.issuer.level p

/-- The first refusal of a job's access (R346, R350), under the epoch that its segment took (R353): none where Strainer does not
check. Space 2 is checked where it lies physically. -/
def State.jobRefusal (s : State) (u : Submission) (write : Bool) (space addr len : Nat) :
    Option (Nat × StrRefusal) :=
  let need : BitVec 3 := if write then permW else permR
  if space = 0 then
    match u.slice? with
    | none => none
    | some x =>
      s.str.firstRefusal u.old u.attr true need
        (0x20000000 + x.toNat * 0x100000 + addr + (if write then 0x80000 else 0)) len
  else if space = 2 then
    (u.pieces write len addr len).findSome? fun p => s.str.firstRefusal u.old u.attr (s.jobBase u p.1) need p.1 p.2
  else none

/-- The octets that a job reads from a range (the caller has checked it). -/
def State.jobRead (s : State) (u : Submission) (space addr len : Nat) : Bytes :=
  if space = 0 then
    match u.slice? with
    | some x => memRead (s.slc x.toNat).wbuf addr len
    | none => zeros len
  else (List.range len).map fun i =>
    match u.phys false (addr + i) with
    | some p => memByte s.worlds.recipe p
    | none => 0

/-- The source of a job in order: Ladle and recipe octets as they stand, host octets as delivered (R312, R329). -/
def State.sourceBytes (s : State) (u : Submission) : List Fragment → Bytes → Bytes
  | [], _ => []
  | f :: fs, host =>
    if f.space = 1 then fit f.len.toNat host ++ s.sourceBytes u fs (host.drop f.len.toNat)
    else s.jobRead u f.space.toNat f.addr.toNat f.len.toNat ++ s.sourceBytes u fs host

/-- The pieces of a job's source that cover octets [lo, hi): space, address, length. -/
def sourceRange : List Fragment → Nat → Nat → List (Nat × Nat × Nat)
  | [], _, _ => []
  | f :: fs, lo, hi =>
    let n := f.len.toNat
    let a := min lo n
    let b := min hi n
    (if a < b then [(f.space.toNat, f.addr.toNat + a, b - a)] else []) ++ sourceRange fs (lo - n) (hi - n)

/-- The first refusal of a job's reads of source octets [lo, hi). -/
def State.sourceRefusal (s : State) (u : Submission) (lo hi : Nat) : Option (Nat × StrRefusal) :=
  (sourceRange u.source lo hi).findSome? fun r => s.jobRefusal u false r.1 r.2.1 r.2.2

/-- Write a job's output octets where Strainer allows them (R350). -/
def State.jobWrite (s : State) (u : Submission) (space addr : Nat) (bs : Bytes) : State :=
  if bs = [] then s
  else if space = 1 then s.hostWrite u.slice? (s.originPasid u.origin) (BitVec.ofNat 64 addr) bs
  else if space = 0 then
    match u.slice? with
    | none => s
    | some x =>
      let c := s.slc x.toNat
      let put (m : Mem) (i : Nat × Byte) : Mem :=
        let a := 0x20000000 + x.toNat * 0x100000 + 0x80000 + addr + i.1
        if s.str.byteOk u.old u.attr true permW a then memSetByte m (addr + i.1) i.2 else m
      let m := ((List.range bs.length).zip bs).foldl put c.rbuf
      s.setSlc x.toNat { c with rbuf := m }
  else
    ((List.range bs.length).zip bs).foldl (fun t i =>
      match u.phys true (addr + i.1) with
      | some p => if t.str.byteOk u.old u.attr (t.jobBase u p) permW p then t.recipeWrite none p [i.2] else t
      | none => t) s

/-! ### The end of a job -/

/-- Free the context areas of a job. What they hold stays (R136). -/
def Engine.vacate (e : Engine) (id : Nat) : Engine :=
  { e with areas := e.areas.map fun a => if a = some id then none else a }

/-- An engine runs a segment or a chunk of a job. -/
def Engine.runs (e : Engine) (id : Nat) : Bool := match e.running with | some g => g.job == id | none => false

/-- Release what a job holds of the engines: its context areas, except where a chunk of it runs, which goes on to its end
(R115, R136, R138). -/
def State.releaseEngines (s : State) (id : Nat) : State :=
  let free (e : Engine) : Engine := if e.runs id then e else e.vacate id
  { s with eng := { s.eng with table := sparseMap Engine.reset (fun _ e => free e) s.eng.table } }

/-- A status that empties the slot of a job that has ended without its result (R90): length errors, quiesce, access faults,
and what ends a started job under R65. -/
def emptiesSlot (started : Bool) (v : Verdict) : Bool :=
  v.status == St.lengthShort || v.status == St.lengthLong || v.status == St.abortedQuiesce ||
  v.status == St.accessFault || (started && v.status != St.ok && v.status != St.malformed)

/-- Count and record what a big-number completion shows (R139, Tables 4.17 and 4.18). -/
def State.noteBn (s : State) (j : Job) (v : Verdict) : State :=
  let s := if 0x0301 ≤ v.status ∧ v.status ≤ 0x0307 then
      { s with eng := { s.eng with valErr := s.eng.valErr + 1 } } else s
  if v.status = St.redundancyFail then
    let e : Nat := match j.run1 with | some r => r.engine.toNat | none => 0
    let s := { s with eng := { s.eng with rfail := s.eng.rfail + 1 } }
    let s := (s.raise intBn 1).logEvent 4 9 2 sevAudit (engArg .bn e) v.arg 0
    if v.detail = 0x41 then s.raise intWsk 6 else s
  else s

/-- The handle that a job names: a digest job that goes on with a slot has the slot's. -/
def State.namedHandle (s : State) (u : Submission) : Word :=
  let x := s.slot u.slotKey
  if 0x40 ≤ u.op && u.op ≤ 0x42 && x.state != .empty && !(u.nat 2 2).testBit 0 then x.handle else u.field 32 4 4

/-- A KEY_EXHAUSTED that ends a job is recorded, the first of its handle (Table 2.25): of an XTS job, the handle whose limit
is reached. -/
def State.noteExhaustion (s : State) (u : Submission) (v : Verdict) : State :=
  if v.status != St.keyExhausted then s
  else
    let h := s.namedHandle u
    s.noteExhausted
      (if isCipherOp u.op && octet 1 u.block == 0x05 && !limitReached (s.entry (hIndex h)) then u.field 32 0x24 4 else h)

/-- The cipher engine's work on a share blob has ended: its turn, if it still waits, takes what it gave (R373, R382). -/
def State.shareWorked (s : State) (n id : Nat) (r : Option Bytes) : State :=
  let t := s.stn n
  match t.turn with
  | some u => if u.work = some id then s.setStn n { t with turn := some { u with work := none, result := some r } } else s
  | none => s

/-- A seal signature or the device's own work has ended: its result stands where its unit takes it up (R236, R373, R382, R423,
R433). -/
def State.ownEnded (s : State) (j : Job) (v : Verdict) (result : DWord) : State :=
  let s := match j.seal_ with
    | none => s
    | some x =>
      let d : SignedSeal := { market := x.1, sealSeq := x.2.1, pq := x.2.2, verdict := v, signature := j.output }
      { s with mkt := { s.mkt with signed := s.mkt.signed ++ [d] } }
  match j.dev with
  | none => s
  | some .stkSeal =>
    { s with stk := { s.stk with signed := some (if v.status = St.ok then some j.output else none) } }
  | some .regFrame => { s with aud := { s.aud with checked := some (v.status == St.ok && result == 1) } }
  | some (.share n) => s.shareWorked n.toNat j.id (if v.status = St.ok then some j.output else none)

/-- A slice that has no job queued in a class any more waits for no grant (R173). -/
def State.waitOver (s : State) (c : EngClass) (x : Option (BitVec 6)) : State :=
  match x with
  | none => s
  | some i =>
    if s.eng.jobs.any fun k => k.cls == c && k.stage == .queued && k.sub.slice? == x then s
    else s.setAccount c i.toNat { s.account c i.toNat with since := none }

/-- A job ends: it leaves the table and the engines, and its completion is written (R262, R332). A refused PROVE leaves no
response (R76). An UNWRAP that ends before its comparison has its range in the Ladle read half overwritten with zero: R101
releases nothing that has not been authenticated (assumption 96). -/
def State.finish (s : State) (id : Nat) (v : Verdict) (result : DWord) : State :=
  match s.job id with
  | none => s
  | some j =>
    let s := s.releaseEngines id
    let s := { s with eng := { s.eng with jobs := s.eng.jobs.filter fun x => x.id != id } }
    let s := s.waitOver j.cls j.sub.slice?
    let s := { s with cld := { s.cld with waiting := s.cld.waiting.filter fun r => r.job != some id } }
    let op := j.sub.op
    let s := s.noteExhaustion j.sub v
    let s := if op == 0x07 && (j.sub.origin == .regs || j.sub.issuer.slice?.isNone) && v.status != St.ok then s.setRegs 0x060120 (List.replicate 12 0) else s
    let s := if (0x40 ≤ op && op ≤ 0x42 && emptiesSlot j.started v) ||
        (op == 0x43 && (v.status == St.accessFault || v.status == St.abortedQuiesce)) then
      s.setSlot j.sub.slotKey Slot.empty else s
    let s := if isBnOp op || j.primes then s.noteBn j v else s
    let s := if op == 0x55 && j.started && v.status != St.ok && j.openRange.isSome then
      s.jobWrite j.sub 0 (j.sub.nat 0x18 8) (zeros (j.sub.nat 0x10 8 - 8)) else s
    let s := s.ownEnded j v result
    let s := match j.sub.origin with
      | .queue n q i =>
        let c := s.ctx n.toNat
        s.setCtx n.toNat { c with dcache := c.dcache.filter fun e => !(e.q == q && e.job == some i) }
      | _ => s
    s.complete j.sub.origin v j.half (if v.status = St.ok then result else if v.detail = 0x26 then result else 0)

/-- The verdict of a Strainer refusal of a job, recorded (R350, Table 12.9). -/
def State.strained (s : State) (u : Submission) (write : Bool) (r : Nat × StrRefusal) : State × Verdict :=
  (s.captureRefusal u.old u.attr (if write then permW else permR) r.1 r.2, ⟨St.accessFault, r.2.detail⟩)

end Sys2Proof.Machine
end

