-- ==== Sys2Proof/Machine/KeyCmds.lean ====
section
/-! DEFINITION. The key-tree commands (R66 to R76): their checks and their effects. -/

namespace Sys2Proof.Machine

/-! ### Modes (R442) -/

/-- Functions of Table 16.2 that a job or command may need. -/
inductive FnClass where
  | open_
  | keyUse
  | keyRead
  deriving DecidableEq, Repr

/-- The mode permits a function to an issuer (Table 16.2). The limits do not apply to S. -/
def State.modeAllows (s : State) (i : Issuer) (f : FnClass) : Bool :=
  i == .s ||
  match f, s.modes.mode with
  | _, .service => true
  | .open_, .commissioning => true
  | .open_, .recovery => true
  | .keyRead, .recovery => true
  | _, _ => false

/-- The refusal of R442. -/
abbrev modeRefusal : Verdict := verdict St.attrDenied 0xB1

/-! ### The command block (Table 2.8) -/

/-- Fields of a command block. -/
structure KtBlock where
  op : Byte
  type : Byte
  ops : Half
  handle : Word
  label : DWord
  mask : DWord
  limit : Half
  flags : Byte
  policy : Byte
  arg : Word
  rest : Bytes

/-- Read a command block; the last 16 octets of its frame are zero (R324). -/
def ktBlock (b : Bytes) : KtBlock :=
  { op := octet 0 b, type := octet 1 b, ops := fieldLE 16 2 2 b, handle := fieldLE 32 4 4 b,
    label := fieldLE 64 8 8 b, mask := fieldLE 64 0x10 8 b, limit := fieldLE 16 0x18 2 b, flags := octet 0x1A b,
    policy := octet 0x1B b, arg := fieldLE 32 0x1C 4 b, rest := slice 0x20 16 b }

/-- An opcode of Table 2.9. -/
def isKtOp (op : Byte) : Bool := (0x01 ≤ op && op ≤ 0x09) || (0x10 ≤ op && op ≤ 0x13)

/-- The issuers that Table 2.9 names. -/
def ktIssuer (op : Byte) (i : Issuer) : Bool :=
  if op = 0x08 ∨ op = 0x09 then i.slice?.isSome
  else if 0x10 ≤ op then i.slice?.isNone
  else true

/-- The function of Table 16.2 that an opcode is. -/
def ktFn (op : Byte) : FnClass :=
  if op = 0x06 ∨ op = 0x07 ∨ op = 0x10 ∨ op = 0x12 ∨ op = 0x13 then .keyRead else .keyUse

/-- A non-zero unused field or reserved bit of a command block (R66). -/
def ktReserved (b : KtBlock) (i : Issuer) : Bool :=
  let noNode := b.type != 0 || b.ops != 0 || b.mask != 0 || b.limit != 0 || b.flags != 0 || b.policy != 0
  let badFlags := b.flags &&& 0x83 != 0 || b.flags &&& 0x18 == 0x18
  let hs := i.slice?.isNone
  !allZero b.rest ||
  match b.op with
  | 0x01 => b.arg != 0 || badFlags || b.ops &&& 0xE000 != 0 || b.policy &&& 0xFE != 0 ||
      (b.flags.getLsbD 5 && b.handle &&& 0xFFFFFC00 != 0)
  | 0x02 => b.arg != 0 || badFlags || b.ops &&& 0xE000 != 0 || b.policy &&& 0xFE != 0 || b.label != 0 ||
      (b.flags.getLsbD 5 && b.handle &&& 0xFFFFFC00 != 0)
  | 0x03 => b.arg != 0 || noNode || b.label != 0
  | 0x04 => b.arg != 0 || b.type != 0 || b.label != 0 || b.policy != 0 || b.flags &&& 0xFB != 0 ||
      b.ops &&& 0xE000 != 0
  | 0x05 => b.arg != 0 || noNode || b.label != 0
  | 0x06 => noNode || b.label != 0 || (hs && b.arg != 0)
  | 0x07 => noNode || b.label != 0 || (hs && b.arg != 0)
  | 0x08 => b.arg != 0 || noNode || b.label != 0
  | 0x09 => b.arg != 0 || noNode || b.label != 0
  | 0x10 => b.type != 0 || b.ops != 0 || b.handle != 0 || b.limit != 0 || b.flags != 0 || b.policy != 0 ||
      b.arg &&& 0xFFFFFF00 != 0
  | 0x11 => b.type != 0 || b.ops != 0 || b.handle != 0 || b.limit != 0 || b.flags != 0 || b.policy != 0 || b.arg != 0
  | 0x12 => noNode || b.label != 0 || b.handle &&& 0xFFFFFF00 != 0
  | _ => noNode || b.label != 0 || b.handle != 0 || b.arg &&& 0xFFFFFF00 != 0

/-- The MALFORMED checks of a command block after the reserved ones, in the order of R51 and R57. -/
def ktMalformed (b : KtBlock) : Option Verdict :=
  if (b.op = 0x01 ∨ b.op = 0x02) ∧ (typeInfo b.type).isNone then some (verdict St.malformed 0x22)
  else if (b.op = 0x01 ∨ b.op = 0x02 ∨ b.op = 0x04) ∧ badLimit b.limit then some (verdict St.malformed 0x23)
  else none

/-- The Ladle range that QUERY and PROVE name (Table 2.9). -/
def State.ktLadle (s : State) (u : Submission) (b : KtBlock) : Option Verdict :=
  if u.issuer.slice?.isNone then none
  else if b.op = 0x06 then s.ladleRange u.slice? true b.arg.toNat 40
  else if b.op = 0x07 then
    match s.ladleRange u.slice? false b.arg.toNat 32 with
    | some v => some v
    | none => s.ladleRange u.slice? true b.arg.toNat 48
  else none

/-- The first four steps of R494 for a key-tree command. -/
def State.ktFormat (s : State) (u : Submission) : Option Verdict :=
  let b := ktBlock u.block
  if !isKtOp b.op then some (verdict St.malformed 0x20)
  else if !ktIssuer b.op u.issuer then some (verdict St.attrDenied 0x19)
  else if !s.modeAllows u.issuer (ktFn b.op) then some modeRefusal
  else if ktReserved b u.issuer then some (verdict St.malformed 0x21)
  else match ktMalformed b with
    | some v => some v
    | none => s.ktLadle u b

/-! ### New nodes (CREATE, GENERATE, NEXTGEN) -/

/-- What a new node's checks leave: its owner, its parent field, whether a window is needed and who pays, whether the
parent is a root. -/
structure NewNode where
  owner : Nat
  depth : Nat
  window : Option Nat
  needed : Bool
  root : Bool

/-- Types that allow an ephemeral import (POLICY, Table 2.4). -/
def importType (t : Byte) : Bool := (0x10 ≤ t && t ≤ 0x15)

/-- Exactly one bit set. -/
def oneBit (m : DWord) : Bool := m != 0 && (m &&& (m - 1)) == 0

/-- The owner can take one more node: BIRTH and the region (R53, R56). -/
def State.roomFor (s : State) (o : Nat) : Option Verdict :=
  let r := s.owner o
  if r.birth = 0xFFFFFFFF then some (verdict St.attrDenied 0x15)
  else if (s.allocIndex r).isNone then some (verdict St.attrDenied 0x14)
  else none

/-- The parent's checks of CREATE and GENERATE: Table 2.7, with R62's rule on parents as check 4. -/
def State.parentCheck (s : State) (i : Issuer) (b : KtBlock) : Except Verdict (NewNode × DWord × BitVec 2) :=
  if b.flags.getLsbD 5 then
    match s.rootOwner (b.handle.extractLsb 9 0).toNat with
    | none => .error (verdict St.handleInvalid 0)
    | some o =>
      match s.admitting o 1 i [] true with
      | none => .error (verdict St.quorumRequired 0)
      | some w => .ok (⟨o, 1, some w, true, true⟩, BitVec.allOnes 64, 0)
  else
    match s.checkHandle i b.handle false with
    | .error v => .error v
    | .ok e =>
      if e.type != 0x01 || !e.ops.getLsbD 0 then .error (verdict St.attrDenied 0x18)
      else
        match s.quorumCheck i b.handle e 1 with
        | some v => .error v
        | none =>
          let w := if e.quorum then s.admitting e.owner.toNat 1 i (s.family b.handle e) false else none
          .ok (⟨e.owner.toNat, e.depth.toNat + 1, w, e.quorum, false⟩, e.sliceMask, e.scope)

/-- All the handle checks of CREATE and GENERATE, in the order of the chapter's rules (R51, R55, R61, R62, R53, R56). -/
def State.createCheck (s : State) (i : Issuer) (b : KtBlock) : Except Verdict NewNode :=
  match s.parentCheck i b with
  | .error v => .error v
  | .ok (n, mask, scope) =>
    let sc : BitVec 2 := b.flags.extractLsb 4 3
    let allowed := match typeInfo b.type with | some t => t.ops | none => 0
    if b.ops &&& ~~~allowed != 0 then .error (verdict St.attrDenied 0x11)
    else if b.policy = 1 ∧ !importType b.type then .error (verdict St.attrDenied 0x30)
    else if sc = 1 ∧ (!oneBit b.mask ||
        (match i.slice? with | some x => b.mask != (1#64 <<< x.toNat) | none => false)) then
      .error (verdict St.attrDenied 0x1A)
    else if b.mask &&& ~~~mask != 0 ∨ scopeRank sc < scopeRank scope then .error (verdict St.attrDenied 0x12)
    else if 15 < n.depth then .error (verdict St.attrDenied 0x13)
    else match s.roomFor n.owner with
      | some v => .error v
      | none => .ok n

/-- The limit stored for a node (R60): at most 2^32 for an AES node that may ENCRYPT. -/
def storedLimit (type : Byte) (ops : Half) (l : Half) : Half :=
  let above : Bool := match limitOf l with | none => true | some n => decide (2 ^ 32 < n)
  if 0x10 ≤ type && type ≤ 0x12 && ops.getLsbD 1 && above then 0xF802 else l

/-- Allocate a node of an owner (R53, R54, R56, R75): BIRTH gives its generation, its index's tag advances, its ceiling
is RES. -/
def State.newEntry (s : State) (o : Nat) (e : Handle) : Word × State :=
  let r := s.owner o
  match s.allocIndex r with
  | none => (0, s)
  | some i =>
    let e := { e with
      owner := BitVec.ofNat 8 o, flags := (e.flags &&& 0x7C) ||| 1, tag := nextTag (s.entry i).tag,
      generation := r.birth, useCount := 0, ceilBase := ceilBaseFor r r.res }
    let s := (s.setOwner o { r with birth := r.birth + 1 }).setEntry i e
    let s := if r.birth = 0xFF000000 then s.raise intKt 4 else s
    (handleId i e, s)

/-- Severity of a record of Table 2.25. -/
def ktSev (audit : Bool) : BitVec 2 := if audit then sevAudit else sevNotice

/-- CREATE, or GENERATE with the label drawn. -/
def State.doCreate (s : State) (i : Issuer) (b : KtBlock) (label : DWord) : State × Verdict × DWord :=
  match s.createCheck i b with
  | .error v => (s, v, 0)
  | .ok n =>
    let s := s.admitUse n.window
    let r := s.newEntry n.owner
      { Handle.free with
        parent := b.handle, label := label, type := b.type, flags := b.flags, policy := b.policy,
        sliceMask := b.mask, ops := b.ops, depth := BitVec.ofNat 4 n.depth,
        useLimit := storedLimit b.type b.ops b.limit }
    let s := r.2.logKey (if b.op = 0x01 then 1 else 2) (ktSev (n.needed || n.root || b.flags.getLsbD 2)) r.1 0
      (r.2.entry (hIndex r.1)).generation.toNat
    (s, Verdict.ok, r.1.setWidth 64)

/-- The parent of an entry has QUORUM, or is a root (R63). -/
def State.parentQuorum (s : State) (e : Handle) : Bool :=
  e.rootParent || (s.entry (hIndex e.parent)).quorum

/-- NEXTGEN: a sibling with a new generation and no uses. DESIGN CHOICE: a target whose parent is no longer VALID is
refused HANDLE_INVALID, though NEXTGEN itself derives nothing (assumption 74). -/
def State.doNextGen (s : State) (i : Issuer) (b : KtBlock) : State × Verdict × DWord :=
  match s.checkHandle i b.handle false with
  | .error v => (s, v, 0)
  | .ok e =>
    if !e.rootParent && (s.ancestry e).1.isEmpty then (s, verdict St.handleInvalid 0, 0)
    else
      let need := e.quorum || s.parentQuorum e
      let w := s.admitting e.owner.toNat 1 i (s.family b.handle e) false
      if need && w.isNone then (s, verdict St.quorumRequired 0, 0)
      else match s.roomFor e.owner.toNat with
        | some v => (s, v, 0)
        | none =>
          let s := if need then s.admitUse w else s
          let r := s.newEntry e.owner.toNat e
          let s := r.2.logKey 3 (ktSev (need || e.rootParent)) r.1 0 (r.2.entry (hIndex r.1)).generation.toNat
          (s, Verdict.ok, r.1.setWidth 64)

/-- NARROW. -/
def State.doNarrow (s : State) (i : Issuer) (b : KtBlock) : State × Verdict × DWord :=
  match s.checkHandle i b.handle false with
  | .error v => (s, v, 0)
  | .ok e =>
    match s.quorumCheck i b.handle e 1 with
    | some v => (s, v, 0)
    | none =>
      let mask := e.sliceMask &&& b.mask
      if e.scope = 1 ∧ !oneBit mask then (s, verdict St.attrDenied 0x1A, 0)
      else
        let s := if e.quorum then s.admitUse (s.admitting e.owner.toNat 1 i (s.family b.handle e) false) else s
        let s := s.setEntry (hIndex b.handle) { e with
          ops := e.ops &&& b.ops, sliceMask := mask, useLimit := lowerLimit e.useLimit b.limit,
          flags := e.flags ||| (b.flags &&& 4) }
        let s := s.clearCache (fun p => e.sliceMask.getLsbD p && !mask.getLsbD p)
          fun l => l.index.toNat == hIndex b.handle
        ((s.logKey 4 (ktSev (e.quorum || e.rootParent)) b.handle 0 0).noteKeys, Verdict.ok, b.handle.setWidth 64)

/-- DESTROY (R68): the target is FREE, the owner's cache is cleared, a sweep of the region begins. -/
def State.doDestroy (s : State) (i : Issuer) (b : KtBlock) : State × Verdict × DWord :=
  match s.checkHandle i b.handle true with
  | .error v => (s, v, 0)
  | .ok e =>
    match s.quorumCheck i b.handle e 1 with
    | some v => (s, v, 0)
    | none =>
      let o := e.owner.toNat
      let r := s.owner o
      let s := if e.quorum then s.admitUse (s.admitting o 1 i (s.family b.handle e) false) else s
      let s := (s.setEntry (hIndex b.handle) e.freed).clearOwnerCache o
      let sweep : Sweep := { owner := e.owner, lo := r.first, hi := r.first + r.size }
      let s := { s with keys := { s.keys with sweeps := s.keys.sweeps ++ [sweep] } }
      ((s.logKey 5 (ktSev (e.quorum || e.rootParent)) b.handle 0 0).noteKeys, Verdict.ok, b.handle.setWidth 64)

/-! ### QUERY, PROVE, PIN, UNPIN -/

/-- QUERY: the 40 B entry to the Ladle read half or to KT_TBL_DATA. -/
def State.doQuery (s : State) (u : Submission) (b : KtBlock) : State × Verdict × DWord :=
  match s.checkHandle u.issuer b.handle true with
  | .error v => (s, v, 0)
  | .ok e =>
    match u.issuer.slice? with
    | none => (s.setRegs 0x060044 (words 10 e.bytes), Verdict.ok, b.handle.setWidth 64)
    | some _ =>
      let bad := s.jobRefusal u true 0 b.arg.toNat 40
      let s := s.jobWrite u 0 b.arg.toNat e.bytes
      match bad with
      | some r => let x := s.strained u true r; (x.1, x.2, 0)
      | none => (s, Verdict.ok, b.handle.setWidth 64)

/-- The 48 B response of PROVE (R76). -/
def State.proveResponse (s : State) (h : Word) (kc challenge : Bytes) : Bytes :=
  kmac256 kc (challenge ++ be 4 h ++ be 8 s.tl.ns) (ascii "SH6496 PROVE") 32 ++ le 4 h ++
  le 4 (s.timeFlags.setWidth 32 : Word) ++ le 8 s.tl.ns

/-- PROVE (R76). -/
def State.doProve (s : State) (u : Submission) (b : KtBlock) : State × Verdict × DWord :=
  let hs := u.issuer.slice?.isNone
  match s.checkUse u.issuer b.handle opProve with
  | .error v => (s, v, 0)
  | .ok _ =>
    let k := s.keySecret u.issuer b.handle true
    match k.1 with
    | none => (k.2, verdict St.handleInvalid 0, 0)
    | some kc =>
      let s := k.2
      if hs then
        let c := s.regBytes 0x060100 8
        (s.setRegs 0x060120 (words 12 (s.proveResponse b.handle kc c)), Verdict.ok, b.handle.setWidth 64)
      else
        match s.jobRefusal u false 0 b.arg.toNat 32 with
        | some r => let x := s.strained u false r; (x.1, x.2, 0)
        | none =>
          let c := s.jobRead u 0 b.arg.toNat 32
          let bad := s.jobRefusal u true 0 b.arg.toNat 48
          let s := s.jobWrite u 0 b.arg.toNat (s.proveResponse b.handle kc c)
          match bad with
          | some r => let x := s.strained u true r; (x.1, x.2, 0)
          | none => (s, Verdict.ok, b.handle.setWidth 64)

/-- PIN (R70): the node is derived into the issuer's partition if it is not there, and pinned within the limit. -/
def State.doPin (s : State) (u : Submission) (b : KtBlock) : State × Verdict × DWord :=
  match u.issuer.slice?, s.checkHandle u.issuer b.handle false with
  | some x, .ok e =>
    let i := hIndex b.handle
    if 768 < (s.partition x.toNat).pinnedWith i e then (s, verdict St.attrDenied 0x17, 0)
    else
      let k := s.keySecret u.issuer b.handle false
      match k.1 with
      | none => (k.2, verdict St.handleInvalid 0, 0)
      | some _ => (k.2.setPartition x.toNat ((k.2.partition x.toNat).setPin i true), Verdict.ok,
          b.handle.setWidth 64)
  | _, .error v => (s, v, 0)
  | none, _ => (s, verdict St.attrDenied 0x19, 0)

/-- UNPIN. A stamp key that a market of the slice uses stays pinned (R217). -/
def State.doUnpin (s : State) (u : Submission) (b : KtBlock) : State × Verdict × DWord :=
  match u.issuer.slice?, s.checkHandle u.issuer b.handle true with
  | some x, .ok _ =>
    (s.setPartition x.toNat ((s.partition x.toNat).setPin (hIndex b.handle) (s.marketPins x (hIndex b.handle))), Verdict.ok,
      b.handle.setWidth 64)
  | _, .error v => (s, v, 0)
  | none, _ => (s, verdict St.attrDenied 0x19, 0)

/-! ### Sealed images (R73 to R75) -/

/-- The image key of an owner (R74). -/
def State.imageKey (s : State) (o : Nat) : Bytes :=
  kdf (s.root 0) (0x53484B4900000000#64 + BitVec.ofNat 64 o) (kdfContext 0 0x12 1 0x49 0) 256

/-- The records of an image: the owner's LIVE persistent entries, in index order. -/
def State.imageEntries (s : State) (o : Owner) : List (Nat × Handle) :=
  (s.regionUsed o).filter fun e => e.2.live && e.2.scope == 0

/-- The 64 B header of an image (Table 2.12). -/
def imageHeader (n : Nat) (o : Owner) (gen : Word) (count : Nat) (tl : DWord) (nonce : Bytes) : Bytes :=
  [0x53#8, 0x48#8, 0x4B#8, 0x49#8] ++ leNat 2 1 ++ [BitVec.ofNat 8 n, o.resLog2.setWidth 8] ++ le 4 gen ++
  leNat 4 count ++ le 8 o.epoch ++ le 8 Config.deviceSerial ++ leNat 4 o.first ++ leNat 4 o.size ++ le 8 tl ++
  nonce ++ zeros 4

/-- The generation that IMG_SEAL writes; none past 0xFFFF_FFFF (R73). -/
def sealGen (o : Owner) : Option Word :=
  let base := if o.pendGen = 0 then o.imgGen else o.pendGen
  if base = 0xFFFFFFFF then none else some (base + 1)

/-- The checks of IMG_SEAL: BUFFER_SMALL with the length needed, the owner LIVE, GEN_EXHAUSTED. -/
def State.sealCheck (s : State) (b : KtBlock) : Option (Verdict × DWord) :=
  let o := s.owner (b.arg.extractLsb 7 0).toNat
  let need := 80 + 48 * (s.imageEntries o).length
  if o.state = .live ∧ b.mask.toNat < need then some (verdict St.malformed 0x26, BitVec.ofNat 64 need)
  else if o.state != .live then some (verdict St.handleInvalid 0, 0)
  else if (sealGen o).isNone then some (verdict St.attrDenied 0x1D, 0)
  else none

/-- IMG_SEAL with its nonce drawn: the image goes to host memory under the manager's PASID, PEND_GEN takes its
generation. -/
def State.doSeal (s : State) (b : KtBlock) (nonce : Bytes) : State × Verdict × DWord :=
  match s.sealCheck b with
  | some r => (s, r.1, r.2)
  | none =>
    let n := (b.arg.extractLsb 7 0).toNat
    let o := s.owner n
    let g := (sealGen o).getD 0
    let es := s.imageEntries o
    let body := es.flatMap fun e => le 4 (handleId e.1 e.2) ++ zeros 4 ++ e.2.bytes
    let head := imageHeader n o g es.length s.tl.ns nonce
    let k := s.imageKey n
    let ct := gcmCrypt k nonce body
    let image := head ++ ct ++ gcmTag k nonce head ct 16
    let s := (s.hostWrite none (some s.host.mgrPasid) b.label image).setOwner n { o with pendGen := g }
    (s.logKey 6 sevAudit 0 0 g.toNat, Verdict.ok, BitVec.ofNat 64 image.length)

/-- The entry that a record of an image installs (R75): its count advanced, its ceiling RES above it. DESIGN CHOICE: a count
that a load takes past half the limit, or a limit that NARROW takes below twice the count, gives no half-limit event: R59's
event is that of a use (assumption 76). -/
def loadEntry (o : Owner) (imgEpoch : DWord) (rec_ : Bytes) : Nat × Handle :=
  let h : Word := fieldLE 32 0 4 rec_
  let e := Handle.ofBytes (slice 8 40 rec_)
  let count := e.useCount.toNat + o.res * (o.epoch.toNat - imgEpoch.toNat + 1)
  let after := { o with epoch := o.epoch + 1 }
  (hIndex h, { e with tag := hTag h, useCount := BitVec.ofNat 48 count, ceilBase := ceilBaseFor after (count + o.res) })

/-- IMG_LOAD of the octets that the buffer holds (R74). -/
def State.doLoad (s : State) (b : KtBlock) (host : Bytes) : State × Verdict × DWord :=
  let img := fit b.mask.toNat host
  let n := (octet 6 img).toNat
  let o := s.owner n
  let count := ofLE (slice 0x0C 4 img)
  let total := 80 + 48 * count
  let gen : Word := fieldLE 32 8 4 img
  let epoch : DWord := fieldLE 64 0x10 8 img
  let nonce := slice 0x30 12 img
  let formatOk :=
    img.take 4 == [0x53#8, 0x48#8, 0x4B#8, 0x49#8] && slice 4 2 img == leNat 2 1 &&
    octet 7 img == o.resLog2.setWidth 8 && slice 0x18 8 img == le 8 Config.deviceSerial &&
    slice 0x20 4 img == leNat 4 o.first && slice 0x24 4 img == leNat 4 o.size && zeroRange 0x3C 0x40 img &&
    decide (count ≤ o.size) && decide (total ≤ b.mask.toNat)
  if !formatOk then (s, verdict St.malformed 0x25, 0)
  else if o.state != .live then (s, verdict St.handleInvalid 0, 0)
  else if !(s.regionUsed o).isEmpty then (s, verdict St.attrDenied 0x16, 0)
  else
    let k := s.imageKey n
    let head := img.take 64
    let ct := slice 64 (48 * count) img
    if gcmTag k nonce head ct 16 != slice (64 + 48 * count) 16 img then (s, verdict St.malformed 0x24, 0)
    else if !((gen = o.imgGen && o.imgGen != 0) || (gen = o.pendGen && o.pendGen != 0)) then
      (s.logKey 10 sevAudit 0 (verdict St.imageRollback 0).arg gen.toNat, verdict St.imageRollback 0, 0)
    else
      let body := gcmCrypt k nonce ct
      let es := (List.range count).map fun i => loadEntry o epoch (slice (48 * i) 48 body)
      let s := es.foldl (fun t e => t.setEntry e.1 e.2) s
      let pend := gen = o.pendGen && o.pendGen != 0
      let s := s.setOwner n { o with
        epoch := o.epoch + 1, imgGen := if pend then gen else o.imgGen, pendGen := if pend then 0 else o.pendGen }
      let s := (s.raise intKt 2).logKey 11 sevNotice 0 0 (o.epoch.toNat + 1)
      (s.logKey 7 sevAudit 0 0 gen.toNat, Verdict.ok, gen.setWidth 64)

/-- IMG_COMMIT (R73). DESIGN CHOICE: while PEND_GEN is 0 there is nothing to commit, and an ARG of 0 is refused with
GEN_MISMATCH as any other ARG is (assumption 75). -/
def State.doCommit (s : State) (b : KtBlock) : State × Verdict × DWord :=
  let n := (b.handle.extractLsb 7 0).toNat
  let o := s.owner n
  if o.state != .live then (s, verdict St.handleInvalid 0, 0)
  else if o.pendGen = 0 ∨ b.arg ≠ o.pendGen then (s, verdict St.attrDenied 0x1C, 0)
  else
    let s := s.setOwner n { o with imgGen := o.pendGen, pendGen := 0 }
    (s.logKey 8 sevAudit 0 0 o.pendGen.toNat, Verdict.ok, o.pendGen.setWidth 64)

/-- IMG_UNLOAD: every entry of the owner becomes FREE. -/
def State.doUnload (s : State) (b : KtBlock) : State × Verdict × DWord :=
  let n := (b.arg.extractLsb 7 0).toNat
  let o := s.owner n
  if o.state != .live then (s, verdict St.handleInvalid 0, 0)
  else
    let used := s.regionUsed o
    let s := s.mapEntries fun i e => if o.holds i && e.valid then e.freed else e
    let s := (s.clearOwnerCache n).logKey 9 sevAudit 0 0 o.imgGen.toNat
    (s.noteKeys, Verdict.ok, BitVec.ofNat 64 used.length)

/-! ### Running a command -/

/-- The draws of a command, made after its other checks (R494): GENERATE's label, IMG_SEAL's nonce. -/
def ktDraws (op : Byte) : List Draw :=
  if op = 0x02 then [.priv .key 8] else if op = 0x10 then [.priv .key 12] else []

/-- The checks that a command with draws fails before it draws. -/
def State.ktPre (s : State) (u : Submission) : Option (Verdict × DWord) :=
  let b := ktBlock u.block
  if b.op = 0x02 then match s.createCheck u.issuer b with | .error v => some (v, 0) | .ok _ => none
  else if b.op = 0x10 then s.sealCheck b
  else none

/-- The effect of a command whose format and draws are done. -/
def State.ktRun (s : State) (u : Submission) (rand : Bytes) : State × Verdict × DWord :=
  let b := ktBlock u.block
  match b.op with
  | 0x01 => s.doCreate u.issuer b b.label
  | 0x02 => s.doCreate u.issuer b (BitVec.ofNat 64 (ofBE rand))
  | 0x03 => s.doNextGen u.issuer b
  | 0x04 => s.doNarrow u.issuer b
  | 0x05 => s.doDestroy u.issuer b
  | 0x06 => s.doQuery u b
  | 0x07 => s.doProve u b
  | 0x08 => s.doPin u b
  | 0x09 => s.doUnpin u b
  | 0x10 => s.doSeal b rand
  | 0x11 => s.doLoad b u.host
  | 0x12 => s.doCommit b
  | _ => s.doUnload b

end Sys2Proof.Machine
end

