-- ==== Sys2Proof/Machine/StockpotOps.lean ====
section
/-! DEFINITION. Stockpot: accepting, chaining and placing records, log hold, the side buffer, the log's octets
(R412 to R428), and what follows the acceptance of a seal record (R238). -/

namespace Sys2Proof.Machine

/-- Slots of the main ring and of the evidence region (R416). -/
def ringSlots : Nat := 126976
def evidenceSlots : Nat := 4096

/-- Octets of the side buffer (R426). -/
def sideBytes : Nat := 0x40000

/-- The octets of a record before its CRC (Table 15.1). -/
def LogEntry.body (e : LogEntry) : Bytes :=
  beNat 2 e.record.size ++ be 2 e.record.type ++ [e.record.severity.setWidth 8, e.record.slice] ++ be 2 e.flags ++
  beNat 4 e.seq.toNat ++ beNat 4 (e.seq.toNat / 2 ^ 32) ++ be 8 e.tl ++ e.record.payload

/-- The octets of a record (R412, R413). -/
def LogEntry.bytes (e : LogEntry) : Bytes := e.body ++ be 4 (crc32c e.body)

/-- Slots that a record occupies (R416). -/
def LogRec.slots (r : LogRec) : Nat := (r.size + 63) / 64
def Placed.slots (p : Placed) : Nat := p.entry.record.slots

/-- Chained: Audit or Evidence (R415). -/
def LogRec.chained (r : LogRec) : Bool := 2 ≤ r.severity.toNat

/-- The regulator has acknowledged a sequence (R435). -/
def Stockpot.acked (t : Stockpot) (seq : DWord) : Bool := t.ack != BitVec.allOnes 64 && decide (seq.toNat ≤ t.ack.toNat)

/-- Table 15.2: a record of a severity may overwrite a placed one. An Evidence record in the main ring follows the
Audit rule (R416). -/
def Stockpot.mayOverwrite (t : Stockpot) (sev : BitVec 2) (p : Placed) : Bool :=
  if p.entry.record.chained then t.acked p.entry.seq else decide (p.entry.record.severity.toNat ≤ sev.toNat)

/-- Two runs of slots share a slot. -/
def overlaps (a n b m : Nat) : Bool := decide (a < b + m) && decide (b < a + n)

/-- The first run of `n` slots that a record of a severity may take, in ring order from the write pointer (R417). A run
that works begins at the pointer, at slot 0, or where a record that blocks ends. -/
def Stockpot.findRun (t : Stockpot) (sev : BitVec 2) (n : Nat) : Option Nat :=
  let blocks := t.ring.filter fun p => !t.mayOverwrite sev p
  let ends := blocks.map fun p => p.slot + p.slots
  let cands := t.wptr :: (ends.filter fun e => t.wptr < e) ++ (0 :: ends.filter fun e => e < t.wptr)
  cands.find? fun p => decide (p + n ≤ ringSlots) && !(blocks.any fun b => overlaps p n b.slot b.slots)

/-- Insert a placed record in slot order. -/
def insertPlaced (x : Placed) : List Placed → List Placed
  | [] => [x]
  | y :: ys => if x.slot < y.slot then x :: y :: ys else y :: insertPlaced x ys

/-- STK_DROP advances (R417). -/
def State.dropRecords (s : State) (n : Nat) : State :=
  if n = 0 then s else { s with stk := { s.stk with drop := s.stk.drop + BitVec.ofNat 32 n } }.raise intStk 3

/-- Write a record at a run of the main ring: the records it touches are discarded (R417). -/
def State.putRing (s : State) (p : Nat) (e : LogEntry) : State :=
  let n := e.record.slots
  let gone := s.stk.ring.filter fun q => overlaps p n q.slot q.slots
  let keep := s.stk.ring.filter fun q => !overlaps p n q.slot q.slots
  let stk := { s.stk with ring := insertPlaced ⟨p, e⟩ keep, wptr := (p + n) % ringSlots }
  { s with stk := stk }.dropRecords (gone.filter fun q : Placed => !q.entry.exported).length

/-- The lowest empty slot of the evidence region (R416). -/
def Stockpot.evidenceSlot (t : Stockpot) : Option Nat :=
  let i := freeIndex 0 (t.evidence.map Placed.slot)
  if i < evidenceSlots then some i else none

/-- Octets in the side buffer. -/
def Stockpot.sideUsed (t : Stockpot) : Nat := (t.side.map fun e => e.record.size).sum

/-- Placement in the main ring is suspended: a hold, a freeze, or records that still drain (R425, R426, R428). -/
def Stockpot.toSide (t : Stockpot) : Bool := t.hold || t.frozen || !t.side.isEmpty

/-- Give a record its sequence, its time and its flags, and chain it (R414, R421). -/
def State.number (s : State) (r : LogRec) (extra : Half) : LogEntry × State :=
  let e : LogEntry :=
    { record := r, seq := s.stk.nextSeq, tl := s.tl.ns, flags := s.timeFlags ||| extra, exported := false }
  let stk := { s.stk with
    nextSeq := s.stk.nextSeq + 1,
    chain := if r.chained then sha256 (s.stk.chain ++ e.bytes) else s.stk.chain,
    chainedCount := if r.chained then s.stk.chainedCount + 1 else s.stk.chainedCount }
  let s := { s with stk := stk }
  (e, if r.type = 0x0002 then s.raise intStk 4 else s)

/-- The evidence region has room for one more Evidence record beside those of the side buffer that are to go there (R416). -/
def Stockpot.evidenceRoom (t : Stockpot) : Bool :=
  let due := t.side.filter fun e => e.record.severity == sevEvidence && !e.flags.getLsbD 3
  decide (t.evidence.length + due.length < evidenceSlots)

/-- FLAGS.EV_MAIN of a record that is accepted: an Evidence record for which the region has no room (R416). -/
def Stockpot.evMain (t : Stockpot) (r : LogRec) : Half := if r.severity = sevEvidence ∧ !t.evidenceRoom then 8 else 0

/-- Append to the side buffer (R426). -/
def State.putSide (s : State) (r : LogRec) : State :=
  let x := s.number r (4 ||| s.stk.evMain r)
  { x.2 with stk := { x.2.stk with side := x.2.stk.side ++ [x.1] } }

/-- A LOG_HOLD record (Table 15.3). -/
def holdRec (on : Bool) (seq : DWord) : LogRec :=
  { type := 0x0003, severity := sevAudit, slice := devSlice,
    payload := [if on then 1#8 else 0#8] ++ zeros 7 ++ be 8 seq }

/-- A FREEZE record (Table 15.3). -/
def freezeRec (frozen automatic : Bool) : LogRec :=
  { type := 0x0004, severity := sevNotice, slice := devSlice,
    payload := [if frozen then 1#8 else 0#8, if automatic then 1#8 else 0#8] ++ zeros 6 }

/-- Log hold begins (R425). -/
def State.beginHold (s : State) : State :=
  let t := { s with stk := { s.stk with hold := true, holds := s.stk.holds + 1 } }
  (t.raise intStk 0).noteConditions s

/-- Every record in the log, in sequence order of each area. -/
def Stockpot.stored (t : Stockpot) : List LogEntry := (t.ring ++ t.evidence).map Placed.entry

/-- Accept one record (R414 to R417, R425, R426). None: the record waits where it is. -/
def State.accept (s : State) (r : LogRec) : Option State :=
  match (if r.severity = sevEvidence && !s.stk.frozen && s.stk.evidenceRoom then s.stk.evidenceSlot else none) with
  | some i =>
    let x := s.number r 0
    some { x.2 with stk := { x.2.stk with evidence := insertPlaced ⟨i, x.1⟩ x.2.stk.evidence } }
  | none =>
    if s.stk.toSide then
      if s.stk.sideUsed + r.size ≤ sideBytes then some (s.putSide r)
      else if r.severity = sevTrace then some (s.dropRecords 1)
      else none
    else
      match s.stk.findRun r.severity r.slots with
      | some p =>
        let x := s.number r (s.stk.evMain r)
        some (x.2.putRing p x.1)
      | none =>
        if !r.chained then some (s.dropRecords 1)
        else
          let seq := s.stk.nextSeq
          some ((s.beginHold.putSide r).putSide (holdRec true seq))

/-- Accept one of Stockpot's own records, or keep it until there is room (R420). -/
def State.acceptOwn (s : State) (r : LogRec) : State :=
  if s.stk.started && s.stk.own.isEmpty then
    match s.accept r with
    | some t => t
    | none => { s with stk := { s.stk with own := [r] } }
  else { s with stk := { s.stk with own := s.stk.own ++ [r] } }

/-- Move records that producers hold back into a port while they fit (R420). -/
def State.refill (s : State) (port : Fin 8) : State :=
  let rec go : List (BitVec 3 × LogRec) → List LogRec → List (BitVec 3 × LogRec) × List LogRec
    | [], q => ([], q)
    | w :: ws, q =>
      if w.1.toFin.val == port.val then
        if fifoFits q w.2 then go ws (q ++ [w.2]) else (w :: ws, q)
      else
        let x := go ws q
        (w :: x.1, x.2)
  let x := go s.waitingLog s.stk.ports[port]
  { s with waitingLog := x.1, stk := { s.stk with ports := s.stk.ports.set port x.2 } }

/-- Accept the head of a port, if it need not wait. -/
def State.acceptPort (s : State) (port : Fin 8) : Option State :=
  match s.stk.ports[port] with
  | [] => none
  | r :: rs =>
    match s.accept r with
    | none => none
    | some t => some ({ t with stk := { t.stk with ports := t.stk.ports.set port rs } }.refill port)

/-! ### Seals after their acceptance (R238) -/

/-- A slice's seal buffer. -/
def State.sealBuf (s : State) (n : Nat) : SealBuf := sparseGet SealBuf.reset s.mkt.bufs n

/-- Replace a slice's seal buffer. -/
def State.setSealBuf (s : State) (n : Nat) (b : SealBuf) : State :=
  { s with mkt := { s.mkt with bufs := sparseSet SealBuf.reset s.mkt.bufs n b } }

/-- The buffer write is skipped: no slots, a ring that is not enabled, or D3hot. -/
def State.sealSkipped (s : State) (o : SealOut) : Bool :=
  (s.sealBuf o.slice.toNat).slots == 0 || !(s.ring o.slice.toNat o.ring.toNat).enable || s.host.d3hot

/-- The result of a seal notice. -/
def sealResult (o : SealOut) (slot : Half) : DWord :=
  (o.sealSeq.setWidth 32 : Word) ++ (0#8 ++ (if o.pq then 2#8 else 1#8) : Half) ++ slot

/-- A seal notice of a ring (R332): into a completion slot that no consumed job reserves, or dropped and counted. -/
def State.sealNotice (s : State) (o : SealOut) (slot : Half) : State :=
  let n := o.slice.toNat
  let r := o.ring.toNat
  let g := s.ring n r
  if g.enable && g.state == .running && !s.host.d3hot && decide (0 < g.slots) then
    s.ringComplete n r Verdict.ok false true 0xFFFFFFFF (sealResult o slot)
  else (s.setRing n r { g with sealDrop := satInc g.sealDrop }).pgErr n 6

/-- Stockpot has accepted a seal record: its bytes go to the slice's seal buffer, then its notice to the ring. -/
def State.deliverSeal (s : State) (e : LogEntry) : State :=
  match s.mkt.outbox with
  | [] => s
  | o :: os =>
    let s := { s with mkt := { s.mkt with outbox := os } }
    if s.sealSkipped o then s.sealNotice o 0xFFFF
    else
      let n := o.slice.toNat
      let b := s.sealBuf n
      let at_ := b.base + BitVec.ofNat 64 (4096 * b.head.toNat)
      let s := s.hostWrite (some o.slice) (s.ringPasid n o.ring.toNat) at_ e.bytes
      let next : Half := if b.slots.toNat ≤ b.head.toNat + 1 then 0 else b.head + 1
      (s.setSealBuf n { b with head := next }).sealNotice o b.head

/-! ### Accepting (R414, R420) -/

/-- A record of the log by its sequence. -/
def Stockpot.find (t : Stockpot) (seq : DWord) : Option LogEntry := (t.stored ++ t.side).find? fun e => e.seq == seq

/-- The record is a seal of a market. -/
def LogRec.isSeal (r : LogRec) : Bool := r.type == 0x0030 || r.type == 0x0031

/-- What follows the acceptance of a record of the stamp pipeline's port. -/
def State.afterAccept (s old : State) (port : Nat) : State :=
  match (if port = 2 then old.stk.ports[2].head? else none) with
  | none => s
  | some r =>
    if !r.isSeal then s
    else match s.stk.find old.stk.nextSeq with
      | some e => s.deliverSeal e
      | none => s

/-- The ports in the order of their turns. -/
def Stockpot.order (t : Stockpot) : List (Fin 8) := (List.range 8).map fun k => (t.turn + BitVec.ofNat 3 k).toFin

/-- One turn: Stockpot's own oldest record, or the first port whose head can be accepted. -/
def State.acceptNext (s : State) : State :=
  if !s.stk.started then s
  else
    match s.stk.own with
    | r :: rs =>
      match s.accept r with
      | none => s
      | some t => { t with stk := { t.stk with own := rs } }
    | [] =>
      match s.stk.order.findSome? fun p => (s.acceptPort p).map fun t => (p, t) with
      | none => s
      | some (p, t) =>
        ({ t with stk := { t.stk with turn := BitVec.ofNat 3 p.val + 1 } }).afterAccept s p.val

/-- Turns of Stockpot, up to so many, until a port is empty: the sequence that the next record had when the port's last was
taken, and the state. None if the port comes to hold a record that must wait. -/
def State.turnsTo (s : State) (port : Fin 8) : Nat → Option (DWord × State)
  | 0 => none
  | n + 1 =>
    let t := s.acceptNext
    if t.stk.ports[port].isEmpty then (if t.stk.nextSeq = s.stk.nextSeq then none else some (s.stk.nextSeq, t))
    else t.turnsTo port n

/-- Accept a record whose SEQ its producer's answer needs (R158, R436): it enters its port behind what the port holds, and
Stockpot takes its turns up to it (R420). None while it must wait. -/
def State.logNow (s : State) (port : Fin 8) (r : LogRec) : Option (DWord × State) :=
  if !s.stk.started || s.waitingLog.any (fun w => w.1.toFin.val == port.val) then none
  else
    let s := { s with stk := { s.stk with ports := s.stk.ports.set port (s.stk.ports[port] ++ [r]) } }
    s.turnsTo port (s.stk.own.length + (s.stk.ports.toList.map List.length).sum + 1)

/-- Place one drained record (R426): its place, or nothing if it must stay, or no record if it is dropped. -/
inductive Drained where
  | moved (s : State)
  | dropped (s : State)
  | stuck

/-- Try to place a record of the side buffer (R417, R426). One with FLAGS.EV_MAIN goes to the main ring (R416). -/
def State.drainOne (s : State) (e : LogEntry) : Drained :=
  match (if e.record.severity = sevEvidence && !e.flags.getLsbD 3 then s.stk.evidenceSlot else none) with
  | some i => .moved { s with stk := { s.stk with evidence := insertPlaced ⟨i, e⟩ s.stk.evidence } }
  | none =>
    match s.stk.findRun e.record.severity e.record.slots with
    | some p => .moved (s.putRing p e)
    | none => if e.record.chained then .stuck else .dropped (s.dropRecords 1)

/-- Drain the side buffer from its head (R426): the state, and the sequence of the last record drained. -/
def State.drainList (s : State) : List LogEntry → Option DWord → State × List LogEntry × Option DWord
  | [], last => (s, [], last)
  | e :: es, last =>
    match s.drainOne e with
    | .moved t => t.drainList es (some e.seq)
    | .dropped t => t.drainList es (some e.seq)
    | .stuck => (s, e :: es, last)

/-- Drain the side buffer (R426, R428): the hold ends when it is empty, or begins if a chained record cannot be
placed. -/
def State.drainSide (s : State) : State :=
  if s.stk.frozen || s.stk.side.isEmpty then s
  else
    let x := s.drainList s.stk.side none
    let t := { x.1 with stk := { x.1.stk with side := x.2.1 } }
    match x.2.1 with
    | [] =>
      if t.stk.hold then
        let u := ({ t with stk := { t.stk with hold := false } }.raise intStk 1).noteConditions t
        u.acceptOwn (holdRec false (x.2.2.getD 0))
      else t
    | e :: _ => if t.stk.hold then t else t.beginHold.acceptOwn (holdRec true e.seq)

/-- Thaw (R428). -/
def State.thaw (s : State) (automatic : Bool) : State :=
  if !s.stk.frozen then s
  else ({ s with stk := { s.stk with frozen := false } }.raise intStk 2).acceptOwn (freezeRec false automatic)

/-- The octets of a slot of the log (STK_RD_SEL): main ring, then evidence region. -/
def Stockpot.slotBytes (t : Stockpot) (i : Nat) : Bytes :=
  if i < ringSlots then
    match t.ring.find? fun p => decide (p.slot ≤ i) && decide (i < p.slot + p.slots) with
    | some p => slice (64 * (i - p.slot)) 64 p.entry.bytes
    | none => zeros 64
  else
    match t.evidence.find? fun p => p.slot + ringSlots == i with
    | some p => slice 0 64 p.entry.bytes
    | none => zeros 64

/-- Empty slots of the main ring (STK_FREE). -/
def Stockpot.freeSlots (t : Stockpot) : Nat := ringSlots - (t.ring.map Placed.slots).sum

/-- An EVIDENCE record of a Trivet entry (Table 14.4). -/
def evidenceRec (e : Evidence) : LogRec :=
  { type := 0x0050, severity := sevEvidence, slice := devSlice,
    payload := [e.source, e.cls, e.cause, e.flags] ++ le 4 e.detail ++ le 8 e.time }

/-- A LINK record (Table 15.3). -/
def linkRec (event : Byte) (port : Bool) : LogRec :=
  { type := 0x0008, severity := sevAudit, slice := devSlice,
    payload := [event, if port then 1#8 else 0#8] ++ zeros 6 }

end Sys2Proof.Machine
end

