-- ==== Sys2Proof/Machine/JobChecks.lean ====
section
/-! DEFINITION. The start checks of the jobs of chapters 3, 4 and 5, in the order of R494. -/

namespace Sys2Proof.Machine

/-- Checks in order: the first that fails decides (R494). -/
def firstFailure : List (Bool × Verdict) → Option Verdict
  | [] => none
  | (bad, v) :: rest => if bad then some v else firstFailure rest

/-- MALFORMED with the details that the engine chapters use. -/
abbrev vReserved : Verdict := verdict St.malformed 0x21
abbrev vBadAlg : Verdict := verdict St.malformed 0x32
abbrev vBadMode : Verdict := verdict St.malformed 0x33
abbrev vBadSize : Verdict := verdict St.malformed 0x34
abbrev vBadParam : Verdict := verdict St.malformed 0x35
abbrev vBadSpace : Verdict := verdict St.malformed 0x36
abbrev vCtxAuth : Verdict := verdict St.malformed 0x37
abbrev vCtxEmpty : Verdict := verdict St.malformed 0x38
abbrev vSmall : Verdict := verdict St.malformed 0x26
abbrev vLevel : Verdict := verdict St.attrDenied 0x19
abbrev vTypeOp : Verdict := verdict St.attrDenied 0x11
abbrev vImport : Verdict := verdict St.attrDenied 0x30

/-- A space that an issuer may not name (R84): 2 for a slice's ring, 3 for all. -/
def badSpace (u : Submission) (space : Nat) : Bool :=
  space = 3 || (space = 2 && match u.issuer with | .slice _ => true | _ => false)

/-- LADLE_RANGE of a job's source (R329, R334). -/
def State.sourceRange? (s : State) (u : Submission) : Option Verdict :=
  u.source.findSome? fun f =>
    if f.space = 0 then s.ladleRange u.slice? false f.addr.toNat f.len.toNat else none

/-- LADLE_RANGE of a destination. -/
def State.destRange? (s : State) (u : Submission) (space addr len : Nat) : Option Verdict :=
  if space = 0 then s.ladleRange u.slice? true addr len else none

/-- First of two checks that fails. -/
def orElse? (a b : Option Verdict) : Option Verdict := match a with | some v => some v | none => b

/-! ### Digest jobs (R80 to R96, R242) -/

/-- A row of Table 3.1: block or rate, cycles per call, full output length, least and greatest output length, key type. -/
structure AlgInfo where
  block : Nat
  cycles : Nat
  full : Nat
  lo : Nat
  hi : Nat
  keyType : Option Byte

/-- Table 3.1. -/
def algInfo (a : Byte) : Option AlgInfo :=
  match a with
  | 0x01 => some ⟨64, 36, 32, 32, 32, none⟩
  | 0x02 => some ⟨128, 44, 48, 48, 48, none⟩
  | 0x03 => some ⟨128, 44, 64, 64, 64, none⟩
  | 0x11 => some ⟨136, 26, 32, 32, 32, none⟩
  | 0x12 => some ⟨104, 26, 48, 48, 48, none⟩
  | 0x13 => some ⟨72, 26, 64, 64, 64, none⟩
  | 0x21 => some ⟨168, 26, 0, 1, 65536, none⟩
  | 0x22 => some ⟨136, 26, 0, 1, 65536, none⟩
  | 0x31 => some ⟨64, 36, 32, 16, 32, some 0x13⟩
  | 0x32 => some ⟨128, 44, 48, 24, 48, some 0x14⟩
  | 0x33 => some ⟨128, 44, 64, 32, 64, some 0x14⟩
  | 0x41 => some ⟨168, 26, 64, 16, 64, some 0x15⟩
  | 0x42 => some ⟨136, 26, 64, 16, 64, some 0x15⟩
  | _ => none

/-- Fields of a digest job block (Table 3.2). -/
structure DgBlock where
  op : Byte
  alg : Byte
  start : Bool
  finish : Bool
  compare : Bool
  import_ : Bool
  handle : Word
  src : DWord
  len : Nat
  dst : Nat
  outLen : Nat
  srcSpace : Nat
  dstSpace : Nat
  custLen : Nat
  auxOff : Nat

/-- Read a digest job block. -/
def dgBlock (u : Submission) : DgBlock :=
  let ctl := u.nat 2 2
  let sp := u.nat 0x22 1
  { op := u.op, alg := octet 1 u.block, start := ctl.testBit 0, finish := ctl.testBit 1, compare := ctl.testBit 2,
    import_ := ctl.testBit 3, handle := u.field 32 4 4, src := u.field 64 8 8, len := u.nat 0x10 8,
    dst := u.nat 0x18 8, outLen := u.nat 0x20 2, srcSpace := sp % 4, dstSpace := sp / 4 % 4,
    custLen := u.nat 0x23 1, auxOff := u.nat 0x24 4 }

/-- Octets of output of a digest job (Table 3.2). -/
def DgBlock.out (b : DgBlock) : Nat :=
  if b.outLen = 0 then (match algInfo b.alg with | some a => a.full | none => 0) else b.outLen

/-- Round up to 8. -/
def up8 (n : Nat) : Nat := (n + 7) / 8 * 8

/-- Key length of an import by type (R104). -/
def importLen (t : Byte) : Nat :=
  if t = 0x10 then 16 else if t = 0x11 then 24 else if t = 0x14 then 64 else 32

/-- Octets of the auxiliary area of a digest job: expected value, S, raw key, each 8 B aligned (Table 3.2). -/
def DgBlock.auxLen (b : DgBlock) (keyLen : Nat) : Nat :=
  (if b.compare then up8 b.out else 0) + (if isKmac b.alg then up8 b.custLen else 0) +
  (if b.import_ then keyLen else 0)

/-- The block that a digest job runs as: without START on a slot that is not EMPTY it has the slot's ALG and handle (R88). -/
def State.dgRun (s : State) (u : Submission) : DgBlock :=
  let b := dgBlock u
  let x := s.slot u.slotKey
  if 0x40 ≤ b.op && b.op ≤ 0x42 && !b.start && x.state != .empty then { b with alg := x.alg, handle := x.handle } else b

/-- An ALG with a key. -/
def keyedAlg (a : Byte) : Bool := match algInfo a with | some i => i.keyType.isSome | none => false

/-- Non-zero unused fields and reserved bits of a digest job (R84). DESIGN CHOICE where the spec does not say which fields an
opcode uses: DIGEST uses no HANDLE, under a keyed ALG either, so a HANDLE there is RESERVED_NONZERO before R85's
TYPE_OP_MISMATCH; TAP takes any START and FINISH, and always finishes (assumption 91). -/
def dgReserved (u : Submission) : Bool :=
  let b := dgBlock u
  let ctl := u.nat 2 2
  let keyed := keyedAlg b.alg
  !zeroRange 0x28 0x30 u.block || ctl / 256 != 0 || u.nat 0x22 1 / 16 != 0 ||
  (if b.op = 0x43 then
     ctl % 16 != 0 || b.alg != 0 || b.handle != 0 || b.src != 0 || b.len != 0 || b.outLen != 0 || b.srcSpace != 0 ||
     b.custLen != 0 || b.auxOff != 0
   else if b.op = 0x44 then
     ctl % 16 != 0 || b.alg != 0 || b.handle != 0 || b.dst != 0 || b.outLen != 0 || b.dstSpace != 0 ||
     b.custLen != 0 || b.auxOff != 0
   else
     (b.op == 0x40 && (b.import_ || b.handle != 0)) || (b.custLen != 0 && !isKmac b.alg) ||
     ((b.compare || b.op == 0x42) && (b.dst != 0 || b.dstSpace != 0)) ||
     (b.auxOff != 0 && b.op != 0x46 && !b.compare && !isKmac b.alg && !b.import_) ||
     (b.op == 0x45 && (u.nat 8 8 / 4 != 0 || b.srcSpace != 0 || ctl % 256 / 16 != 0 || (!keyed && b.handle != 0))) ||
     (b.op == 0x46 && (b.import_ || b.start || b.finish || b.outLen != 0 || ctl % 256 / 16 != 0 || b.auxOff != 0)))

/-- The other MALFORMED checks of a digest job but the slot's, in the order of the rules that give them (R81, R84, R85, R91,
R95, R242; assumption 92). The details are the spec's where it names one. DESIGN CHOICE where it names none: an OUTLEN outside
Table 3.1, a SHAKE OUTLEN of 0 and a CUSTLEN above 64 give BAD_SIZE (assumption 77); MAC_VERIFY without COMPARE gives
BAD_PARAM (assumption 78); a TAP whose SRC[1:0] is 3 gives BAD_PARAM (assumption 79). -/
def State.dgFormat (s : State) (u : Submission) : Option Verdict :=
  let b := dgBlock u
  let run := s.dgRun u
  let src := b.op != 0x43 && b.op != 0x45
  let dst := b.op != 0x44 && b.op != 0x46 && !b.compare
  let info := algInfo b.alg
  let hashes := b.op != 0x43 && b.op != 0x44
  firstFailure [
    (hashes && info.isNone, vBadAlg),
    (hashes && b.outLen != 0 &&
      (match algInfo run.alg with | some a => decide (b.outLen < a.lo) || decide (a.hi < b.outLen) | none => false),
      vBadSize),
    (hashes && b.outLen == 0 && (run.alg == 0x21 || run.alg == 0x22), vBadSize),
    (decide (64 < b.custLen), vBadSize),
    (src && (badSpace u b.srcSpace || u.source.any fun f => badSpace u f.space.toNat), vBadSpace),
    (dst && badSpace u b.dstSpace, vBadSpace),
    (b.op == 0x46 && b.alg != 0x31, vBadAlg),
    (b.op == 0x42 && !b.compare, vBadParam),
    (decide (2 ^ 61 - 1 < b.len), vBadSize),
    (b.op == 0x45 && u.nat 8 8 % 4 == 3, vBadParam),
    (b.op == 0x46 && b.len != 132, vBadSize),
    (b.op == 0x46 && !b.compare, vBadParam)]

/-- LADLE_RANGE of a digest job: source, destination, auxiliary area (R84, R334). `keyLen` is the length of an imported key. -/
def State.dgRange (s : State) (u : Submission) : Option Verdict :=
  let b := dgBlock u
  let run := s.dgRun u
  let keyLen := importLen (s.entry (hIndex run.handle)).type
  let src := b.op != 0x43 && b.op != 0x45
  let dst := b.op != 0x44 && b.op != 0x46 && !b.compare
  orElse? (if src then s.sourceRange? u else none)
    (orElse? (if dst && (b.finish || b.op == 0x43 || b.op == 0x45) then
        s.destRange? u b.dstSpace b.dst
          (if b.op = 0x43 then (if ((s.slot u.slotKey).handle = 0 && !(s.slot u.slotKey).imported) then 400 else 416)
           else run.out)
      else none)
      (if run.auxLen keyLen = 0 || b.op == 0x43 || b.op == 0x44 || b.op == 0x46 then none
       else s.ladleRange u.slice? false b.auxOff (run.auxLen keyLen)))

/-- The slot checks of a digest job (R88, R92): MALFORMED, when the job's turn at the slot has come. -/
def State.slotCheck (s : State) (u : Submission) : Option Verdict :=
  let b := dgBlock u
  let x := s.slot u.slotKey
  if b.op = 0x43 then (if x.state = .open_ then none else some vCtxEmpty)
  else if 0x40 ≤ b.op ∧ b.op ≤ 0x42 ∧ !b.start then
    match x.state with
    | .empty => some vCtxEmpty
    | .open_ => if x.alg = b.alg && x.handle = b.handle then
        (if 2 ^ 61 - 1 < x.count.toNat + b.len then some vBadSize else none) else some vBadAlg
    | .finished => none
  else none

/-- A digest job that BAD_SIZE refuses because its data takes the slot's count past 2^61 − 1 B (R86). -/
def State.overCount (s : State) (u : Submission) (v : Verdict) : Bool :=
  let b := dgBlock u
  let x := s.slot u.slotKey
  let count := if !b.start && x.state == .open_ then x.count.toNat else 0
  v == vBadSize && decide (0x40 ≤ b.op ∧ b.op ≤ 0x42) && decide (2 ^ 61 - 1 < count + b.len)

/-- The OPS bit that a digest job uses (Table 3.3). DESIGN CHOICE: a keyed TAP, for which the table lists none, needs MAC_GEN
(assumption 80). -/
def dgOp (u : Submission) : Option Nat :=
  if u.op = 0x41 then some opMacGen
  else if u.op = 0x42 then some opMacVerify
  else if u.op = 0x46 then some opStamp
  else if u.op = 0x45 ∧ keyedAlg (dgBlock u).alg = true then some opMacGen
  else none

/-- A digest job takes a counted use: MAC_GEN, MAC_VERIFY (Table 3.3), and a TAP under an imported key (R104). -/
def dgCounted (u : Submission) : Bool := u.op == 0x41 || u.op == 0x42 || (u.op == 0x45 && (dgBlock u).import_)

/-- The handle a digest job uses: its own, or on a slot that it continues or restarts the slot's (R88). -/
def State.dgHandle (s : State) (u : Submission) : Word := (s.dgRun u).handle

/-- The handle checks of a digest job (R64, R85, R104). -/
def State.dgHandleCheck (s : State) (u : Submission) : Option Verdict :=
  let b := s.dgRun u
  let keyType := (match algInfo b.alg with | some a => a.keyType | none => none)
  if b.op = 0x40 ∧ keyType.isSome then some vTypeOp
  else if (b.op = 0x41 ∨ b.op = 0x42) ∧ keyType.isNone then some vTypeOp
  else match dgOp u with
    | none => none
    | some op =>
      let h := s.dgHandle u
      if op = opStamp then
        match s.checkHandle u.issuer h false with
        | .error v => some v
        | .ok e => if e.type != 0x18 then some vTypeOp else opCheck e op
      else if !dgCounted u then
        match s.checkHandle u.issuer h false with
        | .error v => some v
        | .ok e => if some e.type != keyType then some vTypeOp else opCheck e op
      else
        match s.checkUse u.issuer h op with
        | .error v => some v
        | .ok e =>
          if some e.type != keyType then some vTypeOp
          else if b.import_ && e.policy &&& 3 != 1 then some vImport
          else none

/-! ### Cipher jobs (R97 to R104) -/

/-- Fields of a cipher job block (Table 3.8). -/
structure CpBlock where
  op : Byte
  mode : Byte
  ivGen : Bool
  import_ : Bool
  handle : Word
  len : Nat
  dst : Nat
  aadLen : Nat
  handle2 : Word
  ivOff : Nat
  tagLen : Nat
  nonceLen : Nat
  srcSpace : Nat
  dstSpace : Nat

/-- Read a cipher job block. -/
def cpBlock (u : Submission) : CpBlock :=
  let ctl := u.nat 2 2
  let sp := u.nat 0x2E 1
  { op := u.op, mode := octet 1 u.block, ivGen := ctl.testBit 0, import_ := ctl.testBit 1, handle := u.field 32 4 4,
    len := u.nat 0x10 8, dst := u.nat 0x18 8, aadLen := u.nat 0x20 4, handle2 := u.field 32 0x24 4,
    ivOff := u.nat 0x28 4, tagLen := u.nat 0x2C 1, nonceLen := u.nat 0x2D 1, srcSpace := sp % 4,
    dstSpace := sp / 4 % 4 }

/-- The opcodes of a mode (Table 3.7). -/
def cpModeOps (mode op : Byte) : Bool :=
  match mode with
  | 0x00 => op == 0x50 || op == 0x51
  | 0x01 => op == 0x50 || op == 0x51
  | 0x02 => op == 0x50 || op == 0x51
  | 0x03 => op == 0x50 || op == 0x51 || op == 0x52 || op == 0x53
  | 0x04 => op == 0x50 || op == 0x51
  | 0x05 => op == 0x50 || op == 0x51
  | 0x06 => op == 0x52 || op == 0x53
  | 0x07 => op == 0x54 || op == 0x55
  | 0x08 => op == 0x54 || op == 0x55
  | _ => false

/-- The device builds the nonce (R99). -/
def CpBlock.built (b : CpBlock) : Bool :=
  (b.mode == 0x03 && (b.op == 0x50 || b.op == 0x52)) || ((b.mode == 0x04 || b.mode == 0x02) && b.op == 0x50)

/-- The result is a compare code (R101). -/
def CpBlock.verifies (b : CpBlock) : Bool :=
  b.op == 0x53 || b.op == 0x55 || ((b.mode == 0x03 || b.mode == 0x04) && b.op == 0x51)

/-- The output's range reads zero until the job completes, and is at most 256 KiB (R101). -/
def CpBlock.guarded (b : CpBlock) : Bool := b.verifies && b.op != 0x53

/-- The mode carries a tag. -/
def CpBlock.tagged (b : CpBlock) : Bool := b.mode == 0x03 || b.mode == 0x04 || b.mode == 0x06

/-- The parameter area is read: a caller's IV, nonce or tweak, an expected tag, or a raw key (Table 3.8). -/
def CpBlock.params (b : CpBlock) : Bool :=
  b.import_ || (b.mode == 0x01 && !b.ivGen) || (b.mode == 0x02 && b.op == 0x51) ||
  ((b.mode == 0x03 || b.mode == 0x04) && !b.built) || b.mode == 0x05 || (b.mode == 0x06 && b.op == 0x53)

/-- Octets of the parameter area that a job reads. -/
def CpBlock.paramLen (b : CpBlock) (keyLen : Nat) : Nat :=
  if !b.params then 0 else if b.import_ then 32 + keyLen else if b.verifies then 32 else 16

/-- Octets of output (R98 to R101). -/
def CpBlock.out (b : CpBlock) : Nat :=
  if b.op = 0x50 then
    (if b.built then 12 else 0) + (if b.ivGen then 16 else 0) + b.len + (if b.mode = 0x03 ∨ b.mode = 0x04 then b.tagLen else 0)
  else if b.op = 0x51 then b.len
  else if b.op = 0x52 then (if b.built then 12 else 0) + b.tagLen
  else if b.op = 0x53 then 0
  else if b.op = 0x54 then up8 b.len + 8
  else b.len - 8

/-- A length outside its row of Table 3.7. -/
def CpBlock.badSize (b : CpBlock) : Bool :=
  match b.mode with
  | 0x00 => b.len % 16 != 0
  | 0x01 => b.len % 16 != 0
  | 0x02 => b.len == 0 || decide (2 ^ 36 < b.len)
  | 0x03 => decide (2 ^ 36 - 32 < b.len)
  | 0x04 => decide (2 ^ 24 - 1 < b.len)
  | 0x05 => decide (b.len < 16) || decide (2 ^ 24 < b.len)
  | 0x06 => decide (2 ^ 36 < b.len)
  | 0x07 =>
    if b.op = 0x54 then b.len % 8 != 0 || decide (b.len < 16) || decide (65536 < b.len)
    else b.len % 8 != 0 || decide (b.len < 24) || decide (65544 < b.len)
  | _ =>
    if b.op = 0x54 then b.len == 0 || decide (65536 < b.len)
    else b.len % 8 != 0 || decide (b.len < 16) || decide (65544 < b.len)

/-- A tag or nonce length outside its row of Table 3.7. -/
def CpBlock.badParam (b : CpBlock) : Bool :=
  match b.mode with
  | 0x03 => decide (b.tagLen < 12) || decide (16 < b.tagLen) || b.nonceLen != 12
  | 0x04 => decide (b.tagLen < 4) || decide (16 < b.tagLen) || b.tagLen % 2 != 0 ||
      (b.op == 0x51 && (decide (b.nonceLen < 7) || decide (13 < b.nonceLen)))
  | 0x06 => decide (b.tagLen < 8) || decide (16 < b.tagLen)
  | _ => false

/-- Non-zero unused fields and reserved bits of a cipher job. -/
def cpReserved (u : Submission) : Bool :=
  let b := cpBlock u
  u.nat 2 2 / 4 != 0 || u.nat 0x2E 1 / 16 != 0 || octet 0x2F u.block != 0 ||
  (b.ivGen && (b.mode != 0x01 || b.op != 0x50)) || (b.aadLen != 0 && b.mode != 0x03 && b.mode != 0x04) ||
  (b.handle2 != 0 && b.mode != 0x05) || (b.tagLen != 0 && !b.tagged) ||
  (b.nonceLen != 0 && b.mode != 0x03 && !(b.mode == 0x04 && b.op == 0x51)) || (b.ivOff != 0 && !b.params) ||
  (b.op == 0x53 && (b.dst != 0 || b.dstSpace != 0))

/-- The other MALFORMED checks of a cipher job, in the order of the rules that give them (R97, R98, R101; assumption 92), then
LADLE_RANGE. DESIGN CHOICE: R97 gives BAD_MODE to an unlisted MODE; a listed MODE with an opcode that its row of Table 3.7
lacks gets it too (assumption 91). -/
def State.cpFormat (s : State) (u : Submission) : Option Verdict :=
  let b := cpBlock u
  let keyLen := importLen (s.entry (hIndex b.handle)).type
  let dst := b.op != 0x53
  let confined := b.guarded || b.op == 0x54
  let fmt := firstFailure [
    (!cpModeOps b.mode b.op, vBadMode),
    (b.badSize, vBadSize),
    (b.badParam, vBadParam),
    (badSpace u b.srcSpace || u.source.any fun f => badSpace u f.space.toNat, vBadSpace),
    (dst && badSpace u b.dstSpace, vBadSpace),
    (confined && b.dstSpace == 1, vBadSpace),
    (b.guarded && decide (0x40000 < b.out), vBadSize)]
  orElse? fmt (orElse? (s.sourceRange? u)
    (orElse? (if dst then s.destRange? u b.dstSpace b.dst b.out else none)
      (if b.paramLen keyLen = 0 then none else s.ladleRange u.slice? false b.ivOff (b.paramLen keyLen))))

/-- The OPS bit that a cipher job uses. -/
def cpOp (op : Byte) : Nat :=
  if op = 0x50 then opEncrypt else if op = 0x51 then opDecrypt else if op = 0x52 then opMacGen
  else if op = 0x53 then opMacVerify else if op = 0x54 then opWrap else opUnwrap

/-- The handle checks of a cipher job (R64, R102, R104). DESIGN CHOICE where R102 names no status: XTS handles of different AES
types, or of AES-192, give ATTR_DENIED, TYPE_OP_MISMATCH (assumption 91). -/
def State.cpHandleCheck (s : State) (u : Submission) : Option Verdict :=
  let b := cpBlock u
  let aes (e : Handle) : Bool := 0x10 ≤ e.type && e.type ≤ 0x12
  match s.checkUse u.issuer b.handle (cpOp b.op) with
  | .error v => some v
  | .ok e =>
    if !aes e then some vTypeOp
    else if b.mode = 0x05 then
      match s.checkUse u.issuer b.handle2 (cpOp b.op) with
      | .error v => some v
      | .ok f =>
        if e.type != f.type || e.type == 0x11 then some vTypeOp
        else if b.handle = b.handle2 || (e.parent == f.parent && e.rootParent == f.rootParent &&
            e.label == f.label && e.generation == f.generation) then some (verdict St.attrDenied 0x31)
        else if b.import_ && e.policy &&& 3 != 1 then some vImport
        else none
    else if b.import_ && e.policy &&& 3 != 1 then some vImport
    else none

/-! ### Big-number jobs (R116 to R123) -/

/-- Fields of a big-number job block (Tables 4.4 and 4.5). -/
structure BnBlock where
  op : Byte
  alg : Byte
  prehashed : Bool
  deterministic : Bool
  pad : Nat
  hash : Nat
  extKey : Bool
  handle : Word
  len : Nat
  dst : Nat
  paramOff : Nat
  paramLen : Nat
  ctxLen : Nat
  saltLen : Nat
  outLen : Nat
  srcSpace : Nat
  dstSpace : Nat

/-- Read a big-number job block. -/
def bnBlock (u : Submission) : BnBlock :=
  let ctl := u.nat 2 2
  let sp := u.nat 0x27 1
  { op := u.op, alg := octet 1 u.block, prehashed := ctl.testBit 0, deterministic := ctl.testBit 1,
    pad := ctl / 4 % 4, hash := ctl / 16 % 4, extKey := ctl.testBit 6, handle := u.field 32 4 4,
    len := u.nat 0x10 8, dst := u.nat 0x18 8, paramOff := u.nat 0x20 4, paramLen := u.nat 0x24 2,
    ctxLen := u.nat 0x26 1, saltLen := u.nat 0x28 2, outLen := u.nat 0x2A 2, srcSpace := sp % 4,
    dstSpace := sp / 4 % 4 }

/-- Families of ALG. -/
def isEcdsa (a : Byte) : Bool := 0x20 ≤ a && a ≤ 0x22
def isEddsa (a : Byte) : Bool := a == 0x28 || a == 0x29
def isMontgomery (a : Byte) : Bool := a == 0x2A || a == 0x2B
def isMlkem (a : Byte) : Bool := 0x40 ≤ a && a ≤ 0x42
def isMldsa (a : Byte) : Bool := 0x48 ≤ a && a ≤ 0x4A
def isRsaAlg (a : Byte) : Bool := isRsa a || a == 0x3F

/-- The ALGs of an opcode (Table 4.2). -/
def bnAlgOk (op a : Byte) : Bool :=
  let signs := isEcdsa a || isEddsa a || isRsa a || isMldsa a
  if op = 0x60 then signs
  else if op = 0x61 then signs || a == 0x3F
  else if op = 0x62 then isEcdsa a || isMontgomery a || isMlkem a
  else if op = 0x63 then isMlkem a
  else if op = 0x64 then isRsa a
  else if op = 0x65 then isRsaAlg a
  else signs || isMontgomery a || isMlkem a

/-- A mode of the job that may take EXTKEY. -/
def bnExtOp (op : Byte) : Bool := op == 0x61 || op == 0x63 || op == 0x65

/-- Octets of a curve's field. -/
def fieldLen (a : Byte) : Nat := if a = 0x20 then 32 else if a = 0x21 then 48 else 66

/-- Octets of an RSA modulus: by type, or by NBITS of the external key's header. -/
def rsaLen (a : Byte) (params : Bytes) (ext : Bool) : Nat :=
  if ext || a == 0x3F then (ofLE (slice 0 2 params) + 7) / 8 else rsaBytes a

/-- Octets of a signature (Table 4.7). -/
def sigLen (a : Byte) (k : Nat) : Nat :=
  if isEcdsa a then 2 * fieldLen a
  else if a = 0x28 then 64 else if a = 0x29 then 114
  else if isRsaAlg a then k
  else if a = 0x48 then 2420 else if a = 0x49 then 3309 else 4627

/-- Octets that an external key may have (Table 4.6, R119). -/
def extKeyLens (a : Byte) (params : Bytes) : List Nat :=
  if isEcdsa a then [1, 1 + fieldLen a, 1 + 2 * fieldLen a]
  else if a = 0x28 then [32] else if a = 0x29 then [57]
  else if isRsaAlg a then [4 + rsaLen a params true + (octet 2 params).toNat]
  else if a = 0x40 then [800] else if a = 0x41 then [1184] else if a = 0x42 then [1568]
  else if a = 0x48 then [1312] else if a = 0x49 then [1952] else [2592]

/-- Offset of the end of the parameter area's last field, given the length of the external key (R119). -/
def BnBlock.paramEnd (b : BnBlock) (keyLen k : Nat) : Nat :=
  let a := if b.extKey then keyLen else 0
  let c := if b.op = 0x61 then up8 a + sigLen b.alg k else a
  if b.ctxLen = 0 then c else up8 c + b.ctxLen

/-- The length of the external key that PARAMLEN implies, if any fits. DESIGN CHOICE: an EXTKEY value whose length fits no form
of its ALG is found here, so it gives BAD_PARAM (R119; assumption 93). -/
def BnBlock.keyLen (b : BnBlock) (params : Bytes) : Option Nat :=
  let k := rsaLen b.alg params b.extKey
  (if b.extKey then extKeyLens b.alg params else [0]).find? fun n => b.paramEnd n k == b.paramLen

/-- Fields of the parameter area: key, signature, context (R119). -/
def BnBlock.paramKey (b : BnBlock) (params : Bytes) : Bytes :=
  if b.extKey then params.take ((b.keyLen params).getD 0) else []
def BnBlock.paramSig (b : BnBlock) (params : Bytes) : Bytes :=
  if b.op = 0x61 then
    slice (if b.extKey then up8 ((b.keyLen params).getD 0) else 0)
      (sigLen b.alg (rsaLen b.alg params b.extKey)) params
  else []

/-- Octets of the public key that PUBLIC writes (Table 4.6). -/
def publicLen (a : Byte) : Nat :=
  if isEcdsa a then 1 + 2 * fieldLen a
  else if a = 0x28 ∨ a = 0x2A then 32 else if a = 0x29 then 57 else if a = 0x2B then 56
  else if isRsa a then 4 + rsaBytes a + 3
  else if a = 0x40 then 800 else if a = 0x41 then 1184 else if a = 0x42 then 1568
  else if a = 0x48 then 1312 else if a = 0x49 then 1952 else 2592

/-- Octets of an ML-KEM ciphertext. -/
def kemLen (a : Byte) : Nat := if a = 0x40 then 768 else if a = 0x41 then 1088 else 1568

/-- Greatest number of octets that an operation writes (Table 4.7). DESIGN CHOICE: of DECRYPT it is the greatest message,
k − 2h − 2 octets, against which BUFFER_SMALL is judged and which is zeroed on NOT_EQUAL (R120; assumption 93). -/
def BnBlock.out (b : BnBlock) (k : Nat) : Nat :=
  if b.op = 0x60 then sigLen b.alg k
  else if b.op = 0x61 then 0
  else if b.op = 0x62 then
    (if isEcdsa b.alg then fieldLen b.alg else if b.alg = 0x2B then 56 else 32)
  else if b.op = 0x63 then kemLen b.alg + 32
  else if b.op = 0x64 then k - 2 * hashLen b.hash - 2
  else if b.op = 0x65 then k
  else publicLen b.alg

/-- Outputs marked secret (Table 4.7). -/
def BnBlock.secret (b : BnBlock) : Bool := b.op == 0x62 || b.op == 0x63 || b.op == 0x64

/-- A wrong length of the main input (Table 4.4). -/
def BnBlock.badLen (b : BnBlock) (k : Nat) : Bool :=
  if b.op = 0x60 ∨ b.op = 0x61 then
    (if b.prehashed then b.len != (if isEddsa b.alg then 64 else hashLen b.hash) else decide (2 ^ 40 < b.len))
  else if b.op = 0x62 then
    (if isEcdsa b.alg then b.len != 1 && b.len != 1 + fieldLen b.alg && b.len != 1 + 2 * fieldLen b.alg
     else if b.alg = 0x2A then b.len != 32 else if b.alg = 0x2B then b.len != 56 else b.len != kemLen b.alg)
  else if b.op = 0x64 then b.len != k
  else if b.op = 0x65 then decide (k < b.len + 2 * hashLen b.hash + 2)
  else b.len != 0

/-- A PAD, HASH, SALTLEN or CTXLEN that does not fit (R118). -/
def BnBlock.badParam (b : BnBlock) : Bool :=
  let sig := b.op == 0x60 || b.op == 0x61
  let label := b.op == 0x64 || b.op == 0x65
  (isRsaAlg b.alg && sig && decide (1 < b.pad)) || (label && b.pad != 2) || b.hash == 3 ||
  decide (hashLen b.hash < b.saltLen) ||
  (b.ctxLen != 0 && !(label || (sig && (b.alg == 0x29 || isMldsa b.alg))))

/-- Non-zero unused fields and reserved bits of a big-number job. -/
def bnReserved (u : Submission) : Bool :=
  let b := bnBlock u
  let sig := b.op == 0x60 || b.op == 0x61
  let noSrc := b.op == 0x63 || b.op == 0x66
  u.nat 2 2 / 128 != 0 || u.nat 0x27 1 / 16 != 0 || !zeroRange 0x2C 0x30 u.block ||
  (b.extKey && (b.handle != 0 || !bnExtOp b.op)) ||
  (b.prehashed && !(sig && !isMontgomery b.alg)) ||
  (b.deterministic && !(b.op == 0x60 && (isEcdsa b.alg || isMldsa b.alg))) ||
  (b.pad != 0 && !isRsaAlg b.alg) || (b.pad != 0 && b.op == 0x66) ||
  (b.hash != 0 && !((sig && (isEcdsa b.alg || isRsaAlg b.alg || (isMldsa b.alg && b.prehashed))) ||
    b.op == 0x64 || b.op == 0x65)) ||
  (b.saltLen != 0 && !(sig && isRsaAlg b.alg && b.pad == 1)) ||
  (noSrc && (u.nat 8 8 != 0 || b.srcSpace != 0 || b.len != 0)) ||
  (b.op == 0x61 && (b.dst != 0 || b.dstSpace != 0 || b.outLen != 0)) ||
  (b.paramOff != 0 && b.paramLen == 0)

/-- Octets between the fields of the parameter area are zero, and so is the fourth octet of an RSA key's header (R119). -/
def BnBlock.gapsZero (b : BnBlock) (params : Bytes) : Bool :=
  let a := if b.extKey then (b.keyLen params).getD 0 else 0
  let c := if b.op = 0x61 then up8 a + sigLen b.alg (rsaLen b.alg params b.extKey) else a
  zeroRange a (if b.op = 0x61 then up8 a else a) params && (b.ctxLen == 0 || zeroRange c (up8 c) params) &&
    (!(b.extKey && isRsaAlg b.alg) || octet 3 params == 0)

/-- ELEN of an external RSA key's header is 1 to 32 (Table 4.6). -/
def BnBlock.expLenOk (b : BnBlock) (params : Bytes) : Bool :=
  !(b.extKey && isRsaAlg b.alg) || (1 ≤ octet 2 params && octet 2 params ≤ 32)

/-- The parameter area as it stands in the Ladle. -/
def State.bnParams (s : State) (u : Submission) : Bytes :=
  let b := bnBlock u
  s.jobRead u 0 b.paramOff b.paramLen

/-- The other MALFORMED checks of a big-number job, then LADLE_RANGE (R116 to R120). DESIGN CHOICE where the rules name no
detail: the reserved HASH value, a PARAMOFF that is not a multiple of 8 and a non-zero fourth octet of an RSA key's header give
BAD_PARAM, and an ELEN outside 1 to 32 gives BAD_SIZE (assumption 93). -/
def State.bnFormat (s : State) (u : Submission) : Option Verdict :=
  let b := bnBlock u
  let params := s.bnParams u
  let k := rsaLen b.alg params b.extKey
  let src := b.op != 0x63 && b.op != 0x66
  let dst := b.op != 0x61
  let fmt := firstFailure [
    (!bnAlgOk b.op b.alg, vBadAlg),
    (src && (badSpace u b.srcSpace || u.source.any fun f => badSpace u f.space.toNat), vBadSpace),
    (dst && (badSpace u b.dstSpace || (b.secret && b.dstSpace == 1)), vBadSpace),
    (b.badParam || b.paramOff % 8 != 0, vBadParam),
    ((b.keyLen params).isNone || !b.gapsZero params, vBadParam),
    (!b.expLenOk params, vBadSize),
    (b.extKey && isRsa b.alg && k != rsaBytes b.alg, vBadSize),
    (b.badLen k, vBadSize),
    (dst && decide (b.outLen < b.out k), vSmall)]
  let params? := if b.paramLen = 0 then none else s.ladleRange u.slice? false b.paramOff b.paramLen
  orElse? fmt (orElse? (if src then s.sourceRange? u else none)
    (orElse? (if dst then s.destRange? u b.dstSpace b.dst (b.out k) else none) params?))

/-- The OPS bit that a big-number job uses with a handle (Table 4.2). -/
def bnOp (op : Byte) : Option Nat :=
  if op = 0x60 then some opSign else if op = 0x61 then some opVerify else if op = 0x62 then some opAgree
  else if op = 0x64 then some opDecrypt else if op = 0x65 then some opEncrypt else none

/-- The handle checks of a big-number job (R64, R116, R123). -/
def State.bnHandleCheck (s : State) (u : Submission) : Option Verdict :=
  let b := bnBlock u
  if b.extKey then none
  else match s.checkHandle u.issuer b.handle false with
    | .error v => some v
    | .ok e =>
      if e.type != b.alg then some vTypeOp
      else match bnOp b.op with
        | none => none
        | some op => match s.checkUse u.issuer b.handle op with | .error v => some v | .ok _ => none

/-! ### RANDOM and DRAW (R156, R157) -/

/-- LEN, DST and spaces of RANDOM and DRAW. -/
def rndReserved (u : Submission) : Bool :=
  if u.op = 0x70 then
    octet 1 u.block != 0 || u.nat 2 2 / 2 != 0 || !zeroRange 4 0x10 u.block || !zeroRange 0x20 0x22 u.block ||
    octet 0x22 u.block &&& 0xF3 != 0 || !zeroRange 0x23 0x30 u.block
  else
    !zeroRange 1 4 u.block || !zeroRange 0x12 0x18 u.block || octet 0x22 u.block &&& 0xF3 != 0 ||
    !zeroRange 0x23 0x30 u.block

/-- N, K and octets of a draw. -/
def drawN (u : Submission) : Nat := u.nat 4 4
def drawK (u : Submission) : Nat := u.nat 0x10 2

/-- Octets that RANDOM or DRAW writes. -/
def rndOut (u : Submission) : Nat := if u.op = 0x70 then u.nat 0x10 8 else 4 * drawK u

/-- Destination space of RANDOM and DRAW. -/
def rndSpace (u : Submission) : Nat := u.nat 0x22 1 / 4 % 4

/-- The other MALFORMED checks of RANDOM and DRAW, then LADLE_RANGE. -/
def State.rndFormat (s : State) (u : Submission) : Option Verdict :=
  let n := drawN u
  let k := drawK u
  let fmt := if u.op = 0x70 then firstFailure [
      (badSpace u (rndSpace u), vBadSpace),
      (u.nat 0x10 8 == 0 || decide (65536 < u.nat 0x10 8), vBadSize)]
    else firstFailure [
      (badSpace u (rndSpace u), vBadSpace),
      (decide (n < 2) || k == 0 || decide (n < k) || decide (1000 < k), vBadParam),
      (decide (u.nat 0x20 2 < 4 * k), vSmall)]
  orElse? fmt (s.destRange? u (rndSpace u) (u.nat 0x18 8) (rndOut u))

/-! ### All of R494 -/

/-- An assigned opcode. -/
def assignedOp (op : Byte) : Bool :=
  isKtOp op || isDigestOp op || isCipherOp op || isBnOp op || op == 0x70 || op == 0x71

/-- An issuer that the opcode's table does not name (R85, R97). -/
def badIssuer (u : Submission) : Bool :=
  (u.op == 0x45 && u.issuer != .s) || (isCipherOp u.op && octet 1 u.block == 0 && u.issuer != .s)

/-- The function of Table 16.2 that a job is. Uses of a key that Table 2.6 does not count stand with QUERY
(assumption 12). -/
def jobFn (u : Submission) : FnClass :=
  let op := u.op
  if op = 0x40 ∨ op = 0x43 ∨ op = 0x44 ∨ op = 0x70 ∨ op = 0x45 then .open_
  else if op = 0x46 ∨ op = 0x66 then .keyRead
  else if bnExtOp op then
    (if (bnBlock u).extKey then .open_ else if op = 0x65 then .keyUse else .keyRead)
  else .keyUse

/-- The length that a job declares, for a job that reads a source (R331). -/
def declared (u : Submission) : Option Nat :=
  let op := u.op
  if op = 0x40 ∨ op = 0x41 ∨ op = 0x42 ∨ op = 0x44 ∨ op = 0x46 then some (dgBlock u).len
  else if isCipherOp op then some ((cpBlock u).aadLen + (cpBlock u).len)
  else if isBnOp op ∧ op ≠ 0x63 ∧ op ≠ 0x66 then some (bnBlock u).len
  else none

/-- The declared-length check (R331). -/
def lengthCheck (u : Submission) : Option Verdict :=
  match declared u with
  | none => none
  | some n =>
    if u.delivered < n then some (verdict St.lengthShort 0)
    else if n < u.delivered then some (verdict St.lengthLong 0)
    else none

/-- The S-issued work that SVC_UNAVAILABLE refuses while the secure world restarts: TAP, CTX_SAVE and CTX_RESTORE
(Table 3.9), every big-number job (Table 4.12), RANDOM and DRAW. -/
def secureService (op : Byte) : Bool :=
  op == 0x43 || op == 0x44 || op == 0x45 || isBnOp op || op == 0x70 || op == 0x71

/-- All the start checks of an engine job, RANDOM or DRAW: none passes (R331, R494). -/
def State.jobCheck (s : State) (u : Submission) : Option Verdict :=
  let op := u.op
  let reserved := if isDigestOp op then dgReserved u else if isCipherOp op then cpReserved u
    else if isBnOp op then bnReserved u else rndReserved u
  let format := if isDigestOp op then orElse? (s.dgFormat u) (orElse? (s.slotCheck u) (s.dgRange u))
    else if isCipherOp op then s.cpFormat u else if isBnOp op then s.bnFormat u else s.rndFormat u
  let handle := if isDigestOp op then s.dgHandleCheck u else if isCipherOp op then s.cpHandleCheck u
    else if isBnOp op then s.bnHandleCheck u else none
  orElse? (lengthCheck u)
    (orElse? (firstFailure [
        (u.issuer == .s && s.worlds.restarting && secureService op, verdict St.svcUnavailable 0),
        (!assignedOp op, verdict St.malformed 0x20),
        (badIssuer u, vLevel),
        (!s.modeAllows u.issuer (jobFn u), modeRefusal),
        (reserved, vReserved)])
      (orElse? format handle))

/-! ### Translation at the start (R259, R288) -/

/-- Where a job's output goes, and how long it is: space, address, octets. -/
def State.destOf (s : State) (u : Submission) : Nat × Nat × Nat :=
  if isDigestOp u.op then
    let b := dgBlock u
    let x := s.slot u.slotKey
    if b.op = 0x43 then (b.dstSpace, b.dst, if x.handle = 0 && !x.imported then 400 else 416)
    else (b.dstSpace, b.dst, if b.compare || b.op == 0x44 || !(b.finish || b.op == 0x45) then 0 else (s.dgRun u).out)
  else if isCipherOp u.op then ((cpBlock u).dstSpace, (cpBlock u).dst, if u.op = 0x53 then 0 else (cpBlock u).out)
  else if isBnOp u.op then
    let b := bnBlock u
    (b.dstSpace, b.dst, if u.op = 0x61 then 0 else b.out (rsaLen b.alg (s.bnParams u) b.extKey))
  else (rndSpace u, u.nat 0x18 8, rndOut u)

/-- The ranges of space 2 that a job reads and writes: whether it writes, address, octets. -/
def State.jobRanges (s : State) (u : Submission) : List (Bool × Nat × Nat) :=
  let d := s.destOf u
  ((u.source.filter fun f => f.space == 2).map fun f => (false, f.addr.toNat, f.len.toNat)) ++
    (if d.1 = 2 && d.2.2 != 0 then [(true, d.2.1, d.2.2)] else [])

/-- The translations of ranges, none if one of them fails. -/
def State.reachAll (s : State) (u : Submission) : List (Bool × Nat × Nat) → Option (List Reach)
  | [] => some []
  | r :: rs =>
    match s.reachOf u r.1 r.2.1 r.2.2, s.reachAll u rs with
    | some x, some y => some (x ++ y)
    | _, _ => none

/-- A job with its space-2 addresses translated, with the maps now in force (R259). None: it completes with ACCESS_FAULT. -/
def State.withReach (s : State) (u : Submission) : Option Submission :=
  (s.reachAll u (s.jobRanges u)).map fun l => { u with reach := some l }

/-! ### Draws (R100, R121, R156, R158) -/

/-- The slice whose channel a job draws from. -/
def Submission.channel (u : Submission) : Option (BitVec 6) := u.slice?

/-- A draw of a slice's channel; H and S without a slice draw from NONCE. -/
def Submission.sliceDraw (u : Submission) (n : Nat) (fresh : Bool) : List Draw :=
  if n = 0 then []
  else match u.channel with
    | some x => [.slice x n fresh]
    | none => [.priv .nonce n]

/-- Octets that a big-number job draws from its slice's channel (R121). DESIGN CHOICE: the OAEP seed of ENCRYPT, which the
rule's list does not name, is drawn there too, as long as the hash (assumption 81). -/
def bnSliceOctets (u : Submission) : Nat :=
  let b := bnBlock u
  if b.op = 0x60 then
    (if isEcdsa b.alg then (if b.deterministic then 0 else 32)
     else if isMldsa b.alg then (if b.deterministic then 0 else 32)
     else if isRsa b.alg ∧ b.pad = 1 then b.saltLen else 0)
  else if b.op = 0x63 then 32
  else if b.op = 0x65 then hashLen b.hash
  else 0

/-- Octets of blinding that both runs draw (R121): 8 for each factor of each run. -/
def bnBlindOctets (u : Submission) : Nat :=
  let b := bnBlock u
  if b.extKey || isMlkem b.alg || isMldsa b.alg then 0
  else if isRsaAlg b.alg then (if b.op = 0x60 ∨ b.op = 0x64 then 48 else 0)
  else 16

/-- The draws of a job, in order. -/
def jobDraws (u : Submission) : List Draw :=
  let op := u.op
  if isKtOp op then ktDraws op
  else if op = 0x70 then
    (match u.issuer.slice? with
     | some x => [.slice x (u.nat 0x10 8) ((u.nat 2 2).testBit 0)]
     | none => [.priv .nonce (u.nat 0x10 8)])
  else if op = 0x71 then [.priv .draw 32]
  else if isCipherOp op then (if (cpBlock u).ivGen then u.sliceDraw 16 false else [])
  else if isBnOp op then
    u.sliceDraw (bnSliceOctets u) false ++ (if bnBlindOctets u = 0 then [] else [.priv .blind (bnBlindOctets u)])
  else []

end Sys2Proof.Machine
end

