-- ==== Sys2Proof/Machine/BnMath.lean ====
section
/-! DEFINITION. What a big-number operation computes: public keys, the validation checks of Table 4.9, the outputs of
Table 4.7 (R117, R120, R121, R123, R132, R133). The standards' own functions are those of Curves, Rsa and Lattice. -/

namespace Sys2Proof.Machine

/-- A node's public key in the format of Table 4.6 (R123). -/
def publicKeyOf (t : Byte) (secret : Bytes) : Bytes :=
  if isEcdsa t then (curveOf t).encode ((curveOf t).mul (ofBE secret) (curveOf t).base)
  else if t = 0x28 then ed25519.public secret
  else if t = 0x29 then ed448.public secret
  else if isMontgomery t then xdh (t == 0x2B) secret (xdhBase (t == 0x2B))
  else if isRsa t then rsaPublicBytes (rsaBytes t) secret
  else if isMlkem t then kemPublic t secret
  else (dsaKey (dsaParams t) secret).public

/-- The Edwards curve of a type. -/
def edwardsOf (t : Byte) : Edwards := if t = 0x28 then ed25519 else ed448

/-- The inputs of a big-number operation: its block, the private key, the public key it works with, the parameter area, what
each pass over the message has given, and the values drawn from the slice's channel. Without a hashing pass the one input is
SRC itself. -/
structure BnInput where
  block : BnBlock
  key : Bytes
  pub : Bytes
  params : Bytes
  msg : List Bytes
  rand : Bytes

namespace BnInput

variable (x : BnInput)

/-- What pass `i` over the message read. -/
def pass (i : Nat) : Bytes := x.msg.getD i (x.msg.headD [])

/-- The message digest of an ECDSA or RSA signature (R122). -/
def digest : Bytes := if x.block.prehashed then x.pass 0 else hashBy x.block.hash (x.pass 0)

/-- The context string or the OAEP label: the last CTXLEN octets of the parameter area (R119). -/
def context : Bytes := x.params.drop (x.params.length - x.block.ctxLen)

/-- The signature that VERIFY is given. -/
def sig : Bytes := x.block.paramSig x.params

/-- The message that ML-DSA signs: pure, or HashML-DSA of a digest. -/
def dsaInput : Bytes := dsaMessage (if x.block.prehashed then some x.block.hash else none) x.context (x.pass 0)

/-- The message representative μ of ML-DSA, of the public key and the formatted message. -/
def mu (pk : Bytes) : Bytes := shake256 (shake256 pk 64 ++ x.dsaInput) 64

/-- What a signature's run is given of its message (R122): what the pool has hashed it to, or the digest that SRC holds. Any
other operation is given SRC. -/
def fed : Bytes :=
  let b := x.block
  if b.op = 0x60 then
    if b.prehashed then x.pass 0
    else if isEddsa b.alg then (edwardsOf b.alg).signHashes x.key (x.pass 0) (x.pass 1) x.context
    else if isMldsa b.alg then x.mu (dsaKey (dsaParams b.alg) x.key).public
    else x.digest
  else if b.op = 0x61 then
    if b.prehashed then x.pass 0
    else if isEddsa b.alg then (edwardsOf b.alg).challenge x.pub (x.pass 0) x.sig x.context
    else if isMldsa b.alg then x.mu x.pub
    else x.digest
  else x.msg.flatten

/-- The octets of an RSA modulus. -/
def modLen : Nat := rsaLen x.block.alg x.params x.block.extKey

/-- The public key of an RSA operation. -/
def rsaPub : RsaPublic := RsaPublic.ofBytes x.pub

/-- The codes of Table 4.9 that fail, each check made in full (R132, R133). -/
def checks : List Nat :=
  let a := x.block.alg
  let op := x.block.op
  if op = 0x61 then
    if isEcdsa a then (curveOf a).verifyChecks x.pub x.sig
    else if isEddsa a then (edwardsOf a).verifyChecks x.pub x.sig
    else if isRsaAlg a then x.rsaPub.checks ++ (if x.rsaPub.n ≤ ofBE x.sig then [7] else [])
    else []
  else if op = 0x62 then
    if isEcdsa a then ((curveOf a).decode (x.pass 0)).2
    else if isMontgomery a then (if allZero (xdh (a == 0x2B) x.key (x.pass 0)) then [5] else [])
    else []
  else if op = 0x63 then (if kemKeyOk a x.pub then [] else [7])
  else if op = 0x64 then (if (RsaKey.ofBytes (rsaBytes a) x.key).n ≤ ofBE (x.pass 0) then [7] else [])
  else if op = 0x65 then x.rsaPub.checks
  else []

/-- The validation status: the lowest code that fails (R132). -/
def status : Half :=
  match x.checks with
  | [] => 0
  | c :: cs => BitVec.ofNat 16 (0x300 + cs.foldl min c)

/-- The signature of SIGN (Table 4.7). -/
def signature : Bytes :=
  let b := x.block
  if isEcdsa b.alg then (curveOf b.alg).sign b.hash x.key x.digest x.rand
  else if isEddsa b.alg then (edwardsOf b.alg).signTwice x.key (x.pass 0) (x.pass 1) b.prehashed x.context
  else if isRsa b.alg then rsaSign (rsaBytes b.alg) b.hash (b.pad == 1) x.key x.digest x.rand
  else (dsaSign b.alg x.key x.dsaInput (if b.deterministic then zeros 32 else x.rand)).1

/-- VERIFY finds the signature EQUAL. -/
def verifies : Bool :=
  let b := x.block
  if isEcdsa b.alg then (curveOf b.alg).verify x.pub x.digest x.sig
  else if isEddsa b.alg then (edwardsOf b.alg).verify x.pub (x.pass 0) x.sig b.prehashed x.context
  else if isRsaAlg b.alg then rsaVerify x.rsaPub b.hash (b.pad == 1) b.saltLen x.digest x.sig
  else dsaVerify b.alg x.pub x.dsaInput x.sig

/-- The secret of AGREE. -/
def agreed : Bytes :=
  let a := x.block.alg
  if isEcdsa a then (curveOf a).agree x.key (x.pass 0)
  else if isMontgomery a then xdh (a == 0x2B) x.key (x.pass 0)
  else kemDecaps a x.key (x.pass 0)

/-- The output and the completion result (Table 4.7). -/
def output : Bytes × DWord :=
  let b := x.block
  let whole (out : Bytes) : Bytes × DWord := (out, BitVec.ofNat 64 out.length)
  if b.op = 0x60 then whole x.signature
  else if b.op = 0x61 then ([], if x.verifies then 1 else 2)
  else if b.op = 0x62 then whole x.agreed
  else if b.op = 0x63 then
    let c := kemEncaps b.alg x.pub x.rand
    whole (c.1 ++ c.2)
  else if b.op = 0x64 then
    match rsaDecrypt (rsaBytes b.alg) b.hash x.key x.context (x.pass 0) with
    | some m => (m, 1#64 + BitVec.ofNat 64 (m.length * 2 ^ 32))
    | none => (zeros (b.out x.modLen), 2)
  else if b.op = 0x65 then whole (rsaEncrypt x.rsaPub b.hash x.context x.rand (x.pass 0))
  else whole (publicKeyOf b.alg x.key)

/-- The iterations of ML-DSA's rejection loop (R126): at least one. -/
def iterations : Nat :=
  (dsaSign x.block.alg x.key x.dsaInput (if x.block.deterministic then zeros 32 else x.rand)).2

end BnInput

end Sys2Proof.Machine
end

