-- ==== Sys2Proof/Machine/Streams.lean ====
section
/-! DEFINITION. What companions expand for a lattice run, and the 2 KiB stream buffer between a companion and its
big-number engine (R124, R125). -/

namespace Sys2Proof.Machine

/-! ### The expansions of an operation -/

/-- ALG of the function that an expansion runs. -/
def Expansion.alg : Expansion → Byte
  | .ntt _ => 0x21
  | .rej _ => 0x21
  | .bounded _ _ => 0x22
  | .octets a _ _ => a

/-- What it absorbs. -/
def Expansion.seed : Expansion → Bytes
  | .ntt s => s
  | .rej s => s
  | .bounded _ s => s
  | .octets _ _ s => s

/-- Values, or octets, that it has to give. -/
def Expansion.need : Expansion → Nat
  | .octets _ n _ => n
  | _ => 256

/-- How many of them octets of the stream hold: what rejection sampling accepts. -/
def Expansion.found (e : Expansion) (bs : Bytes) : Nat :=
  match e with
  | .ntt _ => (nttValues bs).length
  | .rej _ => (rejValues bs).length
  | .bounded eta _ => (boundedValues eta bs).length
  | .octets _ _ _ => bs.length

/-- The noise polynomials of ML-KEM under a seed: `m` of them from number `i` on, of η. -/
def kemNoise (eta : Nat) (s : Bytes) (i m : Nat) : List Expansion :=
  (List.range m).map fun j => .octets 0x22 (64 * eta) (s ++ [BitVec.ofNat 8 (i + j)])

/-- The entries of a k × k matrix of ML-KEM. -/
def kemMatrix (p : KemParams) (rho : Bytes) : List Expansion :=
  (List.range p.k).flatMap fun i => (List.range p.k).map fun j => .ntt (rho ++ [BitVec.ofNat 8 j, BitVec.ofNat 8 i])

/-- Key generation of ML-KEM from d. -/
def kemKeyWork (p : KemParams) (d : Bytes) : List Expansion :=
  let g := sha3_512 (d ++ [BitVec.ofNat 8 p.k])
  .octets 0x13 64 (d ++ [BitVec.ofNat 8 p.k]) :: kemNoise p.eta1 (g.drop 32) 0 (2 * p.k) ++ kemMatrix p (g.take 32)

/-- Encapsulation of m under ek. -/
def kemEncWork (p : KemParams) (ek m : Bytes) : List Expansion :=
  let h := sha3_256 ek
  let g := sha3_512 (m ++ h)
  [.octets 0x11 32 ek, .octets 0x13 64 (m ++ h)] ++ kemNoise p.eta1 (g.drop 32) 0 p.k ++
    kemNoise 2 (g.drop 32) p.k (p.k + 1) ++ kemMatrix p (ek.drop (384 * p.k))

/-- The entries of the k × ℓ matrix of ML-DSA. -/
def dsaMatrix (p : DsaParams) (rho : Bytes) : List Expansion :=
  (List.range p.k).flatMap fun r => (List.range p.l).map fun s => .rej (rho ++ [BitVec.ofNat 8 s, BitVec.ofNat 8 r])

/-- Key generation of ML-DSA from ξ. -/
def dsaKeyWork (p : DsaParams) (xi : Bytes) : List Expansion :=
  let m := xi ++ [BitVec.ofNat 8 p.k, BitVec.ofNat 8 p.l]
  let h := shake256 m 128
  .octets 0x22 128 m :: ((List.range (p.k + p.l)).map fun i => .bounded p.eta (slice 32 64 h ++ leNat 2 i)) ++
    dsaMatrix p (h.take 32)

/-- One iteration of the rejection loop: y, the matrix once more, the commitment hash and the challenge. -/
def dsaLoopWork (p : DsaParams) (rho mu seed : Bytes) (i : Nat) : List Expansion :=
  let m := dsaHashed p mu (dsaW p rho seed (i * p.l))
  ((List.range p.l).map fun r => .octets 0x22 (32 * (p.g1 + 1)) (seed ++ leNat 2 (i * p.l + r))) ++ dsaMatrix p rho ++
    [.octets 0x22 p.cLen m, .octets 0x22 136 (shake256 m p.cLen)]

/-- The hashes that give a run its μ: none where the pool has hashed the message once for both runs (R122); of a digest that SRC
holds, the companion's own. -/
def BnInput.muWork (x : BnInput) (pk : Bytes) : List Expansion :=
  if x.block.prehashed then [.octets 0x22 64 pk, .octets 0x22 64 (shake256 pk 64 ++ x.dsaInput)] else []

/-- The expansions of a whole run, in order; none if the operation is no lattice one. `op` is the operation of the part in
progress: PUBLIC in the public-key phase. -/
def BnInput.work (x : BnInput) (op : Byte) : List Expansion :=
  let a := x.block.alg
  let kem := kemParams a
  let dsa := dsaParams a
  if isMlkem a then
    if op = 0x63 then kemEncWork kem x.pub x.rand
    else
      let k := kemKeys kem (x.key.take 32)
      let keys := kemKeyWork kem (x.key.take 32)
      if op = 0x62 then
        keys ++ kemEncWork kem k.1 (kemDecrypt kem k.2 (x.pass 0)) ++ [.octets 0x22 32 (x.key.drop 32 ++ x.pass 0)]
      else keys
  else if isMldsa a then
    if op = 0x60 then
      let k := dsaKey dsa x.key
      let mu := x.mu k.public
      let r := k.key ++ (if x.block.deterministic then zeros 32 else x.rand) ++ mu
      dsaKeyWork dsa x.key ++ x.muWork k.public ++ [.octets 0x22 64 r] ++
        (List.range x.iterations).flatMap (dsaLoopWork dsa k.rho mu (shake256 r 64))
    else if op = 0x61 then
      x.muWork x.pub ++ [.octets 0x22 136 (x.sig.take dsa.cLen)] ++ dsaMatrix dsa (x.pub.take 32)
    else dsaKeyWork dsa x.key
  else []

/-! ### The stream buffer -/

/-- Octets of the stream buffer. -/
abbrev streamSize : Nat := 2048

/-- One call of the companion: it absorbs the seed, or puts the next block of output into the buffer. At a full buffer it
pauses. -/
def Stream.call (x : Stream) : Stream :=
  match x.todo with
  | [] => x
  | e :: _ =>
    match x.keccak with
    | none =>
      let d : Byte := if e.alg = 0x21 ∨ e.alg = 0x22 then 0x1F else 0x06
      { x with keccak := some (absorbAll e.alg (hashInit e.alg)
          (e.seed ++ keccakPad (hashBlock e.alg) d e.seed.length)).1 }
    | some st =>
      if streamSize < x.buffer.length + hashBlock e.alg then x
      else { x with buffer := x.buffer ++ st.take (hashBlock e.alg), keccak := some (keccakF st) }

/-- The engine has to take what the buffer holds: it is full, or it completes the expansion. -/
def Stream.ready (x : Stream) : Bool :=
  match x.todo with
  | [] => false
  | e :: _ => decide (streamSize < x.buffer.length + hashBlock e.alg) || decide (e.need ≤ x.taken + e.found x.buffer)

/-- The engine takes the buffer's contents by rejection sampling. An expansion that is complete is consumed, and nothing of it
is stored. -/
def Stream.take (x : Stream) : Stream :=
  match x.todo with
  | [] => x
  | e :: rest =>
    let n := x.taken + e.found x.buffer
    if e.need ≤ n then { todo := rest, keccak := none, buffer := [], taken := 0 }
    else { x with buffer := [], taken := n }

/-- So many calls of a companion, the engine taking the buffer whenever it must. -/
def Stream.run : Nat → Stream → Stream
  | 0, x => x
  | n + 1, x =>
    let y := x.call
    Stream.run n (if y.ready then y.take else y)

end Sys2Proof.Machine
end

