-- ==== Sys2Proof/Machine/Programs.lean ====
section
/-! DEFINITION. How the work of a job is cut: the calls of a digest job and of a hashing pass, the segments of a cipher job,
the chunks of a big-number program (R80, R82, R107, R115, R121, R122, R126, R127, R128, R169). -/

namespace Sys2Proof.Machine

/-! ### Digest calls -/

/-- Calls of padding, of output and, for HMAC, of the outer state, when `tail` octets wait in the partial block (R80, R82). -/
def finishCalls (alg : Byte) (out tail : Nat) : Nat :=
  let b := hashBlock alg
  if chainLen alg = 200 then
    (tail + (if isKmac alg then (rightEncode (8 * out)).length else 0)) / b + 1 + (out - 1) / b
  else (tail + b / 8 + b) / b + (if isHmac alg then (shaLen alg + b / 8 + b) / b else 0)

/-- Calls of a job's key load (R82). -/
def DgBlock.loadCalls (b : DgBlock) : Nat :=
  if isHmac b.alg then (if b.start || b.op == 0x46 || b.op == 0x45 then 2 else 0)
  else if isKmac b.alg then (if b.start || b.op == 0x45 then 1 else 0)
  else 0

/-- Octets of its slot's partial block that a digest job goes on from. -/
def State.dgHeld (s : State) (u : Submission) : Nat :=
  let x := s.slot u.slotKey
  let b := dgBlock u
  if b.start || b.op == 0x45 || b.op == 0x46 || x.state != .open_ then 0 else x.count.toNat % hashBlock (s.dgRun u).alg

/-- Calls of a digest job: key load, blocks, finish (R80, R82). -/
def State.dgCalls (s : State) (u : Submission) : Nat :=
  let b := s.dgRun u
  let n := s.dgHeld u + b.len
  max 1 (b.loadCalls + n / hashBlock b.alg +
    (if b.finish || b.op == 0x46 || b.op == 0x45 then finishCalls b.alg b.out (n % hashBlock b.alg) else 0))

/-- Message octets that stand absorbed after so many calls, of which `load` load a key, of a message of `len` octets that
goes on from `held`. -/
def spanAt (block load held len calls : Nat) : Nat := min len ((calls - load) * block - held)

/-! ### Hashing passes of big-number jobs (R121, R122) -/

/-- The function that hashes the message of a signature: the job's HASH, or the one of its scheme. -/
def BnBlock.hashAlg (b : BnBlock) : Byte :=
  if isEddsa b.alg then (if b.alg = 0x28 then 0x03 else 0x22)
  else if isMldsa b.alg then 0x22
  else if b.hash = 0 then 0x01 else if b.hash = 1 then 0x02 else 0x03

/-- Passes of pool digest engines over a job's message: EdDSA signs it after two. A digest that is given needs a pass only
where the engine makes an ECDSA nonce. -/
def BnBlock.passes (b : BnBlock) : Nat :=
  if b.op = 0x60 then
    (if b.prehashed then (if isEcdsa b.alg then 1 else 0) else if isEddsa b.alg then 2 else 1)
  else if b.op = 0x61 ∧ !b.prehashed then 1 else 0

/-- Calls of an HMAC under a job's HASH over `n` octets. -/
def hmacCalls (alg : Byte) (n : Nat) : Nat :=
  let b := hashBlock alg
  2 + (n + b / 8 + b) / b + 1

/-- Calls of the nonce construction of an ECDSA signature, to its first candidate. -/
def BnBlock.nonceCalls (b : BnBlock) : Nat :=
  let a := b.hashAlg
  let h := hashLen b.hash
  let q := fieldLen b.alg
  2 * hmacCalls a (h + 1 + 2 * q + (if b.deterministic then 0 else 32)) + (2 + (q + h - 1) / h) * hmacCalls a h

/-- Octets ahead of the message in a pass. DESIGN CHOICE: of ML-DSA the hash tr of the public key, which comes with the key, and
the head of the formatted message (assumption 99). -/
def BnBlock.passHead (b : BnBlock) : Nat := if isMldsa b.alg then 66 + b.ctxLen else 0

/-- Calls of one pass: the message and its padding, and the nonce. -/
def BnBlock.passCalls (b : BnBlock) : Nat :=
  let a := b.hashAlg
  let n := b.passHead + b.len
  (if b.prehashed then 0 else n / hashBlock a + finishCalls a (shaLen a) (n % hashBlock a)) +
    (if b.op = 0x60 ∧ isEcdsa b.alg = true then b.nonceCalls else 0)

/-- ALG of the work that a job has on the pool: KMAC256 of a derivation (R49). -/
def State.poolAlg (s : State) (j : Job) : Byte :=
  if j.deriveLeft ≠ 0 then 0x42
  else if isBnOp j.sub.op then (bnBlock j.sub).hashAlg else (s.dgRun j.sub).alg

/-- Calls of the work that a job has on the pool: the derivation of its keys (R71), a digest job, or a hashing pass, which for a
Stockpot seal includes the derivation of its key (R424). -/
def State.poolCalls (s : State) (j : Job) : Nat :=
  if j.deriveLeft ≠ 0 then j.deriveLeft
  else if isBnOp j.sub.op then
    let e := s.entry (hIndex (bnBlock j.sub).handle)
    (bnBlock j.sub).passCalls + (if j.dev == some .stkSeal then deriveCalls (s.ancestry e).1 e false else 0)
  else s.dgCalls j.sub

/-- ECLK cycles of a call (Table 3.1). -/
def callCycles (alg : Byte) : Nat := match algInfo alg with | some a => a.cycles | none => 36

/-- The message octets of a pool job that stand absorbed after so many calls. -/
def State.poolSpan (s : State) (j : Job) (calls : Nat) : Nat :=
  if isBnOp j.sub.op then 
    spanAt (hashBlock (bnBlock j.sub).hashAlg) 0 (bnBlock j.sub).passHead (bnBlock j.sub).len calls
  else
    let b := s.dgRun j.sub
    if s.dgCalls j.sub ≤ calls then b.len else spanAt (hashBlock b.alg) b.loadCalls (s.dgHeld j.sub) b.len calls

/-! ### Cipher segments (R105, R107) -/

/-- A wrapping mode, whose blocks are semiblocks of 8 octets. -/
def CpBlock.wraps (b : CpBlock) : Bool := b.mode == 0x07 || b.mode == 0x08

/-- Octets of CCM's encoded length before its additional data. -/
def CpBlock.ccmHead (b : CpBlock) : Nat := if b.mode = 0x04 ∧ b.aadLen ≠ 0 then (ccmLength b.aadLen).length else 0

/-- AES calls ahead of a job's data: GCM's hash subkey and first counter block, CCM's B0 and first counter block, XTS's
tweak, CMAC's subkey and the block of an empty message. -/
def CpBlock.setupCalls (b : CpBlock) : Nat :=
  if b.mode = 0x03 ∨ b.mode = 0x04 then 2
  else if b.mode = 0x05 then 1
  else if b.mode = 0x06 then (if b.len = 0 then 2 else 1)
  else 0

/-- Semiblocks of the plaintext of a wrapping job, padded. -/
def CpBlock.semis (b : CpBlock) : Nat := up8 b.len / 8 - (if b.op = 0x55 then 1 else 0)

/-- Steps of a wrapping job, one AES call each: six for each semiblock, and one where there is a single semiblock. -/
def CpBlock.steps (b : CpBlock) : Nat := if b.semis ≤ 1 then 1 else 6 * b.semis

/-- Where a cipher job ends: in octets of AAD ‖ payload, or in steps of a wrapping job. -/
def CpBlock.total (b : CpBlock) : Nat := if b.wraps then b.steps else b.aadLen + b.len

/-- AES calls of a job's data up to position `q`. -/
def CpBlock.dataCalls (b : CpBlock) (q : Nat) : Nat :=
  let blocks := (q - b.aadLen + 15) / 16
  if b.mode = 0x03 then blocks
  else if b.mode = 0x04 then (if min q b.aadLen = 0 then 0 else (b.ccmHead + min q b.aadLen + 15) / 16) + 2 * blocks
  else if b.wraps then q
  else blocks

/-- AES calls of a cipher segment from position `p` to `q`: the blocks that it puts through the mask generator. -/
def CpBlock.calls (b : CpBlock) (p q : Nat) : Nat :=
  (if p = 0 then b.setupCalls else 0) + (b.dataCalls q - b.dataCalls p)

/-- The next block boundary after position `p`. A data unit of XTS that ends in a part of a block ends at its end. -/
def CpBlock.blockEnd (b : CpBlock) (p : Nat) : Nat :=
  let total := b.aadLen + b.len
  if p < b.aadLen then min b.aadLen (((p + b.ccmHead) / 16 + 1) * 16 - b.ccmHead)
  else
    let q := b.aadLen + ((p - b.aadLen) / 16 + 1) * 16
    if total ≤ q ∨ (b.mode = 0x05 ∧ total < q + 16) then total else q

/-- The boundary at which a segment from position `p` ends, looked for from a boundary `q` on. -/
def CpBlock.endFrom (b : CpBlock) (p : Nat) : Nat → Nat → Nat
  | 0, q => q
  | n + 1, q =>
    if b.aadLen + b.len ≤ q ∨ 4096 ≤ q - p ∨ 125 ≤ b.calls p q then q else b.endFrom p n (b.blockEnd q)

/-- Where a cipher segment from position `p` ends (R107): at the first block boundary at which 4 KiB have passed or 125
AES calls have been made, or at the end of the data. Every step of a wrapping job is a block boundary. -/
def CpBlock.segmentEnd (b : CpBlock) (p : Nat) : Nat :=
  if b.wraps then min b.steps (p + 125) else b.endFrom p 512 (b.blockEnd p)

/-- The source octets that a cipher segment from position `p` to `q` reads. A wrapping job takes its semiblocks from the
source in its first pass over them, UNWRAP from the last one on; its later passes work on the destination (R107). -/
def CpBlock.spans (b : CpBlock) (p q : Nat) : List (Nat × Nat) :=
  if !b.wraps then [(p, q)]
  else
    let n := b.semis
    let lo := min p n
    let hi := min q n
    if b.op = 0x55 then (if p = 0 then [(0, 8)] else []) ++ [(8 * (n + 1 - hi), 8 * (n + 1 - lo))]
    else [(8 * lo, min (8 * hi) b.len)]

/-- ECLK cycles of a cipher segment: 24 for an AES call, 8 for a block of GCM's additional data. -/
def CpBlock.cycles (b : CpBlock) (p q : Nat) : Nat :=
  24 * b.calls p q + (if b.mode = 0x03 then 8 * ((min q b.aadLen + 15) / 16 - (min p b.aadLen + 15) / 16) else 0)

/-! ### Big-number programs (R115, R126 to R128, R132) -/

/-- Cycles of the validation phase (Table 4.8). -/
def validationCycles (a : Byte) : Nat :=
  if a = 0x20 then 1536 else if a = 0x21 then 2304 else if a = 0x22 then 2880
  else if a = 0x28 ∨ a = 0x2A then 1024 else if a = 0x29 ∨ a = 0x2B then 2048
  else if isRsaAlg a then 2880 else if isMlkem a then 1536 else 768

/-- Cycles of an operation (Table 4.8) on an RSA modulus of `k` octets. An operation that the table does not list takes a
number of cycles that the spec does not state (assumption 14). -/
def bnCycles (op a : Byte) (k : Nat) : Nat :=
  match op, a with
  | 0x60, 0x20 => 21820
  | 0x61, 0x20 => 48000
  | 0x62, 0x20 => 40200
  | 0x60, 0x21 => 53330
  | 0x61, 0x21 => 115200
  | 0x60, 0x22 => 140400
  | 0x61, 0x22 => 300000
  | 0x60, 0x28 => 16000
  | 0x61, 0x28 => 40200
  | 0x60, 0x29 => 48000
  | 0x61, 0x29 => 120000
  | 0x62, 0x2A => 30000
  | 0x62, 0x2B => 90000
  | 0x62, 0x40 => 12800
  | 0x62, 0x41 => 19200
  | 0x62, 0x42 => 27400
  | 0x63, 0x41 => 15000
  | 0x61, 0x49 => 40000
  | 0x66, 0x20 => 12000
  | _, _ =>
    if isRsaAlg a ∧ (op = 0x60 ∨ op = 0x64) ∧ k = 256 then 320000
    else if isRsaAlg a ∧ (op = 0x60 ∨ op = 0x64) ∧ k = 384 then 1090900
    else if isRsaAlg a ∧ (op = 0x60 ∨ op = 0x64) ∧ k = 512 then 2526300
    else if isRsaAlg a ∧ (op = 0x60 ∨ op = 0x64) ∧ k = 1024 then 19800000
    else if isRsaAlg a ∧ (op = 0x61 ∨ op = 0x65) ∧ k = 256 then 12800
    else if isRsaAlg a ∧ (op = 0x61 ∨ op = 0x65) ∧ k = 512 then 36000
    else Config.bnCycles op a k

/-- Cycles of ML-DSA SIGN without its iterations, and of an iteration (R128). -/
def dsaFixed (a : Byte) : Nat := if a = 0x48 then 20000 else if a = 0x49 then 28200 else 40000
def dsaPart (a : Byte) : Nat := if a = 0x48 then 16470 else if a = 0x49 then 18000 else 33770

/-- A run's program: the cycles of its validation phase, of what follows it, and of each of its iterations, every part cut
into chunks of 3,000 cycles of which the last may be shorter. -/
structure BnProgram where
  validation : Nat
  fixed : Nat
  part : Nat
  loops : Nat

/-- Chunks of so many cycles. -/
def chunksIn (c : Nat) : Nat := (c + 2999) / 3000

/-- Chunks of a program. -/
def BnProgram.chunks (p : BnProgram) : Nat := 1 + chunksIn p.fixed + p.loops * chunksIn p.part

/-- Cycles of chunk `i` of a program. -/
def BnProgram.cycles (p : BnProgram) (i : Nat) : Nat :=
  if i = 0 then p.validation
  else if i ≤ chunksIn p.fixed then min 3000 (p.fixed - 3000 * (i - 1))
  else min 3000 (p.part - 3000 * ((i - 1 - chunksIn p.fixed) % chunksIn p.part))

/-- The program of an operation. -/
def bnProgram (op a : Byte) (k loops : Nat) : BnProgram :=
  let v := validationCycles a
  if isMldsa a ∧ op = 0x60 then ⟨v, dsaFixed a - v, dsaPart a, loops⟩ else ⟨v, bnCycles op a k - v, 0, 0⟩

/-- The job begins with the public-key phase of R123, under the rules of secret operations. -/
def bnPhase (u : Submission) : Bool := bnExtOp u.op && !(bnBlock u).extKey

/-- The job is in its public-key phase. -/
def Job.inPhase (j : Job) : Bool := bnPhase j.sub && j.key2 == []

/-- Runs of the part in progress: two for a secret operation and for the public-key phase (Table 4.2). Prime generation and
its consistency check are one run each, on two engines (R127). -/
def Job.runs (j : Job) : Nat := if j.primes then 2 else if bnExtOp j.sub.op then (if j.inPhase then 2 else 1) else 2

/-- The part in progress is a secret operation (R134). -/
def Job.secretPart (j : Job) : Bool := j.runs == 2

/-- The operation of the part in progress: PUBLIC in the public-key phase. -/
def Job.part (j : Job) : Byte := if j.inPhase then 0x66 else j.sub.op

/-- A lattice job, which needs companions (R124). -/
def bnLattice (u : Submission) : Bool := isBnOp u.op && (isMlkem (bnBlock u).alg || isMldsa (bnBlock u).alg)

/-- The handle whose RSA primes a job waits for (R52): a PIN's, or the one of a big-number job. -/
def primeHandle (u : Submission) : Word := if isKtOp u.op then u.field 32 4 4 else (bnBlock u).handle

/-- The public key that a job works with: the one of its public-key phase, or its external one. -/
def Job.publicPart (j : Job) : Bytes := if bnPhase j.sub then j.key2 else j.key

/-- The inputs of a job's operation. -/
def Job.input (j : Job) : BnInput :=
  let b := bnBlock j.sub
  { block := { b with op := j.part }, key := j.key, pub := j.publicPart, params := j.aux,
    msg := if j.passes = [] then [j.payload] else j.passes, rand := j.rand.take (bnSliceOctets j.sub) }

/-- A run of a job takes two adjacent context areas (Table 4.1). DESIGN CHOICE: PUBLIC of an RSA-8192 node, and a public
operation by handle with its public-key phase, count as private operations of it (assumption 94). -/
def State.bnPair (s : State) (j : Job) : Bool :=
  let b := bnBlock j.sub
  if j.primes then (s.entry (hIndex (primeHandle j.sub))).type == 0x33
  else (b.alg == 0x33 && (j.part == 0x60 || j.part == 0x64 || j.part == 0x66)) ||
    (j.part == 0x60 && (b.alg == 0x49 || b.alg == 0x4A))

/-- The program of a run of the part in progress. Prime generation takes as many chunks as its seed fixes, which the spec
does not state; the consistency check is a signature and its verification (R127, assumption 14). -/
def State.runProgram (s : State) (j : Job) (second : Bool) : BnProgram :=
  let b := bnBlock j.sub
  if j.primes then
    let t := (s.entry (hIndex (primeHandle j.sub))).type
    if second then ⟨2880, bnCycles 0x60 t (rsaBytes t) + bnCycles 0x61 t (rsaBytes t) - 2880, 0, 0⟩
    else ⟨3000, 3000 * Config.primeChunks (rsaBytes t) j.key, 0, 0⟩
  else bnProgram j.part b.alg j.input.modLen (if isMldsa b.alg ∧ j.part = 0x60 then j.input.iterations else 0)

/-- Chunk cycles of a job that has not begun its part: the validation phase (R132). -/
def Job.firstChunk (j : Job) : Nat :=
  if j.primes then 3000 else validationCycles (bnBlock j.sub).alg

end Sys2Proof.Machine
end

