-- ==== Sys2Proof/Machine/EngineJobs.lean ====
section
/-! DEFINITION. What the engine jobs do: the counted use and the key at the first segment, the segments, the output,
the result (R86 to R104, R107, R112 to R134, R242). -/

namespace Sys2Proof.Machine

/-! ### Held jobs and accesses -/

/-- A job that uses a key, and so waits while log hold is in force (R72, R108, R138, R158). A digest job on a slot that it
continues or restarts has the slot's handle (R88). -/
def State.jobKeyed (s : State) (u : Submission) : Bool :=
  let op := u.op
  if isKtOp op then op != 0x06
  else if op = 0x71 then true
  else if isDigestOp op then (s.dgRun u).handle != 0
  else if isCipherOp op then true
  else if isBnOp op then !(bnBlock u).extKey
  else false

/-- A job or command whose key travels on the key path (R26, R70, R74, R76). -/
def State.jobLoadsKey (s : State) (u : Submission) : Bool :=
  let op := u.op
  if isKtOp op then op == 0x07 || op == 0x08 || op == 0x10 || op == 0x11
  else op != 0x71 && s.jobKeyed u

/-- A job that log hold keeps from running, or the closed key-path gate: no transfer starts after it closes (R395). -/
def State.heldJob (s : State) (u : Submission) : Bool :=
  (s.stk.hold && s.jobKeyed u) || (s.tamper.gateClosed && s.jobLoadsKey u)

/-- A job that must wait. Log hold does not pause device-class work (R33). -/
def State.heldWork (s : State) (j : Job) : Bool :=
  if j.dev.isSome then s.tamper.gateClosed && s.jobLoadsKey j.sub else s.heldJob j.sub

/-- A slice or N issuer whose slice is quiescing, so that its jobs end (R319). -/
def State.quiesces (s : State) (u : Submission) : Bool :=
  match u.issuer.slice? with
  | some x => match (s.slc x.toNat).state with
    | .quiescing => true
    | .quiesced => true
    | _ => false
  | none => false

/-- ABORTED_QUIESCE. -/
abbrev vAborted : Verdict := verdict St.abortedQuiesce 0

/-- A range of space 2 that a job has not translated at its start (R259). -/
def Submission.outOfReach (u : Submission) (write : Bool) (space addr len : Nat) : Bool :=
  space = 2 && decide (((u.pieces write len addr len).map Prod.snd).sum < len)

/-- Write output octets; the verdict of a refusal, recorded (R108, R138, R350). -/
def State.deliver (s : State) (u : Submission) (space addr : Nat) (bs : Bytes) : State × Option Verdict :=
  if u.outOfReach true space addr bs.length then (s, some (verdict St.accessFault 0))
  else
    let bad := s.jobRefusal u true space addr bs.length
    let t := s.jobWrite u space addr bs
    match bad with
    | some r => let x := t.strained u true r; (x.1, some x.2)
    | none => (t, none)

/-- Read an area of the Ladle write half; a refusal is recorded. -/
def State.readArea (s : State) (u : Submission) (off len : Nat) : State × Except Verdict Bytes :=
  match s.jobRefusal u false 0 off len with
  | some r => let x := s.strained u false r; (x.1, .error x.2)
  | none => (s, .ok (s.jobRead u 0 off len))

/-- The device's reads of source octets [lo, hi) in host memory (R312). -/
def State.sourceUse (s : State) (u : Submission) (lo hi : Nat) : State :=
  ((sourceRange u.source lo hi).filter fun r => r.1 == 1).foldl
    (fun t r => t.atsUse (t.originPasid u.origin) (BitVec.ofNat 64 r.2.1) r.2.2) s

/-- The verdict that a job's reads of source octets [lo, hi) meet, recorded. -/
def State.sourceVerdict (s : State) (u : Submission) (lo hi : Nat) : State × Option Verdict :=
  let s := s.sourceUse u lo hi
  if (sourceRange u.source lo hi).any fun r => u.outOfReach false r.1 r.2.1 r.2.2 then
    (s, some (verdict St.accessFault 0))
  else match s.sourceRefusal u lo hi with
    | some r => let x := s.strained u false r; (x.1, some x.2)
    | none => (s, none)

/-- Zero the octets of an imported key in the Ladle write half (R104). -/
def State.zeroImport (s : State) (u : Submission) (off len : Nat) : State :=
  match u.slice? with
  | none => s
  | some x =>
    let c := s.slc x.toNat
    s.setSlc x.toNat { c with wbuf := memZero c.wbuf off (off + len) }

/-! ### Counted use and key release (R58, R65, R70, R104) -/

/-- Form the key, the raw key of an import or the node's, and take one counted use. A use that the walk to the key refuses
is not counted (R58). -/
def State.releaseKey (s : State) (u : Submission) (h : Word) (counted : Bool) (raw : Option Bytes) :
    State × Bool × Option Bytes :=
  let k : Option Bytes × State := match raw with
    | some k => (some k, s)
    | none => s.keySecret u.issuer h false
  if k.1.isSome && counted then
    let x := k.2.takeUses u.issuer h 1
    (x.1, x.2, k.1)
  else (k.2, false, k.1)

/-- Calls of the derivation steps that a job's keys take before its first segment, or those of a PROVE or PIN that its handle
checks admit before it runs (R71, R494): of an imported key none. -/
def State.derivation (s : State) (j : Job) : Nat :=
  let u := j.sub
  let op := u.op
  if j.derived || j.dev.isSome then 0
  else if j.seal_.isSome then
    s.keyCalls (match u.charge with | some x => .slice x | none => .s) (bnBlock u).handle false
  else if op = 0x07 then (if (s.checkUse u.issuer (u.field 32 4 4) opProve).isOk then s.keyCalls u.issuer (u.field 32 4 4) true else 0)
  else if op = 0x08 then (if (s.checkHandle u.issuer (u.field 32 4 4) false).isOk then s.keyCalls u.issuer (u.field 32 4 4) false else 0)
  else if isDigestOp op then
    let b := s.dgRun u
    let raw := b.import_ || (decide (0x40 ≤ op ∧ op ≤ 0x42) && !b.start && (s.slot u.slotKey).imported)
    if (dgOp u).isNone || raw then 0 else s.keyCalls u.issuer b.handle false
  else if isCipherOp op then
    let b := cpBlock u
    let two := if b.mode = 0x05 then s.keyCalls u.issuer b.handle2 false else 0
    let t := if b.mode = 0x05 then (s.keySecret u.issuer b.handle2 false).2 else s
    two + (if b.import_ then 0 else t.keyCalls u.issuer b.handle false)
  else if isBnOp op then (if (bnBlock u).extKey then 0 else s.keyCalls u.issuer (bnBlock u).handle false)
  else 0

/-- The two compare codes of R91. -/
def compareCode (equal : Bool) : DWord := if equal then 1 else 2

/-- Count a comparison (DG_CMP_EQ, DG_CMP_NE). -/
def State.countCompare (s : State) (equal : Bool) : State :=
  if equal then { s with eng := { s.eng with cmpEq := s.eng.cmpEq + 1 } }
  else { s with eng := { s.eng with cmpNe := s.eng.cmpNe + 1 } }

/-- The verdict that a job's reads of several spans of its source meet, recorded: the first refusal ends them. -/
def State.spansVerdict (s : State) (u : Submission) : List (Nat × Nat) → State × Option Verdict
  | [] => (s, none)
  | x :: xs =>
    let v := s.sourceVerdict u x.1 x.2
    match v.2 with
    | some e => (v.1, some e)
    | none => v.1.spansVerdict u xs

/-- Octets put in the place of those from `lo` on. -/
def overlay (old : Bytes) (lo : Nat) (new : Bytes) : Bytes := fit lo old ++ new ++ old.drop (lo + new.length)

/-- A job with spans of its source read as they stand now, the rest as earlier segments read it. A segment that is rerun reads
its part again (R181). -/
def State.readPart (s : State) (j : Job) (spans : List (Nat × Nat)) : Job :=
  let src := s.sourceBytes j.sub j.sub.source j.sub.host
  { j with payload := spans.foldl (fun p x => overlay p x.1 (slice x.1 (x.2 - x.1) src)) j.payload }

/-! ### Digest jobs -/

/-- A slot after more message octets (R86, R88). -/
def Slot.absorb (x : Slot) (data : Bytes) : Slot :=
  let r := absorbAll x.alg x.chain (x.buf ++ data)
  { x with chain := r.1, buf := r.2, count := x.count + BitVec.ofNat 64 data.length }

/-- The output of a finished message: the padding that the standard defines, from the slot's count (R86, R89). -/
def Slot.digest (x : Slot) (n : Nat) : Bytes :=
  macEnd x.alg (x.keyState.drop (chainLen x.alg)) x.chain x.buf x.count.toNat n

/-- A slot opened with an algorithm and a key (R88): the states after key load are kept for a restart. -/
def Slot.start (alg : Byte) (handle : Word) (imported : Bool) (key cust : Bytes) (outLen : Half) : Slot :=
  let k := keyLoad alg key cust
  { state := .open_, alg := alg, handle := handle, imported := imported, keyState := k.1 ++ k.2, chain := k.1,
    buf := [], count := 0, outLen := outLen }

/-- A FINISHED slot restarted under its key (R88). -/
def Slot.restart (x : Slot) : Slot :=
  { x with state := .open_, chain := x.keyState.take (chainLen x.alg), buf := [], count := 0 }

/-- The octets of a digest job's auxiliary area: expected value, S, raw key (Table 3.2). -/
def dgAux (b : DgBlock) (keyLen : Nat) (area : Bytes) : Bytes × Bytes × Bytes :=
  let c := if b.compare then up8 b.out else 0
  let d := c + (if isKmac b.alg then up8 b.custLen else 0)
  (slice 0 (if b.compare then b.out else 0) area, slice c (if isKmac b.alg then b.custLen else 0) area,
    slice d (if b.import_ then keyLen else 0) area)

/-- First segment of a digest job (R65, R88, R104): checks, auxiliary area, counted use, key, slot. A job that goes on with an
imported key has it in its slot. -/
def State.startDigest (s : State) (j : Job) : State × Except Verdict Job :=
  let u := j.sub
  let b := s.dgRun u
  match s.dgHandleCheck u with
  | some v => (s, .error v)
  | none =>
    let keyLen := importLen (s.entry (hIndex b.handle)).type
    let n := b.auxLen keyLen
    let r := if n = 0 ∨ b.op = 0x46 then (s, Except.ok []) else s.readArea u b.auxOff n
    match r.2 with
    | .error v => (r.1, .error v)
    | .ok area =>
      let s := r.1
      let a := dgAux b keyLen area
      let old := s.slot u.slotKey
      let slotted := 0x40 ≤ b.op && b.op ≤ 0x42
      let s := if b.import_ then s.zeroImport u (b.auxOff + (n - keyLen)) keyLen else s
      let raw := if b.import_ then some a.2.2 else if slotted && !b.start && old.imported then some [] else none
      let k := match dgOp u with
        | none => (s, false, some [])
        | some _ => s.releaseKey u b.handle (dgCounted u) raw
      match k.2.2 with
      | none => (k.1, .error (verdict St.handleInvalid 0))
      | some key =>
        let s := k.1
        let s :=
          if !slotted then s
          else if b.start then
            s.setSlot u.slotKey (Slot.start b.alg b.handle b.import_ key a.2.1 (BitVec.ofNat 16 b.outLen))
          else if old.state = .finished then s.setSlot u.slotKey old.restart
          else s
        (s, .ok { j with
          started := true, half := k.2.1, key := key, key2 := if b.op = 0x45 then a.2.1 else [], aux := a.1 })

/-- RCPT_CHECK (R242): the MAC of the stamp block, bytes 4 to 99 of the receipt, against its MAC field, bytes 100 to
131; a STAMP_GEN that is not the handle's GENERATION is NOT_EQUAL. -/
def State.rcptEqual (s : State) (j : Job) : Bool :=
  let gen := (s.entry (hIndex (dgBlock j.sub).handle)).generation
  fieldBE 32 20 4 j.payload == gen && hmacSha256 j.key (slice 4 96 j.payload) == slice 100 32 j.payload

/-- The output of a digest goes to the comparator or to DST (R89, R91, R96). -/
def State.digestOut (s : State) (j : Job) (out : Bytes) : State × Verdict × DWord :=
  let b := dgBlock j.sub
  if b.compare then
    let eq := out == j.aux
    (s.countCompare eq, Verdict.ok, compareCode eq)
  else
    let d := s.deliver j.sub b.dstSpace b.dst out
    match d.2 with
    | some v => (d.1, v, 0)
    | none => (d.1, Verdict.ok, BitVec.ofNat 64 out.length)

/-- The end of a digest job whose last segment has ended: the slot, the output, the result (R86, R89, R91, R242). -/
def State.endDigest (s : State) (j : Job) : State × Verdict × DWord :=
  let u := j.sub
  let b := s.dgRun u
  if b.op = 0x46 then
    let eq := s.rcptEqual j
    (s.countCompare eq, Verdict.ok, compareCode eq)
  else
    let x := (s.slot u.slotKey).absorb j.payload
    if !b.finish then (s.setSlot u.slotKey x, Verdict.ok, 0)
    else (s.setSlot u.slotKey { x with state := .finished, chain := [], buf := [] }).digestOut j (x.digest b.out)

/-! ### Saved state (R92 to R94) -/

/-- The 400 B clear context of an OPEN slot (Table 3.4). -/
def Slot.context (x : Slot) (slice_ : Byte) : Bytes :=
  let state := if isHmac x.alg then fit 64 x.chain ++ x.keyState.drop (chainLen x.alg) else x.chain
  [0x53#8, 0x48#8, 0x44#8, 0x43#8, 1#8, x.alg, (if keyedAlg x.alg then 1#8 else 0#8) ||| (if x.imported then 2#8 else 0#8),
    slice_]
  ++ le 8 x.count ++ le 4 x.handle ++ le 2 x.outLen ++ leNat 2 x.buf.length ++ zeros 8 ++ fit 200 state ++ fit 168 x.buf

/-- The slot that a clear context spells. DESIGN CHOICE: Table 3.4 carries neither the inner pad state of an HMAC nor the
keyed state of a KMAC, so a restart of such a slot goes on from a state that the spec leaves open, a function of ALG and
STATE (assumption 82). An unkeyed slot restarts from the standard's initial state. -/
def Slot.ofContext (b : Bytes) : Slot :=
  let alg := octet 5 b
  let st := slice 0x20 200 b
  let pad := fit (chainLen alg) (Config.restoredPad alg st)
  { state := .open_, alg := alg, handle := fieldLE 32 0x10 4 b, imported := (octet 6 b).getLsbD 1,
    keyState := if isHmac alg then pad ++ slice 64 (chainLen alg) st else if isKmac alg then pad else hashInit alg,
    chain := st.take (chainLen alg), buf := slice 0xE8 (ofLE (slice 0x16 2 b)) b, count := fieldLE 64 8 8 b,
    outLen := fieldLE 16 0x14 2 b }

/-- SLICE of a saved context: the slice, 0xFE for H and 0xFF for S (assumption 13). -/
def Issuer.saveSlice (i : Issuer) : Byte :=
  match i with
  | .slice x => x.setWidth 8
  | .n x => x.setWidth 8
  | .h => 0xFE
  | .s => 0xFF

/-- SE of the slice that saves, zero for H and S (R93). -/
def State.saveEpoch (s : State) (i : Issuer) : Word :=
  match i.slice? with
  | some x => (s.slc x.toNat).se
  | none => 0

/-- Kctx of an issuer (R93). -/
def State.kctx (s : State) (i : Issuer) : Bytes :=
  kmac256 (s.eng.kboot.getD []) ([i.saveSlice] ++ be 4 (s.saveEpoch i)) (ascii "SH6496 CTX") 32

/-- The 8 B binding of a wrapped context (R93). -/
def State.binding (s : State) (i : Issuer) : Bytes := [i.saveSlice, 0, 0, 0] ++ be 4 (s.saveEpoch i)

/-- CTX_SAVE of an OPEN slot (R92). -/
def State.doSave (s : State) (u : Submission) : State × Verdict × DWord :=
  let b := dgBlock u
  let x := s.slot u.slotKey
  let clear := x.context u.issuer.saveSlice
  let blob := if keyedAlg x.alg then
      clear.take 8 ++ kwpWrap (s.kctx u.issuer) (clear.drop 8 ++ s.binding u.issuer)
    else clear
  let d := s.deliver u b.dstSpace b.dst blob
  match d.2 with
  | some v => (d.1, v, 0)
  | none => (d.1, Verdict.ok, BitVec.ofNat 64 blob.length)

/-- A restore is refused with CTX_AUTH, counted if its wrapping failed (R94). DESIGN CHOICE: Table 3.17 counts every restore
refused so, R94 the second of its checks alone; the model follows R94 (assumption 84). -/
def State.restoreFails (s : State) (wrapped : Bool) : State × Verdict × DWord :=
  (if wrapped then { s with eng := { s.eng with ctxErr := s.eng.ctxErr + 1 } } else s, vCtxAuth, 0)

/-- CTX_RESTORE (R94). DESIGN CHOICE where the rule names no status: a LEN that is neither 400 nor 416 as ALG requires, and
FLAGS that disagree with ALG, give CTX_AUTH (assumption 84); check 4 of Table 2.7 passes if OPS has MAC_GEN or MAC_VERIFY
(assumption 85). -/
def State.doRestore (s : State) (u : Submission) : State × Verdict × DWord :=
  let v := s.sourceVerdict u 0 u.delivered
  let s := v.1
  match v.2 with
  | some e => (s, e, 0)
  | none =>
    let blob := s.sourceBytes u u.source u.host
    let alg := octet 5 blob
    let info := algInfo alg
    let keyed := keyedAlg alg
    if blob.take 5 != [0x53#8, 0x48#8, 0x44#8, 0x43#8, 1#8] || info.isNone || octet 7 blob != u.issuer.saveSlice ||
       (octet 6 blob).getLsbD 0 != keyed || octet 6 blob &&& 0xFC != 0 ||
       decide (blob.length ≠ (if keyed then 416 else 400)) then
      s.restoreFails false
    else
      match (if keyed then kwpUnwrap (s.kctx u.issuer) (blob.drop 8) else some (blob.drop 8 ++ s.binding u.issuer)) with
      | none => s.restoreFails true
      | some plain =>
        if plain.drop 392 != s.binding u.issuer then s.restoreFails true
        else
          let x := Slot.ofContext (blob.take 8 ++ plain.take 392)
          let bad : Option Verdict :=
            if !keyed then none
            else match s.checkHandle u.issuer x.handle false with
              | .error e => some e
              | .ok e =>
                if some e.type != (info.bind AlgInfo.keyType) then some vTypeOp
                else match opCheck e opMacGen, opCheck e opMacVerify with
                  | some w, some _ => some w
                  | _, _ => s.quorumCheck u.issuer x.handle e 0
          match bad with
          | some e => (s, e, 0)
          | none => (s.setSlot u.slotKey x, Verdict.ok, BitVec.ofNat 64 u.slotNo)

/-! ### Cipher jobs -/

/-- The parameters of the nonce, IV or tweak of a cipher job: built (R99), drawn (R100) or the caller's. -/
def CpBlock.iv (b : CpBlock) (gen : Word) (cnt : DWord) (rand area : Bytes) : Bytes :=
  if b.built then be 4 gen ++ be 8 cnt
  else if b.ivGen then rand.take 16
  else if b.mode = 0x03 then area.take 12
  else if b.mode = 0x04 then area.take b.nonceLen
  else if b.mode = 0x01 ∨ b.mode = 0x02 ∨ b.mode = 0x05 then area.take 16
  else []

/-- The text of a mode without a tag, both ways (Table 3.7). CTR counts in the last four octets of its counter block
(assumption 83). -/
def CpBlock.crypt (b : CpBlock) (enc : Bool) (key key2 iv text : Bytes) : Bytes :=
  let ks := aesKeys key
  match b.mode with
  | 0x00 => (blocks16 text).flatMap (if enc then aesEnc ks else aesDec ks)
  | 0x01 => if enc then cbcEnc ks iv (blocks16 text) else cbcDec ks iv (blocks16 text)
  | 0x02 => ctrBlocks ks 4 (if b.built then iv ++ [0, 0, 0, 1] else iv) (blocks16 text)
  | 0x03 => gcmCrypt key iv text
  | 0x04 => ccmCrypt key iv text
  | _ => xts enc key key2 iv text

/-- The tag of GCM over its ciphertext, of CCM over its plaintext, of CMAC over its input. -/
def CpBlock.tag (b : CpBlock) (key iv aad plain cipher : Bytes) : Bytes :=
  if b.mode = 0x03 then gcmTag key iv aad cipher b.tagLen
  else if b.mode = 0x04 then ccmTag key iv aad plain b.tagLen
  else (cmac key plain).take b.tagLen

/-- The output, the result, and whether the comparison was EQUAL, of a cipher job (R98 to R101) that does not wrap. DESIGN
CHOICE: MAC_GEN and MAC_VERIFY in GCM with a payload make GCM's tag of the additional data and the payload, whose ciphertext is
not written (Table 3.7; assumption 95). -/
def CpBlock.run (b : CpBlock) (key key2 iv aad text expected : Bytes) (cnt : DWord) : Bytes × DWord × Option Bool :=
  let made (out : Bytes) : Bytes × DWord × Option Bool :=
    (out, if b.built then cnt else BitVec.ofNat 64 out.length, none)
  let checked (eq : Bool) (out : Bytes) : Bytes × DWord × Option Bool :=
    (if eq then out else zeros b.out, compareCode eq, some eq)
  let tagged := b.mode == 0x03 || b.mode == 0x04
  let sealed := if b.mode = 0x03 then b.crypt true key key2 iv text else []
  if b.op = 0x50 then
    let enc := b.crypt true key key2 iv text
    made ((if b.built || b.ivGen then iv else []) ++ enc ++ (if tagged then b.tag key iv aad text enc else []))
  else if b.op = 0x51 then
    let plain := b.crypt false key key2 iv text
    if tagged then checked (b.tag key iv aad plain text == expected) plain else made plain
  else if b.op = 0x52 then made ((if b.built then iv else []) ++ b.tag key iv aad text sealed)
  else if b.op = 0x53 then checked (b.tag key iv aad text sealed == expected) []
  else ([], 0, none)

/-- First segment of a cipher job (R65, R99, R102, R104). -/
def State.startCipher (s : State) (j : Job) : State × Except Verdict Job :=
  let u := j.sub
  let b := cpBlock u
  match s.cpHandleCheck u with
  | some v => (s, .error v)
  | none =>
    let e := s.entry (hIndex b.handle)
    let keyLen := importLen e.type
    let n := b.paramLen keyLen
    let r := if n = 0 then (s, Except.ok []) else s.readArea u b.ivOff n
    match r.2 with
    | .error v => (r.1, .error v)
    | .ok area =>
      let s := if b.import_ then r.1.zeroImport u (b.ivOff + 32) keyLen else r.1
      let raw := if b.import_ then some (slice 32 keyLen area) else none
      let l := if b.mode = 0x05 then s.releaseKey u b.handle2 false none else (s, false, some [])
      let k := if l.2.2.isSome then l.1.releaseKey u b.handle true raw else (l.1, false, none)
      match k.2.2, l.2.2 with
      | some key, some key2 =>
        let t := if b.mode = 0x05 then k.1.takeUses u.issuer b.handle2 1 else (k.1, false)
        (t.1, .ok { j with
          started := true, half := k.2.1 || t.2, key := key, key2 := key2,
          aux := b.iv e.generation (e.useCount.setWidth 64) j.rand area, expect := (slice 16 16 area).take b.tagLen,
          result := e.useCount.setWidth 64,
          openRange := if b.guarded ∧ b.dstSpace = 0 then some (b.dst, b.out) else none })
      | _, _ => (k.1, .error (verdict St.handleInvalid 0))

/-- What a cipher job's operation gives on the octets that have passed: what lies before them depends on no later one. -/
def Job.cipherRun (j : Job) : Bytes × DWord × Option Bool :=
  let b := cpBlock j.sub
  b.run j.key j.key2 j.aux (j.payload.take b.aadLen) (fit b.len (j.payload.drop b.aadLen)) j.expect j.result

/-- A mode whose output is written as it is formed; the others' is written at the end (R101, R107). -/
def CpBlock.streams (b : CpBlock) : Bool := b.op == 0x50 || (b.op == 0x51 && !b.guarded)

/-- Output octets that stand when position `p` of AAD ‖ payload has been reached. -/
def CpBlock.written (b : CpBlock) (p : Nat) (outLen : Nat) : Nat :=
  let head := (if b.built then 12 else 0) + (if b.ivGen then 16 else 0)
  if b.aadLen + b.len ≤ p then outLen
  else if !b.streams || p = 0 then 0 else head + (p - b.aadLen)


/-- The octets of a job's destination as they stand. -/
def State.destRead (s : State) (u : Submission) (space addr len : Nat) : Bytes :=
  if space = 0 then
    match u.slice? with
    | some x => memRead (s.slc x.toNat).rbuf addr len
    | none => zeros len
  else (List.range len).map fun i =>
    match u.phys true (addr + i) with
    | some p => memByte s.worlds.recipe p
    | none => 0

/-- Where semiblock `i` of the plaintext stands in a wrapping job's output: behind the integrity value in WRAP's. -/
def CpBlock.semiAt (b : CpBlock) (i : Nat) : Nat := 8 * (if b.op = 0x55 then i else i + 1)

/-- The semiblock that step `k` works on: UNWRAP goes from the last to the first. -/
def CpBlock.semiOf (b : CpBlock) (k : Nat) : Nat :=
  if b.op = 0x55 then b.semis - 1 - k % b.semis else k % b.semis

/-- A wrapping job works on its destination in place, except UNWRAP into recipe memory: no reader may see what it writes before
its comparison (R101), and only the Ladle read half hides a range, so its work stands with the job until its end
(assumption 96). -/
def CpBlock.apart (b : CpBlock) : Bool := b.op == 0x55 && b.dstSpace == 2

/-- A wrapping job's output octets as they stand. -/
def State.wrapped (s : State) (j : Job) (off len : Nat) : Bytes :=
  let b := cpBlock j.sub
  if b.apart then slice off len j.output else s.destRead j.sub b.dstSpace (b.dst + off) len

/-- The semiblocks of a wrapping job as a segment from step `p` finds them: those that the first pass has reached stand in the
destination, the others are the source's. -/
def State.wrapBlocks (s : State) (j : Job) (p : Nat) : List Bytes :=
  let b := cpBlock j.sub
  (List.range b.semis).map fun i =>
    if (if b.op = 0x55 then b.semis - 1 - i else i) < p then s.wrapped j (b.semiAt i) 8
    else slice (8 * (if b.op = 0x55 then i + 1 else i)) 8 (fit b.len j.payload)

/-- The A register before the first step (SP 800-38F): the integrity value, or the first semiblock of what is unwrapped. -/
def Job.wrapStart (j : Job) : Bytes :=
  let b := cpBlock j.sub
  if b.op = 0x55 then fit 8 j.payload else if b.mode = 0x07 then kwIv else kwpIv ++ beNat 4 b.len

/-- The A register and the semiblocks after the steps from `p` to `q`. -/
def State.wrapSteps (s : State) (j : Job) (p q : Nat) : Bytes × List Bytes :=
  let b := cpBlock j.sub
  let ks := aesKeys j.key
  let a := if p = 0 then j.wrapStart else j.aux
  let rs := s.wrapBlocks j p
  let n := b.semis
  if n ≤ 1 then
    let x := (if b.op = 0x55 then aesDec else aesEnc) ks (a ++ rs.headD [])
    (x.take 8, [x.drop 8])
  else if b.op = 0x55 then
    let r := kwBack ks (q - p) (b.steps - p) a (rs.rotateRight (p % n))
    (r.1, r.2.rotateLeft (q % n))
  else
    let r := kwGo ks (q - p) (p + 1) a (rs.rotateLeft (p % n))
    (r.1, r.2.rotateRight (q % n))

/-- Write semiblocks to their places in a destination, as far as the first refusal. -/
def State.putSemis (s : State) (u : Submission) (b : CpBlock) (rs : List Bytes) : List Nat → State × Option Verdict
  | [] => (s, none)
  | i :: is =>
    let d := s.deliver u b.dstSpace (b.dst + b.semiAt i) (rs.getD i [])
    match d.2 with
    | some v => (d.1, some v)
    | none => d.1.putSemis u b rs is

/-- An unwrapped string's integrity check (SP 800-38F). -/
def CpBlock.unwrapHolds (b : CpBlock) (a plain : Bytes) : Bool :=
  if b.mode = 0x07 then a == kwIv else kwpHolds a plain

/-- A segment of KW or KWP, in place on the destination, from step `p` to `q` (R107): the semiblocks that it has worked on are
written, with the A register where the last step of WRAP ends. The job keeps the A register between segments. -/
def State.wrapSegment (s : State) (j : Job) (p q : Nat) : State × Job × Option Verdict :=
  let b := cpBlock j.sub
  let r := s.wrapSteps j p q
  if b.apart then
    let plain := r.2.flatten
    let j := { j with aux := r.1, output := plain }
    if q < b.steps then (s, j, none)
    else
      let d := s.deliver j.sub b.dstSpace b.dst (if b.unwrapHolds r.1 plain then plain else zeros b.out)
      (d.1, j, d.2)
  else
    let w := s.putSemis j.sub b r.2 ((List.range (min b.semis (q - p))).map fun i => b.semiOf (p + i))
    let j := { j with aux := r.1 }
    match w.2 with
    | some v => (w.1, j, some v)
    | none =>
      if b.op = 0x55 || decide (q < b.steps) then (w.1, j, none)
      else
        let d := w.1.deliver j.sub b.dstSpace b.dst r.1
        (d.1, j, d.2)

/-- Write the output of a cipher segment that went from position `p` to `q`. -/
def State.cipherWrite (s : State) (j : Job) (p q : Nat) : State × Job × Option Verdict :=
  let b := cpBlock j.sub
  if b.wraps then s.wrapSegment j p q
  else
    let out := j.cipherRun.1
    let lo := if p = 0 then 0 else b.written p out.length
    let hi := b.written q out.length
    let d := s.deliver j.sub b.dstSpace (b.dst + lo) (slice lo (hi - lo) out)
    (d.1, j, d.2)

/-- The end of a cipher job whose last segment has ended: the comparison is counted, and the result given (R101). An UNWRAP
that fails its integrity check has its whole output range overwritten with zero. -/
def State.endCipher (s : State) (j : Job) : State × DWord :=
  let b := cpBlock j.sub
  if b.op = 0x54 then (s, BitVec.ofNat 64 b.out)
  else if b.op = 0x55 then
    let eq := b.unwrapHolds j.aux (s.wrapped j 0 b.out)
    ((if eq then s else s.jobWrite j.sub b.dstSpace b.dst (zeros b.out)).countCompare eq, compareCode eq)
  else
    let r := j.cipherRun
    (match r.2.2 with | some eq => s.countCompare eq | none => s, r.2.1)

/-! ### Big-number jobs -/

/-- The key of a big-number job is released: an external one from the parameter area, or the handle's (R65, R123). -/
def State.bnKey (s : State) (j : Job) (params : Bytes) : State × Bool × Option Bytes :=
  let b := bnBlock j.sub
  let counted := match bnOp b.op with | some o => countedOp o | none => false
  if b.extKey then (s, false, some (b.paramKey params)) else s.releaseKey j.sub b.handle counted none

/-- First chunk of the first run of a big-number job (R65, R121, R123): checks, counted use, key, parameters, input. The
message of a hashed job has been read already (R122). -/
def State.startBn (s : State) (j : Job) : State × Except Verdict Job :=
  let u := j.sub
  let b := bnBlock u
  match s.bnHandleCheck u with
  | some v => (s, .error v)
  | none =>
    let r := if b.paramLen = 0 then (s, Except.ok []) else s.readArea u b.paramOff b.paramLen
    match r.2 with
    | .error v => (r.1, .error v)
    | .ok params =>
      let v := if j.passes = [] then r.1.sourceVerdict u 0 u.delivered else (r.1, none)
      match v.2 with
      | some e => (v.1, .error e)
      | none =>
        let k := v.1.bnKey j params
        match k.2.2 with
        | none => (k.1, .error (verdict St.handleInvalid 0))
        | some key =>
          (k.1, .ok { j with
            started := true, half := k.2.1, key := key, aux := params,
            payload := if j.passes = [] then k.1.sourceBytes u u.source u.host else [],
            openRange := if b.secret ∧ b.dstSpace = 0 then
              some (b.dst, b.out (rsaLen b.alg params b.extKey)) else none })

/-- First chunk of a seal signature (R236): the checks of Table 2.7 for SEAL, one counted use, the key in the partition of
the market's slice. The statement is the job's payload already. -/
def State.startSeal (s : State) (j : Job) : State × Except Verdict Job :=
  let h := (bnBlock j.sub).handle
  let i : Issuer := match j.sub.charge with | some x => .slice x | none => .s
  match s.checkUse i h opSeal with
  | .error v => (s, .error v)
  | .ok _ =>
    let k := s.releaseKey { j.sub with issuer := i } h true none
    match k.2.2 with
    | none => (k.1, .error (verdict St.handleInvalid 0))
    | some key => (k.1, .ok { j with started := true, half := k.2.1, key := key })

/-- First chunk of device-class work (R424, R433): the key of a Stockpot seal is derived afresh from its root; a regulator
frame has its key and its message already. -/
def State.startDev (s : State) (j : Job) : State × Except Verdict Job :=
  match j.dev with
  | some .stkSeal =>
    match s.deriveFresh (s.entry (hIndex (bnBlock j.sub).handle)) false with
    | none => (s, .error (verdict St.handleInvalid 0))
    | some key => (s, .ok { j with started := true, key := key })
  | _ => (s, .ok { j with started := true })

/-- Address of octet `i` of the working space of areas from `base` on (R113): behind the secret slots of the first area, then
behind those of the second. -/
def workAddr (base i : Nat) : Nat := base * 0x4000 + (if i < 0x3000 then 0x1000 + i else 0x2000 + i)

/-- Write working space. -/
def workWrite (m : Mem) (base : Nat) (bs : Bytes) : Mem :=
  ((List.range bs.length).zip bs).foldl (fun m e => memSetByte m (workAddr base e.1) e.2) m

/-- Read working space. -/
def workRead (m : Mem) (base n : Nat) : Bytes := (List.range n).map fun i => memByte m (workAddr base i)

/-- The public inputs of an operation: its public key, parameters, and what it is given of its message. -/
def BnInput.public (x : BnInput) : Bytes := x.pub ++ x.params ++ x.fed

/-- The output words of a run, read from the working space of its areas (R113, R136). -/
def State.runOutput (s : State) (r : Run) : Bytes := workRead (s.engine .bn r.engine.toNat).opmem r.base.toNat r.outLen

/-- The end of a big-number job: a validation status, or the output and the result (R120, R134). -/
def State.endBn (s : State) (j : Job) : State × Verdict × DWord :=
  let b := bnBlock j.sub
  match j.run1 with
  | none => (s, Verdict.ok, 0)
  | some r =>
    let out := s.runOutput r
    let result := j.input.output.2
    if r.status ≠ 0 then (s, ⟨r.status, 0⟩, 0)
    else if j.seal_.isSome || j.dev.isSome then (s.setJob { j with output := out }, Verdict.ok, result)
    else if b.op = 0x61 then (s.countCompare (result == 1), Verdict.ok, result)
    else
      let d := s.deliver j.sub b.dstSpace b.dst out
      match d.2 with
      | some v => (d.1, v, 0)
      | none => (d.1, Verdict.ok, result)

/-! ### RANDOM and DRAW (R156 to R160) -/

/-- Write a job's result octets and complete it. -/
def State.writeOut (s : State) (u : Submission) (bs : Bytes) (result : DWord) : State × Verdict × DWord :=
  let d := s.deliver u (rndSpace u) (u.nat 0x18 8) bs
  match d.2 with
  | some v => (d.1, v, 0)
  | none => (d.1, Verdict.ok, result)

/-- [s]1 of a draw: the slice, or 0xFF (R158). -/
def drawSlice (u : Submission) : Byte := match u.issuer.slice? with | some x => x.setWidth 8 | none => 0xFF

/-- [s]1 ‖ [DRAW_ID]8 ‖ [N]4 ‖ [K]2 (R158). -/
def drawTail (u : Submission) : Bytes :=
  [drawSlice u] ++ be 8 (u.field 64 8 8) ++ beNat 4 (drawN u) ++ beNat 2 (drawK u)

/-- b = ⌈log2 N⌉: the least b with N ≤ 2^b. -/
def drawBits (n : Nat) : Nat := ((List.range 33).find? fun b => decide (n ≤ 2 ^ b)).getD 32

/-- Bit `i` of the candidate stream, most significant bit of each octet first. -/
def drawBit (input : Bytes) (i : Nat) : Nat :=
  (octet (i / 8) (shake256 input (i / 8 + 1))).toNat / 2 ^ (7 - i % 8) % 2

/-- Candidate number `i` of `b` bits. -/
def candidate (input : Bytes) (b i : Nat) : Nat :=
  (List.range b).foldl (fun v k => 2 * v + drawBit input (i * b + k)) 0

/-- What sampling found: the accepted values in order, the candidates read, whether the cap was met. -/
structure Sample where
  values : List Nat
  read : Nat
  capped : Bool

/-- Sample until `k` values are accepted or 1,048,576 candidates are rejected (R158, R159). -/
def sampleGo (input : Bytes) (b n k : Nat) : Nat → List Nat → Nat → Nat → Sample
  | 0, acc, i, _ => ⟨acc.reverse, i, false⟩
  | fuel + 1, acc, i, rej =>
    if acc.length = k then ⟨acc.reverse, i, false⟩
    else if rej = 1048576 then ⟨[], i, true⟩
    else
      let c := candidate input b i
      if n ≤ c ∨ acc.contains c then sampleGo input b n k fuel acc (i + 1) (rej + 1)
      else sampleGo input b n k fuel (c :: acc) (i + 1) rej

/-- The draw of K values from 0 to N − 1 under a seed. -/
def drawSample (u : Submission) (seed : Bytes) : Sample :=
  let input := ascii "SH6496 DRAW" ++ drawTail u ++ seed
  sampleGo input (drawBits (drawN u)) (drawN u) (drawK u) (drawK u + 1048577) [] 0 0

/-- The first 24 octets of both draw records (Table 5.8). -/
def drawHead (u : Submission) : Bytes :=
  [drawSlice u] ++ zeros 7 ++ be 8 (u.field 64 8 8) ++ beNat 4 (drawN u) ++ beNat 2 (drawK u) ++ zeros 2

/-- A record of a draw. -/
def drawRec (type : Half) (u : Submission) (rest : Bytes) : LogRec :=
  { type := type, severity := sevAudit, slice := drawSlice u, payload := drawHead u ++ rest }

/-- Step 4 of a draw: the commitment is recorded, once, and its sequence number kept. None: the log does not take it yet. -/
def State.drawCommit (s : State) (j : Job) : Option (DWord × State) :=
  if j.started then some (j.result, s)
  else
    let cm := sha3_256 (ascii "SH6496 DRAW C" ++ drawTail j.sub ++ j.rand)
    (s.logNow 5 (drawRec 0x0020 j.sub cm)).map fun x => (x.1, x.2.setJob { j with started := true, result := x.1 })

/-- Steps 4 to 8 of a draw with its seed (R158, R159), each after the one before it. No verdict: the log does not take a
record yet, and the draw waits. CLD_DRAWS counts the draws that complete with OK. -/
def State.doDraw (s : State) (j : Job) : State × Option (Verdict × DWord) :=
  let u := j.sub
  match s.drawCommit j with
  | none => (s, none)
  | some (seq, s) =>
    let x := drawSample u j.rand
    let vals := x.values.flatMap fun v => leNat 4 v
    match s.logNow 5 (drawRec 0x0021 u (j.rand ++ beNat 4 x.read ++ beNat 4 (seq.toNat % 2 ^ 32) ++ vals)) with
    | none => (s, none)
    | some (_, s) =>
      if x.capped then (s, some (verdict St.entropyFail 0x54, 0))
      else
        let w := s.writeOut u vals (BitVec.ofNat 64 (4 * drawK u + 2 ^ 32 * (seq.toNat % 2 ^ 32)))
        let s := if w.2.1.status = St.ok then { w.1 with cld := { w.1.cld with draws := w.1.cld.draws + 1 } } else w.1
        (s, some w.2)

end Sys2Proof.Machine
end

