-- ==== Sys2Proof/Machine/EntryOps.lean ====
section
/-! DEFINITION. Entries of host rings and internal queues: headers, fragments, chains, the descriptor cache (R259 to R261,
R324, R328 to R331). -/

namespace Sys2Proof.Machine

/-! ### Sources -/

/-- Offset of SPACE in a job block of an opcode's chapter. -/
def spaceAt (op : Byte) : Nat := if isCipherOp op then 0x2E else if isBnOp op then 0x27 else 0x22

/-- The source of a single-entry job: its declared length at SRC (R331). -/
def Submission.ownSource (u : Submission) : List Fragment :=
  match declared u with
  | none => []
  | some n =>
    let piece (a : DWord) (m : Nat) : Fragment :=
      { space := BitVec.ofNat 2 (u.nat (spaceAt u.op) 1), addr := a, len := BitVec.ofNat 64 m }
    let src := u.field 64 8 8
    if n = 0 then [] else if n < 2 ^ 64 then [piece src n]
    else [piece src (2 ^ 63), piece (src + BitVec.ofNat 64 (2 ^ 63)) (n - 2 ^ 63)]

/-- One fragment of a fragment entry (Table 11.6): an error, unused, or a piece. -/
def fragmentOf (b : Bytes) : Option (List Fragment) :=
  let len := fieldLE 32 8 4 b
  if len = 0 then (if zeroRange 0 16 b then some [] else none)
  else if 1 < (octet 12 b).toNat || !zeroRange 13 16 b then none
  else
    let f : Fragment := { space := fieldLE 2 12 1 b, addr := fieldLE 64 0 8 b, len := len.setWidth 64 }
    some [f]

/-- The used fragments of a fragment entry's body, none if one breaks Table 11.6. -/
def fragmentsOf (body : Bytes) : Option (List Fragment) :=
  match fragmentOf (slice 0 16 body), fragmentOf (slice 16 16 body), fragmentOf (slice 32 16 body) with
  | some a, some b, some c => some (a ++ b ++ c)
  | _, _, _ => none

/-- The fragments of several entries. -/
def chainFragments : List Bytes → Option (List Fragment)
  | [] => some []
  | b :: bs =>
    match fragmentsOf b, chainFragments bs with
    | some x, some y => some (x ++ y)
    | _, _ => none

/-- MALFORMED, BAD_FRAGMENT. -/
abbrev vBadFragment : Verdict := verdict St.malformed 0x91

/-- The submission of a chain: its job block and the bodies of its fragment entries (R329, Table 11.7). -/
def Submission.withChain (u : Submission) (bodies : List Bytes) : Except Verdict Submission :=
  if bodies = [] then .ok { u with source := u.ownSource }
  else if (declared u).isNone || u.field 64 8 8 != 0 || u.nat (spaceAt u.op) 1 % 4 != 0 then .error vBadFragment
  else match chainFragments bodies with
    | none => .error vBadFragment
    | some fs => .ok { u with source := fs }

/-! ### Entries of an internal queue (Table 9.7) -/

/-- FLAGS of an entry. -/
def entryFirst (b : Bytes) : Bool := (octet 0 b).getLsbD 0
def entryLast (b : Bytes) : Bool := (octet 0 b).getLsbD 1
def entryK1 (b : Bytes) : Bool := (octet 0 b).getLsbD 2
def entryK2 (b : Bytes) : Bool := (octet 0 b).getLsbD 3

/-- The 48 octets that follow the header. -/
def entryBody (b : Bytes) : Bytes := slice 16 48 b

/-- A reserved header field that is not zero, or USE_K2 on a block without HANDLE2. -/
def entryBad (b : Bytes) : Bool :=
  octet 0 b &&& 0xF0 != 0 || octet 1 b &&& 0xF0 != 0 || octet 2 b &&& 0xF0 != 0 || !zeroRange 3 16 b ||
  (entryK2 b && !(entryFirst b && isCipherOp (octet 16 b)))

/-- Replace octets of a string from an offset. -/
def patch (off : Nat) (new bs : Bytes) : Bytes := bs.take off ++ new ++ bs.drop (off + new.length)

/-- An entry as the descriptor cache holds it: the k values substituted into its job block (R259). -/
def substituteK (k : Vector Word 16) (b : Bytes) : Bytes :=
  let kOf (off : Nat) : Word := k[((octet off b).setWidth 4).toFin.val]
  let b1 := if entryK1 b && entryFirst b then patch 20 (le 4 (kOf 1)) b else b
  if entryK2 b && entryFirst b then patch 52 (le 4 (kOf 2)) b1 else b1

/-- The requester attributes of a context's access (Table 12.2). -/
def Context.attr (c : Context) : ReqAttr :=
  { origin := .core, level := c.level, slice := if c.level = .n then some c.slice else none, bind := none }

/-- The virtual address of an entry's slot. -/
def Queue.slotAt (q : Queue) (i : Word) : Nat := q.base.toNat + 64 * (i.toNat % 2 ^ q.sizeLog2.toNat)

/-- The issuer of a queue's jobs (R258). -/
def Context.issuer (c : Context) : Issuer :=
  match c.level with | .n => .n c.slice | .h => .h | .s => .s

/-- The submission of a queue's job: the block of its first entry, issued at the context's level, charged to CHARGE. -/
def Context.submission (c : Context) (n : Nat) (q : BitVec 2) (last : Word) (first : Bytes) (host : Bytes) :
    Submission :=
  { issuer := c.issuer
    charge := some (if c.level = .n then c.slice else c.queues[q.toFin.val].charge)
    origin := .queue (BitVec.ofNat 7 n) q last, block := entryBody first, source := [], host := host }

/-! ### The descriptor cache -/

/-- Copies that the cache holds (CORE_DCACHE.USED). -/
def Context.cached (c : Context) : Nat := (c.dcache.filter fun e => e.copy.isSome).length

/-- The entries of a job in a descriptor cache. -/
def Context.jobEntries (c : Context) (q : BitVec 2) (last : Word) : List CachedEntry :=
  c.dcache.filter fun e => e.q == q && e.job == some last

/-- The entries of a chain's fragments that a job which has read so many octets of its source has not reached: `at_` is where
the first of them begins. -/
def unreached (upto total : Nat) : Nat → List CachedEntry → List CachedEntry
  | _, [] => []
  | at_, e :: es =>
    let n := match e.copy.bind fun b => fragmentsOf (entryBody b) with
      | some fs => (fs.map fun f => f.len.toNat).sum
      | none => 0
    if at_ < upto || decide (total ≤ upto) then unreached upto total (at_ + n) es else e :: unreached upto total (at_ + n) es

/-- The copies of a job leave the cache (R261): that of its first entry when it starts, a chain's others as it reaches them, which
it has when it has read so many octets of its source. -/
def State.leaveCache (s : State) (u : Submission) (upto : Nat) : State :=
  match u.origin with
  | .queue n q i =>
    let c := s.ctx n.toNat
    let mine := c.jobEntries q i
    let fragments := mine.filter fun e => match e.copy with | some b => !entryFirst b | none => true
    let kept := if fragments.length = 0 then [] else unreached upto u.delivered 0 fragments
    s.setCtx n.toNat { c with dcache := c.dcache.filter fun e => !(e.q == q && e.job == some i) || kept.contains e }
  | _ => s

/-- A segment of the job has run. -/
def Job.begun (j : Job) : Bool := j.started || j.pos != 0 || j.passes != []

/-- A copy of a job that has not started was dropped by JQINV (R261). -/
def State.stale (s : State) (j : Job) : Bool :=
  match j.sub.origin with
  | .queue n q i => !j.begun && ((s.ctx n.toNat).jobEntries q i).any fun e => e.copy.isNone
  | _ => false

/-- The physical address of an entry that is read again, under the map of its queue's context (R261). -/
def State.entryPhys (s : State) (u : Submission) (va : Nat) : Option Nat :=
  match s.jobMap u with
  | some x => s.translate u.issuer.level x.1.slice x.2 permR va
  | none => none

/-- Read the dropped entries of a job again, with the k values of their JQINV. A failure is the job's verdict. -/
def State.rereadAll (s : State) (c : Context) (u : Submission) : List CachedEntry → State × Except Verdict (List CachedEntry)
  | [] => (s, .ok [])
  | e :: es =>
    let one : State × Except Verdict CachedEntry :=
      match e.copy with
      | some _ => (s, .ok e)
      | none =>
        match s.entryPhys u (c.queues[e.q.toFin.val].slotAt e.index) with
        | none => (s, .error (verdict St.accessFault 0))
        | some p =>
          match s.str.firstRefusal false c.attr true permR p 64 with
          | some r => (s.captureRefusal false c.attr permR r.1 r.2, .error ⟨St.accessFault, r.2.detail⟩)
          | none => (s, .ok { e with copy := some (substituteK e.k (s.ctxRead c p 64)) })
    match one.2 with
    | .error v => (one.1, .error v)
    | .ok x =>
      let rest := one.1.rereadAll c u es
      match rest.2 with
      | .error v => (rest.1, .error v)
      | .ok xs => (rest.1, .ok (x :: xs))

/-- The copies of a job make one well-formed entry or chain. -/
def chainOk (bs : List Bytes) : Bool :=
  let m := bs.length
  ((List.range m).zip bs).all fun e =>
    !entryBad e.2 && (entryFirst e.2 == (e.1 == 0)) && (entryLast e.2 == (e.1 + 1 == m))

/-- A job whose copy was dropped is read again when it starts (R261): it becomes the job that its entries now spell. -/
def State.refresh (s : State) (j : Job) : State :=
  match j.sub.origin with
  | .queue n q i =>
    if !s.stale j then s
    else
      let c := s.ctx n.toNat
      let r := s.rereadAll c j.sub (c.jobEntries q i)
      match r.2 with
      | .error v => r.1.finish j.id v 0
      | .ok es =>
        let s := r.1
        let c := s.ctx n.toNat
        let s := s.setCtx n.toNat { c with
          dcache := c.dcache.map fun e => (es.find? fun x => x.q == e.q && x.index == e.index).getD e }
        let bs := es.map fun e => e.copy.getD []
        if !chainOk bs then s.finish j.id (verdict St.malformed 0x21) 0
        else
          let u := { j.sub with block := entryBody (bs.headD []) }
          match u.withChain ((bs.drop 1).map entryBody) with
          | .error v => s.finish j.id v 0
          | .ok u => s.setJob (newJob j.id u)
  | _ => s

end Sys2Proof.Machine
end

