-- ==== Sys2Proof/Machine/JobOps.lean ====
section
/-! DEFINITION. From a submission to its end: start checks, draws, Whisk's choice, segments and chunks (R89, R96, R154,
R165 to R179, R330, R331, R494). -/

namespace Sys2Proof.Machine

/-! ### Segments -/

/-- Set one of a job's two runs. -/
def Job.setRun (j : Job) (second : Bool) (r : Option Run) : Job :=
  if second then { j with run2 := r } else { j with run1 := r }

/-- One of a job's two runs. -/
def Job.run (j : Job) (second : Bool) : Option Run := if second then j.run2 else j.run1

/-- Where a pool or cipher job's position stands after its next segment, in calls, in octets of AAD ‖ payload or in steps of a
wrapping job, and whether that segment is its last. -/
def State.nextPos (s : State) (j : Job) : Nat × Bool :=
  if j.cls = .cipher then
    let b := cpBlock j.sub
    let q := b.segmentEnd j.pos
    (q, decide (b.total ≤ q))
  else
    let total := s.poolCalls j
    (min total (j.pos + 64), decide (total ≤ j.pos + 64))

/-- The source octets that a pool or cipher job's next segment reads. -/
def State.nextSpans (s : State) (j : Job) : List (Nat × Nat) :=
  let q := (s.nextPos j).1
  if j.deriveLeft ≠ 0 then []
  else if j.cls = .cipher then (cpBlock j.sub).spans j.pos q
  else [(s.poolSpan j j.pos, s.poolSpan j q)]

/-- Reservation of a job's next segment, or of chunk `i` of a run (R169). -/
def State.reserve (s : State) (j : Job) (second : Bool) (i : Nat) : Nat :=
  match j.cls with
  | .cipher => 3000
  | .bn => if i = 0 then j.firstChunk else (s.runProgram j second).cycles i
  | _ => ((s.nextPos j).1 - j.pos) * callCycles (s.poolAlg j)

/-- ECLK cycles of the work of a job's next segment or chunk, which are charged (R170). -/
def State.workCycles (s : State) (j : Job) (second : Bool) (i : Nat) : Nat :=
  if j.cls = .cipher then (cpBlock j.sub).cycles j.pos (s.nextPos j).1 else s.reserve j second i

/-! ### Candidates (R171, R172, R174, R179) -/

/-- A run that an engine may start or resume. -/
structure Cand where
  job : Job
  second : Bool
  owned : Bool
  reserve : Nat
  /-- First area and number of areas of a run that starts here. -/
  area : Option (Nat × Nat)

/-- Free areas for a run that starts (R172): the lowest, or only areas 2 and 3 when it starts borrowed. -/
def Engine.pickArea (e : Engine) (owned pair : Bool) : Option (Nat × Nat) :=
  let free (i : Nat) : Bool := match e.areas[i]? with | some a => a.isNone | none => false
  if pair then
    (if owned then [0, 2] else [2]).findSome? fun i => if free i && free (i + 1) then some (i, 2) else none
  else (if owned then [0, 1, 2, 3] else [2, 3]).findSome? fun i => if free i then some (i, 1) else none

/-- A run stands on an engine. -/
def onEngine (r : Option Run) (n : Nat) : Bool := match r with | some x => x.engine.toNat == n | none => false

/-- An engine could take a job's missing run (R131): online, not excluded, not holding the other run. -/
def State.eligibleRun (s : State) (j : Job) (n : Nat) : Bool :=
  s.online .bn n && !(j.excluded.any fun x => x.toNat == n) && !onEngine j.run1 n && !onEngine j.run2 n

/-- A free engine of the pool: online, without a segment and without a stamp computation. -/
def State.idleEngine (s : State) (n : Nat) : Bool :=
  s.online .pool n && (s.engine .pool n).running.isNone && (s.engine .pool n).lane.isEmpty

/-- The first free pool engine outside a list. -/
def State.freeCompanion (s : State) (ex : List Nat) : Option Nat :=
  (List.range 160).find? fun n => s.idleEngine n && !ex.contains n

/-- The companion of a job's other run, which is never the companion of this one (R174). -/
def Job.otherCompanion (j : Job) (second : Bool) : List Nat :=
  match (j.run !second).bind Run.companion with | some c => [c.toNat] | none => []

/-- An engine may start a segment: its class is pooled, it is online or, for a resident big-number job, its group drains
(R138, R453), and it is free. -/
def State.engineFree (s : State) (c : EngClass) (n : Nat) : Bool :=
  c != .lane && decide (n < c.size) && (s.engine c n).running.isNone && (s.engine c n).lane.isEmpty &&
  (s.online c n || (c == .bn && (s.engine c n).health == .online &&
    (match groupOf c n with
     | some g => (sparseGet PGroup.reset s.power.groups g).state == .draining
     | none => false)))

/-- An engine has the areas that a run which starts needs. -/
def State.hasRoom (s : State) (j : Job) (owned : Bool) (n : Nat) : Bool :=
  s.eligibleRun j n && ((s.engine .bn n).pickArea owned (s.bnPair j)).isSome

/-- The second run may start on an engine (R179): the engine is in another group than the first run's unless no other group
has room, and no free engine stands before it in the list from (e1 + 32) mod 64 on. -/
def State.secondHere (s : State) (j : Job) (owned : Bool) (e1 n : Nat) : Bool :=
  let other := (List.range 64).any fun m => m / 8 != e1 / 8 && s.hasRoom j owned m
  let set (m : Nat) : Bool := s.hasRoom j owned m && (m / 8 != e1 / 8 || !other)
  let before := (List.range ((n + 64 - (e1 + 32) % 64) % 64)).map fun i => (e1 + 32 + i) % 64
  set n && !(before.any fun m => s.engineFree .bn m && set m)

/-- The candidate that a pool or cipher job offers to an engine of its class. -/
def State.candWork (s : State) (c : EngClass) (n : Nat) (j : Job) : Option Cand :=
  if j.cls != c || j.stage != .queued || s.heldWork j || (c == .cipher && !(s.engine c n).seeded) then none
  else
    let r := s.reserve j false 0
    some ⟨j, false, j.dev.isNone && decide (r ≤ s.balance c j.sub.slice?), r, none⟩

/-- The oldest of some candidates, a restarted job of its slice first (R171). -/
def oldest (l : List Cand) : Option Cand :=
  match l with
  | [] => none
  | c :: _ => some ((l.find? fun d => d.job.front && d.job.sub.slice? == c.job.sub.slice?).getD c)

/-- The oldest of an engine's own queue, behind a job that returned to its head (R173). -/
def headed (l : List Cand) : Option Cand := match l.find? fun d => d.job.headed with | some d => some d | none => oldest l

/-- The first in rotated slice order (R167, R171). -/
def State.rotated (s : State) (l : List Cand) : Option Cand :=
  let order : List (Option (BitVec 6)) :=
    ((List.range 64).map fun i => some (BitVec.ofNat 6 (s.whisk.frame.toNat + i))) ++ [none]
  order.findSome? fun x => oldest (l.filter fun c => c.job.sub.slice? == x)

/-- The seal signature that starts first (R237): of the earliest tick end, which its statement names, and of those the lowest
market. -/
def sealOrder (l : List Cand) : Option Cand :=
  let key (d : Cand) : Nat :=
    ofBE (slice 40 8 d.job.payload) * 2 ^ 17 + (match d.job.seal_ with | some x => x.1.toNat | none => 0)
  l.foldl (fun m d => match m with
    | none => some d
    | some c => if key d < key c then some d else some c) none

/-- The first candidate of steps 2 to 5 of R171, behind the seal runs (R237), of those that jobs offer to engine `n`. -/
def State.chooseBy (s : State) (n : Nat) (f : Job → Option Cand) : Option Cand :=
  let seals := (s.eng.jobs.filter fun j => j.seal_.isSome).filterMap f
  let all := (s.eng.jobs.filter fun j => j.seal_.isNone && j.dev.isNone).filterMap f
  let own := all.filter fun d => d.job.home == n
  let other := all.filter fun d => d.job.home != n
  let pick (o : Bool) (l : List Cand) : List Cand := l.filter fun d => d.owned == o
  match sealOrder seals, headed (pick true own), s.rotated (pick true other), headed (pick false own) with
  | some d, _, _, _ => some d
  | none, some d, _, _ => some d
  | none, none, some d, _ => some d
  | none, none, none, some d => some d
  | none, none, none, none => s.rotated (pick false other)

/-- Step 1 of R171: the device-class segment of a class, one in a frame (R34). A Stockpot seal's work comes before any other
(R424). -/
def State.deviceBy (s : State) (c : EngClass) (f : Job → Option Cand) : Option Cand :=
  if s.whisk.devRan.contains c then none
  else ((s.eng.jobs.filter fun j => j.dev == some .stkSeal) ++
    (s.eng.jobs.filter fun j => j.dev.isSome && j.dev != some .stkSeal)).findSome? f

/-- The first candidate of an engine (R171) of those that jobs offer to it. -/
def State.firstBy (s : State) (c : EngClass) (n : Nat) (f : Job → Option Cand) : Option Cand :=
  match s.deviceBy c f with | some d => some d | none => s.chooseBy n f

/-! ### The companion of a lattice chunk (R124, R174) -/

/-- The step of R171 at which a pool engine takes a candidate, with the seal runs behind step 1 (R237). -/
def Cand.step (d : Cand) (n : Nat) : Nat :=
  if d.job.dev.isSome then 0
  else if d.job.seal_.isSome then 1
  else (if d.owned then 2 else 4) + (if d.job.home = n then 0 else 1)

/-- Place of a job's slice in rotated slice order (R167). -/
def State.slicePlace (s : State) (j : Job) : Nat :=
  match j.sub.slice? with
  | some x => (BitVec.ofNat 6 (x.toNat + 64 - s.whisk.frame.toNat % 64)).toNat
  | none => 64

/-- A pool engine takes candidate `c` before the chunk of a job, which stands in no pool engine's own queue (R171, R174). -/
def State.before (s : State) (n : Nat) (c : Cand) (j : Job) (owned : Bool) : Bool :=
  let d : Cand := { job := { j with home := 0x10000 }, second := false, owned := owned, reserve := 0, area := none }
  let x := (c.step n, s.slicePlace c.job, c.job.id)
  let y := (d.step n, s.slicePlace j, j.id)
  decide (x.1 < y.1 ∨ (x.1 = y.1 ∧ (x.2.1 < y.2.1 ∨ (x.2.1 = y.2.1 ∧ x.2.2 < y.2.2))))

/-- The first of some free pool engines that a chunk gets: in engine order each takes the first of the pool's own candidates
that are left, unless the chunk comes before it (R171, R174, R180). -/
def State.companionAmong (j : Job) (owned : Bool) (ex : List Nat) : List Nat → State → Option Nat
  | [], _ => none
  | n :: ns, s =>
    match s.firstBy .pool n (s.candWork .pool n) with
    | some c =>
      if ex.contains n || s.before n c j owned then
        State.companionAmong j owned ex ns
          { s with eng := { s.eng with jobs := s.eng.jobs.filter fun k => k.id != c.job.id } }
      else some n
    | none => if ex.contains n then State.companionAmong j owned ex ns s else some n

/-- The companion that the chunk of a job's run gets, if one is free for it (R124, R174). -/
def State.companionFor (s : State) (j : Job) (second owned : Bool) : Option Nat :=
  State.companionAmong j owned (j.otherCompanion second) (enginesWhere .pool s.idleEngine) s

/-- The candidate that a big-number job offers to an engine: a chunk of the run that stands there, or the start of a run
that it lacks. The consistency check of a prime generation starts when the generation has ended (R127). DESIGN CHOICE: R172
speaks of owned and borrowed starts; device-class work starts as a borrowed run does, in areas 2 and 3 (assumption 94). -/
def State.candBn (s : State) (j : Job) (n : Nat) : Option Cand :=
  let lat := bnLattice j.sub && !j.primes
  let own (second : Bool) (i : Nat) : Bool × Nat :=
    let r := s.reserve j second i
    (j.dev.isNone && decide (r ≤ s.balance .bn j.sub.slice?) && (!lat || decide (r ≤ s.balance .pool j.sub.slice?)), r)
  let ready (second owned : Bool) : Bool := !lat || (s.companionFor j second owned).isSome
  let here (r : Option Run) : Option Run := r.bind fun x => if x.engine.toNat = n && !x.done then some x else none
  let resume (second : Bool) (r : Run) : Option Cand :=
    let o := own second r.chunks
    if ready second o.1 then some ⟨j, second, o.1, o.2, none⟩ else none
  let start (second : Bool) : Option Cand :=
    let o := own second 0
    match (s.engine .bn n).pickArea o.1 (s.bnPair j) with
    | some a => if ready second o.1 then some ⟨j, second, o.1, o.2, some a⟩ else none
    | none => none
  if s.heldWork j then none
  else match here j.run1, here j.run2 with
    | some r, _ => resume false r
    | none, some r => resume true r
    | none, none =>
      if !s.eligibleRun j n then none
      else match j.run1, j.run2 with
        | none, _ => start false
        | some r, none =>
          if j.runs = 2 && (!j.primes || r.done) && s.secondHere j (own true 0).1 r.engine.toNat n then start true else none
        | some _, some _ => none

/-- The candidate that a job offers to an engine of a class. -/
def State.cand (s : State) (c : EngClass) (n : Nat) (j : Job) : Option Cand :=
  if c = .bn then (if j.cls != c || j.stage != .queued then none else s.candBn j n) else s.candWork c n j

/-- The first candidate of steps 2 to 5 of R171 of an engine. -/
def State.choose (s : State) (c : EngClass) (n : Nat) : Option Cand := s.chooseBy n (s.cand c n)

/-- The device-class candidate of an engine. -/
def State.deviceCand (s : State) (c : EngClass) (n : Nat) : Option Cand := s.deviceBy c (s.cand c n)

/-- The first candidate of an engine (R171). -/
def State.firstCand (s : State) (c : EngClass) (n : Nat) : Option Cand := s.firstBy c n (s.cand c n)

/-- It is an engine's turn: of several engines that are free in one cycle, the lower number chooses first (R180). -/
def State.turnOf (s : State) (c : EngClass) (n : Nat) : Bool :=
  (List.range n).all fun m => !s.engineFree c m || (s.firstCand c m).isNone

/-! ### Entering a queue -/

/-- The segments or runs of a queued job that wait for an engine, each with its chunk: of a big-number job neither a run whose
chunk is in progress nor one that has ended. -/
def State.waitingRuns (s : State) (j : Job) : List (Bool × Nat) :=
  if j.cls != .bn then [(false, 0)]
  else
    let idle (second : Bool) : List (Bool × Nat) :=
      match j.run second with
      | none => if second && (j.runs != 2 || !(match j.run1 with | some r => !j.primes || r.done | none => false)) then []
        else [(second, 0)]
      | some r =>
        let busy := match (s.engine .bn r.engine.toNat).running with
          | some g => g.job == j.id && g.second == second
          | none => false
        if r.done || busy then [] else [(second, r.chunks)]
    idle false ++ idle true

/-- A slice has an owned candidate queued in a class (R169, R174). A job that must wait for the log is none. -/
def State.ownedQueued (s : State) (c : EngClass) (x : BitVec 6) : Bool :=
  s.eng.jobs.any fun j =>
    j.cls == c && j.stage == .queued && j.sub.slice? == some x && !s.heldWork j &&
    (s.waitingRuns j).any fun r =>
      let n := s.reserve j r.1 r.2
      decide (n ≤ (s.account c x.toNat).balance.toNat) &&
      (!(c == .bn && bnLattice j.sub && !j.primes) || decide (n ≤ (s.account .pool x.toNat).balance.toNat))

/-- The wait of a slice for its first owned grant begins with its first owned candidate, and is over when it has none
(R173). -/
def State.noteWait (s : State) (c : EngClass) (x : Option (BitVec 6)) : State :=
  match x with
  | none => s
  | some i =>
    let a := s.account c i.toNat
    match a.since, s.ownedQueued c i with
    | none, true => s.setAccount c i.toNat { a with since := some s.now }
    | some _, false => s.setAccount c i.toNat { a with since := none }
    | _, _ => s

/-- A job enters the queue of its home engine (R165), or waits while its home queues are full. Work of the seal unit and of
the device has no home. -/
def State.enqueue (s : State) (id : Nat) : State :=
  match s.job id with
  | none => s
  | some j =>
    let x := match j.sub.slice? with | some x => x.toNat | none => 0
    if j.seal_.isSome || j.dev.isSome then s.setJob { j with stage := .queued, home := 0x10000 }
    else if s.homeFull j.cls x then s.setJob { j with stage := .blocked }
    else (s.setJob { j with stage := .queued, home := s.homeEngine j.cls x }).noteWait j.cls j.sub.slice?

/-- A job whose message is hashed goes on to the big-number engines (R122). -/
def State.toBn (s : State) (j : Job) : State := (s.setJob { j with cls := .bn, pos := 0, stage := .blocked }).enqueue j.id

/-- Another job that names the same digest slot comes first (R89). -/
def State.slotBusy (s : State) (j : Job) : Bool :=
  isDigestOp j.sub.op && j.sub.op != 0x45 && j.sub.op != 0x46 &&
  s.eng.jobs.any fun k => decide (k.id < j.id) && isDigestOp k.sub.op && k.sub.op != 0x45 && k.sub.op != 0x46 &&
    k.sub.slotKey == j.sub.slotKey

/-! ### Taps (R95, R96) -/

/-- A tap. -/
def State.tapOf (s : State) (t : Nat) : Tap := if t = 0 then s.eng.tap0 else if t = 1 then s.eng.tap1 else s.eng.tap2

/-- Replace a tap. -/
def State.setTap (s : State) (t : Nat) (x : Tap) : State :=
  if t = 0 then { s with eng := { s.eng with tap0 := x } }
  else if t = 1 then { s with eng := { s.eng with tap1 := x } }
  else { s with eng := { s.eng with tap2 := x } }

/-- The tap that a TAP job names. -/
def tapNo (u : Submission) : Nat := u.nat 8 8 % 4

/-- A tap is open: for a TAP job, or for an admission (R95, R96, R273). -/
def State.tapBusy (s : State) (t : Nat) : Bool := (s.tapOf t).isOpen

/-- A key in a key register. -/
def keyReg (w : Nat) (key : Bytes) : BitVec w := BitVec.ofNat w (ofLE key)

/-- Count calls of a pool engine. -/
def State.addCalls (s : State) (n calls : Nat) : State :=
  let e := s.engine .pool n
  s.setEngine .pool n { e with calls := e.calls + BitVec.ofNat 64 calls }

/-- Open a tap on a pool engine: for a job, with its key in the engine's register, or for an admission (R96, R103, R273). -/
def State.holdTap (s : State) (t n : Nat) (job : Option Nat) (key : Bytes) (x : Slot) : State :=
  (s.setEngine .pool n { s.engine .pool n with tap := some (BitVec.ofNat 2 t), key := keyReg 512 key }).setTap t
    { Tap.closed with job := job, isOpen := true, engine := BitVec.ofNat 8 n, digest := x }

/-- Open a tap for a job on the lowest idle pool engine, whose calls load its key (R82, R96). None: no engine is idle. -/
def State.openTap (s : State) (j : Job) : Option State :=
  match s.freeCompanion [] with
  | none => none
  | some n =>
    let b := dgBlock j.sub
    let r := s.startDigest j
    match r.2 with
    | .error v => some (r.1.finish j.id v 0)
    | .ok k =>
      let x := Slot.start b.alg b.handle b.import_ k.key k.key2 (BitVec.ofNat 16 b.outLen)
      some ((((r.1.leaveCache j.sub j.sub.delivered).holdTap (tapNo j.sub) n (some j.id) k.key x).addCalls n b.loadCalls).setJob { k with stage := .running })

/-- Octets of the tap buffer. -/
abbrev tapSize : Nat := 4096

/-- What waits behind a full buffer enters it as far as it has room. -/
def Tap.fill (x : Tap) : Tap :=
  let n := tapSize - x.buffer.length
  { x with buffer := x.buffer ++ x.held.take n, held := x.held.drop n }

/-- Of `n` octets, those that pass an open tap: as many as its job's declared length leaves. The tap of an admission takes
all. -/
def State.tapWants (s : State) (t n : Nat) : Nat :=
  let x := s.tapOf t
  if !x.isOpen then 0
  else match x.job.bind s.job with
    | none => n
    | some j => min n ((dgBlock j.sub).len - x.bytes.toNat)

/-- Octets pass a tap (R95, R96): as many as its declared length leaves. What finds the buffer full is held, never dropped. -/
def State.tapFeed (s : State) (t : Nat) (bs : Bytes) : State :=
  let x := s.tapOf t
  if !x.isOpen then s
  else
    let bs := bs.take (s.tapWants t bs.length)
    s.setTap t ({ x with bytes := x.bytes + BitVec.ofNat 64 bs.length, held := x.held ++ bs }).fill

/-- Calls that absorb octets into a tap's digest. -/
def Tap.calls (x : Tap) (n : Nat) : Nat := (x.digest.buf.length + n) / hashBlock x.digest.alg

/-- A tap segment ends (R96, R181): the buffer's contents are digested, and what was held moves up. -/
def State.tapSegment (s : State) (t : Nat) : State :=
  let x := s.tapOf t
  let d := x.digest.absorb x.buffer
  (s.addCalls x.engine.toNat (x.calls x.buffer.length)).setTap t ({ x with digest := d, buffer := [] }).fill

/-! ### Beginning a job -/

/-- A key-tree command whose checks and draws are done runs, unless it must be held (R72). -/
def State.ktReady (s : State) (j : Job) : State :=
  let u := j.sub
  if s.heldJob u then s.setJob { j with stage := .blocked }
  else if u.op = 0x08 && s.needsPrimes u.issuer (u.field 32 4 4) && (s.checkHandle u.issuer (u.field 32 4 4) false).isOk then
    s.toBn { j with primes := true, key := s.primeSeed (s.entry (hIndex (u.field 32 4 4))) }
  else
    let r := s.ktRun u j.rand
    r.1.finish j.id r.2.1 r.2.2

/-- A draw whose seed has been taken goes on, unless the log holds it up (R158). -/
def State.drawReady (s : State) (j : Job) : State :=
  if s.stk.hold then s.setJob { j with stage := .blocked }
  else
    let r := s.doDraw j
    match r.2 with
    | some v => r.1.finish j.id v.1 v.2
    | none =>
      match r.1.job j.id with
      | some k => r.1.setJob { k with stage := .blocked }
      | none => r.1

/-- The class of a job's first work of its own. -/
def Job.firstClass (j : Job) : EngClass := if j.hashing = 0 then opClass j.sub.op else .pool

/-- A job whose keys must be derived has that work first, on the pool as its slice's (R71). -/
def State.deriveFirst (s : State) (j : Job) : Job :=
  let n := s.derivation j
  if n = 0 then j else { j with deriveLeft := n, pos := 0, cls := .pool }

/-- A job or command whose checks, draws and derivations are done goes on: commands, RANDOM, DRAW and saved state run at once, a
tap opens, an engine job enters its queue. -/
def State.jobReady (s : State) (id : Nat) : State :=
  match s.job id with
  | none => s
  | some j =>
    let u := j.sub
    let done (r : State × Verdict × DWord) : State := r.1.finish id r.2.1 r.2.2
    if s.derivation j ≠ 0 then (s.setJob (s.deriveFirst j)).enqueue id
    else if j.seal_.isSome || j.dev.isSome then s.enqueue id
    else if isKtOp u.op then s.ktReady j
    else if u.op = 0x70 then done (s.writeOut u j.rand (BitVec.ofNat 64 (u.nat 0x10 8)))
    else if u.op = 0x71 then s.drawReady j
    else if u.op = 0x43 then done (s.doSave u)
    else if u.op = 0x44 then done (s.doRestore u)
    else if u.op = 0x45 then (s.openTap j).getD s
    else s.enqueue id

/-- Make a job's draws in order, as far as they need not wait (R121, R154). -/
def State.drawAll (s : State) (id : Nat) : Nat → State
  | 0 => s.jobReady id
  | n + 1 =>
    match s.job id with
    | none => s
    | some j =>
      match j.draws with
      | [] => s.jobReady id
      | d :: ds =>
        match s.draw d (some id) with
        | .got bs t => (t.setJob { j with draws := ds, rand := j.rand ++ bs }).drawAll id n
        | .wait t => t.setJob { j with stage := .entropy }
        | .failed v => s.finish id v 0

/-- Colander has met the first of a job's draws (R149). -/
def State.drawn (s : State) (id : Nat) (bs : Bytes) : State :=
  match s.job id with
  | none => s
  | some j =>
    let s := s.setJob { j with draws := j.draws.drop 1, rand := j.rand ++ bs, stage := .blocked }
    s.drawAll id j.draws.length

/-- A job waits while its home queues are full (R165). -/
def State.homeWaits (s : State) (u : Submission) : Bool :=
  !engineless u.op && s.homeFull (opClass u.op) (match u.slice? with | some x => x.toNat | none => 0)

/-- A job that has passed its checks: the first of its work may be a pass over its message on the pool (R122). -/
def Job.passed (j : Job) : Job :=
  let n := if isBnOp j.sub.op then (bnBlock j.sub).passes else 0
  { j with hashing := n, cls := if n = 0 then opClass j.sub.op else .pool }

/-- The checks of a job's start, its draws, and on (R494, R331). A job that must wait stays blocked: for an earlier job
of its slot (R89), for its tap (R96), for the log hold (R72, R158), for room in its home queue (R165). -/
def State.beginNow (s : State) (id : Nat) : State :=
  match s.job id with
  | none => s
  | some j =>
    let u := j.sub
    if j.stage != .blocked || s.homeWaits u then s
    else if j.rand != [] || j.passes != [] || j.dev.isSome then s.jobReady id
    else if s.quiesces u then s.finish id vAborted 0
    else if isKtOp u.op || u.origin == .regs then
      if s.heldJob u then s
      else match s.ktFormat u with
        | some v => s.finish id v 0
        | none =>
          match s.ktPre u with
          | some r => s.finish id r.1 r.2
          | none =>
            let ds := ktDraws u.op
            (s.setJob { j with draws := ds }).drawAll id (ds.length + 1)
    else if s.slotBusy j then s
    else match s.jobCheck u with
      | some v => (if s.overCount u v then s.setSlot u.slotKey Slot.empty else s).finish id v 0
      | none =>
        if u.op = 0x71 && s.stk.hold then s
        else if u.op = 0x45 && s.tapBusy (tapNo u) then s
        else
          match s.withReach u with
          | none => s.finish id (verdict St.accessFault 0) 0
          | some u =>
            let ds := jobDraws u
            (s.setJob { j.passed with sub := u, draws := ds }).drawAll id (ds.length + 1)

/-- A job begins, on the entries that it then has (R261). -/
def State.beginJob (s : State) (id : Nat) : State :=
  match s.job id with
  | none => s
  | some j => if j.stage == .blocked then (s.refresh j).beginNow id else s

/-- Begin every blocked job that can begin, in order of submission. -/
def State.settle (s : State) : State :=
  ((s.eng.jobs.filter fun j => j.stage == .blocked).map Job.id).foldl State.beginJob s

/-- A submission under an opcode (R66, R84): it becomes a job and begins. -/
def State.submit (s : State) (op : Byte) (u : Submission) : State :=
  let u := { u with block := op :: u.block.drop 1 }
  let id := s.eng.nextJob
  ((s.addJob u).beginJob id).settle

/-- The device submits work of its own (R33): its key and inputs stand in the job. -/
def State.submitDev (s : State) (u : Submission) (f : Job → Job) : State :=
  let id := s.eng.nextJob
  let s := s.addJob u
  match s.job id with
  | none => s
  | some j =>
    let j := f { j with hashing := 1, cls := .pool }
    (s.setJob j).drawAll id (j.draws.length + 1)

/-! ### Dispatch -/

/-- Deduct a reservation from a slice's balance (R169). -/
def State.deduct (s : State) (c : EngClass) (x : Option (BitVec 6)) (r : Nat) : State :=
  match x with
  | none => s
  | some i =>
    let a := s.account c i.toNat
    s.setAccount c i.toNat { a with balance := a.balance - BitVec.ofNat 16 r }

/-- An owned grant ends the slice's wait (R173, WSK_SLC_WAIT). -/
def State.granted (s : State) (c : EngClass) (x : Option (BitVec 6)) : State :=
  match x with
  | none => s
  | some i =>
    let a := s.account c i.toNat
    match a.since with
    | none => s
    | some t =>
      let w := min 0xFFFFFFFF (cyclesNs (s.now - t))
      s.setAccount c i.toNat { a with since := none, waitNs := if a.waitNs.toNat < w then BitVec.ofNat 32 w else a.waitNs }

/-- The segment that a candidate starts. -/
def State.segmentOf (s : State) (d : Cand) : Segment :=
  let i := match d.job.run d.second with | some r => r.chunks | none => 0
  { job := d.job.id, second := d.second, slice := d.job.sub.slice?, owned := d.owned, reservation := d.reserve,
    frame := s.whisk.frame, device := d.job.dev.isSome, inserted := false, companion := false, began := s.now,
    cycles := s.workCycles d.job d.second i, off := 0 }

/-- How far into its source a job has read when its next segment or chunk has started. -/
def State.reads (s : State) (c : EngClass) (j : Job) : Nat :=
  if c = .bn then j.sub.delivered else (s.nextSpans j).foldl (fun (m : Nat) x => max m x.2) 0

/-- Place a segment on an engine: balance, wait, the class's device-class segment of the frame, running segment (R34, R169,
R173). -/
def State.place (s : State) (c : EngClass) (n : Nat) (g : Segment) : State :=
  let s := match s.job g.job with
    | some j => s.leaveCache j.sub (s.reads c j)
    | none => s
  let s := if g.owned then (s.deduct c g.slice g.reservation).granted c g.slice else s
  let s := if g.device then { s with whisk := { s.whisk with devRan := s.whisk.devRan ++ [c] } } else s
  s.setEngine c n { s.engine c n with running := some g }

/-- The device's own work, a seal signature or device-class work: its input stands in the job. -/
def Job.own (j : Job) : Bool := j.seal_.isSome || j.dev.isSome

/-- The check of its handles that a running job repeats at each segment (R65, R108, R138). -/
def State.handleVerdict (s : State) (j : Job) : Option Verdict :=
  let u := j.sub
  if j.seal_.isSome then
    s.recheck (match u.charge with | some x => .slice x | none => .s) (bnBlock u).handle opSeal
  else if isKtOp u.op then (match s.checkHandle u.issuer (u.field 32 4 4) false with | .error v => some v | .ok _ => none)
  else if isDigestOp u.op then
    match dgOp u with | some o => s.recheck u.issuer (s.dgHandle u) o | none => none
  else if isCipherOp u.op then
    orElse? (s.recheck u.issuer (cpBlock u).handle (cpOp u.op))
      (if (cpBlock u).mode = 0x05 then s.recheck u.issuer (cpBlock u).handle2 (cpOp u.op) else none)
  else if (bnBlock u).extKey then none
  else match bnOp u.op with
    | some o => s.recheck u.issuer (bnBlock u).handle o
    | none => match s.checkHandle u.issuer (bnBlock u).handle false with | .error v => some v | .ok _ => none

/-- What ends a running job at a boundary, or before its next segment (R65, R108, R138, R443). The device's own work meets no
check again. -/
def State.boundaryCheck (s : State) (j : Job) : Option Verdict :=
  if j.dev.isSome then j.ending
  else
    let fn := if isKtOp j.sub.op then ktFn j.sub.op else jobFn j.sub
    orElse? j.ending (orElse? (s.handleVerdict j) (if s.modeAllows j.sub.issuer fn then none else some modeRefusal))

/-- A job goes on with a segment after its first, if it passes its checks again (R65). -/
def State.goOn (s : State) (j : Job) : State × Except Verdict Job :=
  match s.boundaryCheck j with
  | some v => (s, .error v)
  | none => (s, .ok j)

/-- The checks of a digest or cipher job's segment, and at its first the key. Derivation steps, and a pass over the message of a
big-number job, load no key. -/
def State.startWork (s : State) (j : Job) : State × Except Verdict Job :=
  if j.begun then s.goOn j
  else if j.deriveLeft ≠ 0 || isBnOp j.sub.op then (s, .ok j)
  else if j.dev.isSome then (s, .ok { j with started := true })
  else if j.cls = .cipher then s.startCipher j
  else s.startDigest j

/-- Start a digest or cipher candidate on an engine (R65, R166). The segment reads its part of the source. -/
def State.startSegment (s : State) (c : EngClass) (n : Nat) (d : Cand) : State :=
  let r := s.startWork d.job
  match r.2 with
  | .error v => (r.1.finish d.job.id v 0).settle
  | .ok j =>
    let sp := r.1.nextSpans j
    let v := if j.own then (r.1, none) else r.1.spansVerdict j.sub sp
    match v.2 with
    | some e => ((v.1.setJob j).finish j.id e 0).settle
    | none =>
      let j := if j.own then j else v.1.readPart j sp
      let j := { j with stage := .running, headed := false }
      let s := (v.1.setJob j).place c n (v.1.segmentOf { d with job := j })
      s.setEngine c n { s.engine c n with key := keyReg 512 j.key, tweak := keyReg 256 j.key2 }

/-- Occupy areas of a big-number engine with a run. -/
def Engine.occupy (e : Engine) (id : Nat) (a : Nat × Nat) : Engine :=
  { e with areas := Vector.ofFn fun i =>
      if a.1 ≤ i.val ∧ i.val < a.1 + a.2 then some id else e.areas[i] }

/-- Load a run's areas (R113): the key into the secret slots, the public inputs into the working space. What a former job
left elsewhere stays (R136). -/
def Engine.load (e : Engine) (base : Nat) (key input : Bytes) (areas : Nat) : Engine :=
  { e with opmem := workWrite (memWrite e.opmem (base * 0x4000) (key.take 0x1000)) base (input.take (areas * 0x3000)) }

/-- The secret that the part in progress loads into the secret slots: none for a public operation. The consistency check of a
prime generation has the key that the generation gave. -/
def State.runKey (s : State) (j : Job) (second : Bool) : Bytes :=
  if j.primes then
    let k := rsaBytes (s.entry (hIndex (primeHandle j.sub))).type
    if second then rsaGenerate k j.key else j.key
  else if j.secretPart then j.key else []

/-- A run of the part in progress, from its first chunk. Prime generation and its check have no validation status, and no
output words that a job reads. -/
def State.newRun (s : State) (j : Job) (second : Bool) (n base areas : Nat) : Run :=
  let x := j.input
  { engine := BitVec.ofNat 6 n, base := BitVec.ofNat 2 base, areas := BitVec.ofNat 2 areas, chunks := 0,
    total := (s.runProgram j second).chunks,
    stream := if j.primes then Stream.empty else { Stream.empty with todo := x.work j.part },
    companion := none, done := false, status := if j.primes then 0 else x.status,
    outLen := if j.primes then 0 else x.output.1.length }

/-- A run starts in areas of an engine. -/
def State.startRun (s : State) (j : Job) (second : Bool) (n : Nat) (a : Nat × Nat) : State :=
  let e := ((s.engine .bn n).occupy j.id a).load a.1 (s.runKey j second) (if j.primes then [] else j.input.public) a.2
  (s.setEngine .bn n e).setJob ((j.setRun second (some (s.newRun j second n a.1 a.2))))

/-- The checks of a big-number job's chunk, and at its first the key. A job that needs the primes of an RSA node has them generated
first (R52, R127). -/
def State.startPart (s : State) (j : Job) : State × Except Verdict Job :=
  if j.started || j.primes then s.goOn j
  else if j.dev.isSome then s.startDev j
  else if !j.primed && !(bnBlock j.sub).extKey && s.needsPrimes j.sub.issuer (bnBlock j.sub).handle then
    (s, .ok { j with primes := true, key := s.primeSeed (s.entry (hIndex (bnBlock j.sub).handle)) })
  else if j.seal_.isSome then s.startSeal j
  else s.startBn j

/-- The companion of a chunk that starts (R124, R174). -/
def State.startCompanion (s : State) (d : Cand) : State :=
  match s.companionFor d.job d.second d.owned with
  | none => s
  | some m =>
    let s := s.place .pool m { s.segmentOf d with companion := true }
    match s.job d.job.id with
    | none => s
    | some j => match j.run d.second with
      | none => s
      | some r => s.setJob (j.setRun d.second (some { r with companion := some (BitVec.ofNat 8 m) }))

/-- Start or resume a big-number candidate on an engine, in the array's mode for its program, with its companion if it is a
lattice job (R112, R115, R124, R129, R174, R179). -/
def State.startChunk (s : State) (n : Nat) (d : Cand) : State :=
  let r := s.startPart d.job
  match r.2 with
  | .error v => (r.1.finish d.job.id v 0).settle
  | .ok j =>
    let j := { j with headed := false }
    let s := match d.area with
      | none => r.1.setJob j
      | some a => r.1.startRun j d.second n a
    let lat := bnLattice j.sub && !j.primes
    let d := { d with job := (s.job j.id).getD j }
    let s := (s.setEngine .bn n { s.engine .bn n with lattice := lat }).place .bn n (s.segmentOf d)
    if lat then s.startCompanion d else s

/-- The limited handle of which the segment that a job starts with takes a counted use (R58). -/
def State.takesUse (s : State) (j : Job) : Option Word :=
  let u := j.sub
  let b := bnBlock u
  let counted :=
    if isDigestOp u.op then dgCounted u
    else if isCipherOp u.op then true
    else !b.extKey && (match bnOp u.op with | some o => countedOp o | none => false)
  let h := s.namedHandle u
  if j.begun || j.own || isKtOp u.op || j.deriveLeft ≠ 0 || j.hashing ≠ 0 || j.primes || !counted then none
  else if (limitOf (s.entry (hIndex h)).useLimit).isNone then none
  else some h

/-- What some free engines of a class start in one cycle, in engine order. -/
def State.starters (c : EngClass) : List Nat → State → List Cand
  | [], _ => []
  | n :: ns, s =>
    match s.firstCand c n with
    | none => State.starters c ns s
    | some d =>
      d :: State.starters c ns { s with eng := { s.eng with jobs := s.eng.jobs.filter fun k => k.id != d.job.id } }

/-- Counted uses of the same handle that candidates of slices that come earlier in rotated slice order take in the same cycle on
other free engines (Table 6.2): they have the uses that are left. -/
def State.usesBefore (s : State) (c : EngClass) (n : Nat) (d : Cand) : Nat :=
  match s.takesUse d.job with
  | none => 0
  | some h =>
    let rest : State := { s with eng := { s.eng with jobs := s.eng.jobs.filter fun k => k.id != d.job.id } }
    ((State.starters c (enginesWhere c fun m => decide (n < m) && s.engineFree c m) rest).filter fun x =>
      s.takesUse x.job == some h && decide (s.slicePlace x.job < s.slicePlace d.job)).length

/-- The uses that are left of a candidate's handle all go to candidates that come before it (R58, R180). -/
def State.usesSpoken (s : State) (c : EngClass) (n : Nat) (d : Cand) : Bool :=
  match s.takesUse d.job with
  | none => false
  | some h =>
    let e := s.entry (hIndex h)
    let k := s.usesBefore c n d
    match limitOf e.useLimit with
    | none => false
    | some l => k != 0 && decide (e.useCount.toNat < l) && decide (l ≤ e.useCount.toNat + k)

/-- A free engine whose turn it is starts its first candidate in Whisk's order (R171, R180). -/
def State.dispatch (s : State) (c : EngClass) (n : Nat) : State :=
  if !s.engineFree c n || !s.turnOf c n then s
  else
    let s := match s.firstCand c n with
      | some d => if s.stale d.job then (s.refresh d.job).beginNow d.job.id else s
      | none => s
    match s.firstCand c n with
    | none => s
    | some d =>
      if s.stale d.job then s
      else if s.usesSpoken c n d then (s.finish d.job.id (verdict St.keyExhausted 0) 0).settle
      else if c = .bn then s.startChunk n d
      else s.startSegment c n d

/-! ### Boundaries -/

/-- Charge a segment's cycles to its slice, and return what is left of its reservation (R169, R170). -/
def State.charge (s : State) (c : EngClass) (g : Segment) (used : Nat) : State :=
  if g.device then { s with whisk := { s.whisk with devCyc := s.whisk.devCyc + BitVec.ofNat 64 used } }
  else match g.slice with
    | none => s
    | some x =>
      let a := s.account c x.toNat
      let a := if g.owned then { a with
          owned := a.owned + BitVec.ofNat 64 used,
          balance := if g.frame = s.whisk.frame then a.balance + BitVec.ofNat 16 (g.reservation - used) else a.balance }
        else { a with borrowed := a.borrowed + BitVec.ofNat 64 used }
      s.setAccount c x.toNat a

/-- The cycles of a segment that is dropped before its end: those for which it has held its engine, neither stalled nor under
an insertion, and no more than its work. -/
def Segment.heldFor (g : Segment) (now : Nat) : Nat := min g.cycles (now - g.began - g.off)

/-- A job that stays at a boundary competes again (R173): it loses its engine if another candidate comes first, goes to the
head of its queue, and its slice counts one pre-emption. An engine that starts nothing is lost to no one, nor is any by a job
that must wait. -/
def State.notePreempt (s : State) (c : EngClass) (n : Nat) (id : Nat) : State :=
  let s := match s.job id with | some j => s.noteWait c j.sub.slice? | none => s
  match s.firstCand c n, s.job id with
  | some d, some j =>
    if d.job.id = id || !s.engineFree c n || (s.cand c n j).isNone then s
    else
      let s := s.setJob { j with headed := true }
      match j.sub.slice? with
      | some x =>
        let a := s.account c x.toNat
        s.setAccount c x.toNat { a with preempt := a.preempt + 1 }
      | none => s
  | _, _ => s

/-- A job whose accesses are judged under the epoch of a segment of it (R353). -/
def Job.under (j : Job) (old : Bool) : Job := { j with sub := { j.sub with old := old } }

/-- A segment's accesses are over: the job's next ones take the current epoch. -/
def State.epochOver (s : State) (id : Nat) : State :=
  match s.job id with
  | some j => s.setJob (j.under false)
  | none => s

/-! ### Stalls (R105, R106) -/

/-- Blocks between two seeds of a mask generator, at most. -/
abbrev maskLimit : Nat := 2 ^ 24

/-- Blocks of the segment that a cipher engine runs that its generator has not counted yet. -/
def State.blocksLeft (s : State) (n : Nat) : Nat :=
  let e := s.engine .cipher n
  match e.running.bind fun g => s.job g.job with
  | some j => (cpBlock j.sub).calls j.pos (s.nextPos j).1 - e.segDone
  | none => 0

/-- 2^24 blocks have passed since the last seed: the engine stalls, the segment in progress keeping its state. -/
def State.stall (s : State) (n : Nat) : State :=
  let e := s.engine .cipher n
  if e.stalled.isSome then s
  else
    ((s.setEngine .cipher n { e with
      segDone := if e.running.isSome then e.segDone + (maskLimit - e.maskCnt.toNat) else 0, maskCnt := BitVec.ofNat 25 maskLimit,
      stalled := some s.now }).raise intCp 0).logEvent 4 8 1 sevNotice (engArg .cipher n) 0 0

/-- The blocks of a cipher segment that ends are counted; at 2^24 the engine stalls. -/
def State.countBlocks (s : State) (n k : Nat) : State :=
  let e := s.engine .cipher n
  let s := s.setEngine .cipher n { e with maskCnt := e.maskCnt + BitVec.ofNat 25 k, segDone := 0, running := none }
  if e.maskCnt.toNat + k = maskLimit then s.stall n else s

/-! ### Ends of segments and chunks -/

/-- The output of a cipher segment, when a check has ended its job at the boundary: what has passed is written, and no tag
(R65, R101). -/
def State.cipherPart (s : State) (j : Job) (p q : Nat) : State :=
  let b := cpBlock j.sub
  if j.dev.isSome then s
  else if b.wraps then (s.wrapSegment j p q).1 else
  let head := (if b.built then 12 else 0) + (if b.ivGen then 16 else 0)
  let lo := if p = 0 then 0 else head + (p - b.aadLen)
  if b.streams then (s.deliver j.sub b.dstSpace (b.dst + lo) (slice lo (head + (q - b.aadLen) - lo) j.cipherRun.1)).1 else s

/-- What the device's own cipher work gives: a share blob, wrapped, or unwrapped if its integrity holds (R373, R382). -/
def Job.shareOut (j : Job) : Option Bytes :=
  if j.sub.op = 0x54 then some (kwpWrap j.key j.payload) else kwpUnwrap j.key j.payload

/-- A cipher job after a segment that has ended. -/
def State.afterCipher (s : State) (n : Nat) (j : Job) : State :=
  let q := s.nextPos j
  match s.boundaryCheck j with
  | some v => ((s.cipherPart j j.pos q.1).finish j.id v 0).settle
  | none =>
    if j.dev.isSome && q.2 then
      match j.shareOut with
      | some out => ((s.setJob { j with output := out }).finish j.id Verdict.ok 0).settle
      | none => (s.finish j.id vAborted 0).settle
    else if j.dev.isSome then s.setJob { j with pos := q.1, stage := .queued }
    else
    let w := s.cipherWrite j j.pos q.1
    let j := w.2.1
    match w.2.2 with
    | some v => (w.1.finish j.id v 0).settle
    | none =>
      if q.2 then
        let r := w.1.endCipher j
        (r.1.finish j.id Verdict.ok r.2).settle
      else (w.1.setJob { j with pos := q.1, stage := .queued }).notePreempt .cipher n j.id

/-- A job whose keys have been derived goes on to its own work (R71). -/
def State.deriveDone (s : State) (j : Job) : State :=
  (s.setJob { j with deriveLeft := 0, derived := true, pos := 0, cls := j.firstClass, stage := .blocked }).jobReady j.id

/-- A pool job after a segment that has ended: derivation steps, a digest job, or a pass over the message of a big-number job
(R71, R122). -/
def State.afterPool (s : State) (n : Nat) (j : Job) : State :=
  let q := s.nextPos j
  match s.boundaryCheck j with
  | some v => (s.finish j.id v 0).settle
  | none =>
    if !q.2 then (s.setJob { j with pos := q.1, stage := .queued }).notePreempt .pool n j.id
    else if j.deriveLeft ≠ 0 then (s.deriveDone (j.under false)).settle
    else if isBnOp j.sub.op then
      let j := { j with
        pos := 0, stage := .queued, hashing := j.hashing - 1, passes := j.passes ++ [j.payload],
        payload := if j.own then j.payload else [] }
      if j.hashing = 0 then s.toBn j else (s.setJob j).notePreempt .pool n j.id
    else
      let r := s.endDigest j
      (r.1.finish j.id r.2.1 r.2.2).settle

/-- A digest or cipher segment ends (R103, R107, R108): charged, keys zeroed, its output written, the job checked, and
ended or queued again. A cipher engine whose generator comes to its limit inside the segment stalls instead, and a stalled
one keeps its segment (R106). -/
def State.endSegmentNow (s : State) (c : EngClass) (n : Nat) : State :=
  let e := s.engine c n
  match e.running with
  | none => s
  | some g =>
    if g.companion || e.stalled.isSome then s
    else if c = .cipher && decide (maskLimit < e.maskCnt.toNat + s.blocksLeft n) then s.stall n
    else
      let j? := (s.job g.job).map fun j => j.under g.old
      let s := (s.charge c g g.cycles).setEngine c n { e with key := 0, tweak := 0 }
      match j? with
      | none => s.setEngine c n { s.engine c n with running := none, segDone := 0 }
      | some j =>
        if c = .cipher then (s.countBlocks n (s.blocksLeft n)).afterCipher n j
        else
          let q := (s.nextPos j).1
          (s.setEngine c n { s.engine c n with
            running := none, calls := e.calls + BitVec.ofNat 64 (q - j.pos) }).afterPool n j

/-- The same, under the epoch that the segment took when it started (R353). An engine that holds a tap ends a tap
segment. -/
def State.endSegment (s : State) (c : EngClass) (n : Nat) : State :=
  match (s.engine c n).running, (s.engine c n).tap with
  | none, some t => if c = .pool then s.tapSegment t.toNat else s
  | none, none => s
  | some g, _ => if g.old then (s.endSegmentNow c n).epochOver g.job else s.endSegmentNow c n

/-- The pool engine that runs as the companion of a chunk. -/
def State.companionOf (s : State) (g : Segment) : Option Nat :=
  (List.range 160).find? fun m =>
    match (s.engine .pool m).running with
    | some h => h.companion && h.job == g.job && h.second == g.second
    | none => false

/-- Release the companion of a chunk (R124), charged as the chunk is. -/
def State.endCompanion (s : State) (g : Segment) : State :=
  match s.companionOf g with
  | none => s
  | some m =>
    let e := s.engine .pool m
    let s := match e.running with | some h => s.charge .pool h g.cycles | none => s
    s.setEngine .pool m { e with running := none, calls := e.calls + BitVec.ofNat 64 (g.cycles / 26) }

/-- Put a job's runs back to their first chunk, its draws and its count kept (R130). A run whose chunk is in progress comes
to its boundary first (R138). -/
def State.restartRun (s : State) (id : Nat) (first second : Bool) : State :=
  match s.job id with
  | none => s
  | some j =>
    let off (s : State) (r : Option Run) : State :=
      match r with
      | none => s
      | some r => s.setEngine .bn r.engine.toNat ((s.engine .bn r.engine.toNat).vacate id)
    let s := if first then off s j.run1 else s
    let s := if second then off s j.run2 else s
    s.setJob { j with
      run1 := if first then none else j.run1, run2 := if second then none else j.run2, front := true }

/-- A run after one more chunk of so many cycles: its companion has filled the stream buffer and the engine emptied it as
R125 says. A public operation ends with its validation phase if that failed (R134). -/
def Run.step (r : Run) (secret : Bool) (cycles : Nat) : Run :=
  { r with
    chunks := r.chunks + 1, stream := Stream.run (cycles / 26) r.stream,
    done := decide (r.total ≤ r.chunks + 1) || (!secret && r.status != 0) }

/-- What a chunk leaves in the areas of its run (R113, R125, R136): the stream buffer in the secret slots, intermediates in
the working space, and at the end of the program the output words. -/
def State.leaveWords (s : State) (n : Nat) (j : Job) (r : Run) : State :=
  let e := s.engine .bn n
  let base := r.base.toNat
  let m := if bnLattice j.sub then memWrite e.opmem (base * 0x4000 + 0x800) r.stream.buffer else e.opmem
  let m := if r.done && !j.primes then workWrite m base j.input.output.1 else m
  let w : Vector (Option Nat) 4 := Vector.ofFn fun i =>
    if base ≤ i.val ∧ i.val < base + r.areas.toNat then some s.free else e.work[i]
  { s.setEngine .bn n { e with opmem := m, work := w } with free := s.free + 1 }

/-- What the chunk of a job that has ended meanwhile leaves in the areas that it has used: words that nothing defines
(R136). -/
def State.leaveAreas (s : State) (n id : Nat) : State :=
  let e := s.engine .bn n
  let w : Vector (Option Nat) 4 := Vector.ofFn fun i => if e.areas[i] = some id then some s.free else e.work[i]
  { s.setEngine .bn n { e with work := w } with free := s.free + 1 }

/-- A retired big-number engine is scrubbed when nothing runs on it (R137). -/
def State.beginScrub (s : State) (n : Nat) : State :=
  let e := s.engine .bn n
  (s.setEngine .bn n { e with
    opmem := [], work := Vector.replicate 4 none, scrubbing := true, scrubs := e.scrubs + 1 }).logEvent
      4 9 3 sevAudit (engArg .bn n) 0 0

/-- The group of a big-number engine has drained for 2 ms, so that what is still resident there restarts elsewhere (R453). -/
def State.expels (s : State) (n : Nat) : Bool :=
  match groupOf .bn n with
  | some g =>
    let p := sparseGet PGroup.reset s.power.groups g
    p.state == .draining && p.expels
  | none => false

/-- A run may not go on where its chunk has ended: the engine has left service, its group has drained too long, or the chunk
has lost its companion (R130, R137, R182). -/
def State.runLost (s : State) (n : Nat) (lost : Bool) : Bool := (s.engine .bn n).health != .online || s.expels n || lost

/-- A run whose chunk has ended and that may not go on there starts again (R130). -/
def State.chunkLost (s : State) (n : Nat) (g : Segment) (lost : Bool) : State :=
  let e := s.engine .bn n
  let s := if s.runLost n lost then s.restartRun g.job (!g.second) g.second else s
  if e.health == .retired && !e.scrubbing then s.beginScrub n else s

/-- A job after a chunk of one of its runs (R115, R129, R134). -/
def State.afterChunk (s : State) (n : Nat) (g : Segment) (j : Job) (r : Run) : State :=
  let check := s.boundaryCheck j
  let r := r.step j.secretPart g.cycles
  let j := j.setRun g.second (some r)
  let s := (s.setJob j).leaveWords n j r
  match check with
  | some v => (s.finish j.id v 0).settle
  | none =>
    if !r.done then s.notePreempt .bn n j.id
    else if j.runs = 2 then s
    else
      let x := s.endBn j
      (x.1.finish j.id x.2.1 x.2.2).settle

/-- A big-number chunk ends (R115, R132, R134, R138): charged, its companion released, its run one chunk further. The chunk
of a job that has ended meanwhile only leaves its areas. -/
def State.endChunkNow (s : State) (n : Nat) : State :=
  let e := s.engine .bn n
  match e.running with
  | none => s
  | some g =>
    let s := (s.charge .bn g g.cycles).setEngine .bn n { e with running := none, calls := e.calls + 1 }
    match (s.job g.job).map fun j => j.under g.old with
    | none =>
      let s := (s.endCompanion g).leaveAreas n g.job
      (s.setEngine .bn n ((s.engine .bn n).vacate g.job)).chunkLost n g false
    | some j =>
      let lost := bnLattice j.sub && !j.primes && (s.companionOf g).isNone
      let s := s.endCompanion g
      match j.run g.second with
      | none =>
        let s := s.leaveAreas n g.job
        (s.setEngine .bn n ((s.engine .bn n).vacate g.job)).chunkLost n g false
      | some r =>
        if s.runLost n lost then (s.leaveWords n j (r.step j.secretPart g.cycles)).chunkLost n g lost
        else s.afterChunk n g j r

/-- The same, under the epoch that the chunk took when it started (R353). -/
def State.endChunk (s : State) (n : Nat) : State :=
  match (s.engine .bn n).running with
  | some g => if g.old then (s.endChunkNow n).epochOver g.job else s.endChunkNow n
  | none => s

/-- Both runs of a secret operation agree (R129): the first run's output completes the job, or the public-key phase ends
and its single run begins, on the first run's engine (R115, R123). -/
def State.compareEqual (s : State) (j : Job) : State :=
  if j.inPhase then
    let s := s.restartRun j.id false true
    let j := { j with key2 := publicKeyOf (bnBlock j.sub).alg j.key, run2 := none }
    match j.run1 with
    | none => s.setJob j
    | some r =>
      let n := r.engine.toNat
      if (s.engine .bn n).health = .online then
        s.startRun j false n (r.base.toNat, r.areas.toNat)
      else (s.setJob j).restartRun j.id true false
  else
    let x := s.endBn j
    (x.1.finish j.id x.2.1 x.2.2).settle

end Sys2Proof.Machine
end

