-- ==== Sys2Proof/Machine/CardOps.lean ====
section
/-! DEFINITION. The cards of the custodian stations and how turns and ceremonies end (R363 to R369, R374, R375, R378). -/

namespace Sys2Proof.Machine

/-- KIND codes of CUS_EVT (Table 13.17). -/
abbrev evCardIn : BitVec 4 := 1
abbrev evCardOut : BitVec 4 := 2
abbrev evKeyDown : BitVec 4 := 3
abbrev evKeyUp : BitVec 4 := 4
abbrev evTouchOn : BitVec 4 := 5
abbrev evTouchOff : BitVec 4 := 6
abbrev evApduDone : BitVec 4 := 7
abbrev evCardFault : BitVec 4 := 8
abbrev evActivated : BitVec 4 := 9

/-! ### Card exchanges (R364) -/

/-- Replace the turn of a station. -/
def State.setTurn (s : State) (n : Nat) (u : Option Turn) : State := s.setStn n { s.stn n with turn := u }

/-- The exchange of a station ends: the secret fields are zeroed (R382). -/
def Station.exchangeEnds (t : Station) : Station := { t with busy := false, secret := [] }

/-- A card that goes off, or faults, ends the exchange in progress (Table 13.17, CUS_INT_STS.APDU). -/
def State.cutExchange (s : State) (n : Nat) : State :=
  let t := s.stn n
  if t.busy then (s.setStn n { t.exchangeEnds with err := true }).raise intCus 2 else s

/-- A card is deactivated (Table 13.1). -/
def State.deactivateCard (s : State) (n : Nat) : State :=
  if (s.stn n).card == .off then s
  else
    let s := s.cutExchange n
    s.setStn n { s.stn n with card := .off }

/-- An APDU exchange starts (R364): ignored unless CARD is ACTIVE, and one at a time. -/
def State.sendApdu (s : State) (n : Nat) : State :=
  let t := s.stn n
  if t.card != .active || t.busy then s
  else s.setStn n { t with
    busy := true, done := false, overflow := false, err := false, link := { t.link with failures := 0 } }

def apduEndSession : Bytes := [0x80, 0x40, 0x00, 0x00]

/-- The kernel writes a command into a station's buffer and sends it; the turn waits for its answer. -/
def State.command (s : State) (n : Nat) (u : Turn) (step : TurnStep) (cmd secret : Bytes) : State :=
  (s.setStn n { s.stn n with
    apduBuf := cmd, secret := secret, apduLen := BitVec.ofNat 9 cmd.length, turn := some { u with step := step } }).sendApdu n

/-! ### How a turn ends (R374, R375) -/

/-- Record a turn's outcome (R387). -/
def State.logTurn (s : State) (n : Nat) (u : Turn) (text : String) : State :=
  s.logEvent 3 16 5 sevAudit n (Config.turnArg text u.index).toNat u.serial.toNat

/-- Replace the running ceremony. -/
def State.setCer (s : State) (c : Ceremony) : State := { s with cus := { s.cus with running := some c } }

/-- A text of the running part, shown where no turn runs (R374, R379). -/
def State.idleText (s : State) : String :=
  match s.cus.running with
  | none => ""
  | some c => match c.parts with
    | .q _ :: _ => "INSERT"
    | .p2 :: _ => "INSERT"
    | .e _ :: _ => "INSERT"
    | .v _ :: _ => "INSERT"
    | _ => ""

/-- A turn that has failed or aborted, whose card's session is still to end. -/
def Turn.over (u : Turn) : Bool := u.step == .ending || (u.step == .closing && !u.won)

/-- What a turn holds is given up: the INDEX of an enrolment is free again (R382), its cipher work ends. -/
def State.giveUp (s : State) (u : Turn) : State :=
  let s := match u.work with | some id => { s with eng := { s.eng with jobs := s.eng.jobs.filter fun j => j.id != id } } | none => s
  match s.cus.running with
  | some c =>
    if u.kind = .enrol then s.setCer { c with assigned := c.assigned.filter fun e => e != (u.part, u.index) } else s
  | none => s

/-- A card is deactivated, but one that has faulted stays so. -/
def State.cardOff (s : State) (n : Nat) : State := if (s.stn n).card == .fault then s else s.deactivateCard n

/-- A turn is over: END_SESSION goes to a card that is still active, once its exchange in progress has ended; any other is
deactivated (R374). -/
def State.endSession (s : State) (n : Nat) (u : Turn) : State :=
  let t := s.stn n
  let v : Turn := { u with won := false, work := none, result := none, blob := [] }
  if t.card != .active then (s.cardOff n).setTurn n none
  else if !t.busy then s.command n v .closing apduEndSession []
  else if u.step = .closing then s.setTurn n (some v)
  else s.setTurn n (some { v with step := .ending })

/-- A failure ends the turn (R374): red lit, a 500 ms buzz. -/
def State.failTurn (s : State) (n : Nat) (u : Turn) (text : String) : State :=
  let s := ((s.giveUp u).logTurn n u text).showAt n text lampRed
  (s.setStn n { s.stn n with buzz := 50 }).endSession n u

/-- Abort the turn of a station (R375): it contributes nothing and the station awaits a card. Of a turn that is over, the card is
only deactivated. -/
def State.abortTurn (s : State) (n : Nat) : State :=
  match (s.stn n).turn with
  | none => s
  | some u =>
    if u.over then (s.cardOff n).setTurn n none
    else (((s.giveUp u).showAt n s.idleText 0).logTurn n u "ABORTED").endSession n u

/-- Abort every turn in progress, as when an event is lost or the ceremony ends (R369, R375, R378). -/
def State.abortAllTurns (s : State) : State :=
  (List.range 8).foldl (fun t n => if (t.stn n).turn.any fun u => !u.over then t.abortTurn n else t) s

/-! ### The FIFO (R369) -/

/-- An event enters the FIFO, or is dropped at a full one: EVT_OVF is set, a Notice recorded, and every turn aborts. -/
def State.pushStn (s : State) (e : StnEvent) : State :=
  if s.cus.fifo.length < 64 then ({ s with cus := { s.cus with fifo := s.cus.fifo ++ [e] } }).raise intCus 0
  else (((({ s with cus := { s.cus with ovf := true } }).raise intCus 1).logEvent 3 16 9 sevNotice e.station.toNat 0
    0)).abortAllTurns

/-- An event of a card waits for the scan tick with whose events it enters. -/
def State.dueStn (s : State) (n : Nat) (kind key : BitVec 4) : State :=
  if (s.stn n).enable then { s with cus := { s.cus with due := s.cus.due ++ [(BitVec.ofNat 3 n, kind, key)] } } else s

/-- CARD_FAULT: the card is deactivated. In step 1 the turn fails (Table 13.8), later it aborts (R375). -/
def State.cardFault (s : State) (n : Nat) (cause : BitVec 4) : State :=
  let s := s.cutExchange n
  let s := (s.setStn n { s.stn n with card := .fault, cause := cause, dropout := none }).raise intCus 3
  let s := s.dueStn n evCardFault cause
  match (s.stn n).turn with
  | some u =>
    if u.step = .activating ∨ u.step = .selecting ∨ u.step = .identifying then s.failTurn n u "CARD ERR" else s.abortTurn n
  | none => s

/-! ### How a ceremony ends (R377, R378) -/

/-- End the running ceremony (R377, R378): with the outcome that its X or a part has settled, or another. ABORTED and
TIMEOUT are shown for 5 s. -/
def State.endCeremony (s : State) (outcome : BitVec 3) : State :=
  match s.cus.running with
  | none => s
  | some c =>
    let outcome := c.ending.getD outcome
    let s := s.abortAllTurns
    let s := if outcome = 0 then s else s.undoGeneration c
    let s := { s with cus := { s.cus with
      combiner := [], shares := [], running := none, lastOutcome := outcome,
      lastCer := c.request.cer } }
    let s := s.showAll "" 0
    let s := if outcome = 1 then s.notice "ABORTED" else if outcome = 2 then s.notice "TIMEOUT" else s
    (s.postEvent c.request.who.queueKey
      { kind := 0x81, arg := c.request.id, tag := outcome.setWidth 32, index := 0 }).logEvent
      3 16 4 sevAudit c.request.id.toNat 0 outcome.toNat

end Sys2Proof.Machine
end

