-- ==== Sys2Proof/Machine/Recovery.lean ====
section
/-! DEFINITION. Mode changes, non-tamper fatal conditions, secure-world restart triggers, exceptions of contexts,
refused register writes (R267, R268, R298, R305, R440 to R448, R491). -/

namespace Sys2Proof.Machine

/-! ### Mode changes -/

/-- Causes of Table 16.5. -/
abbrev causeColander : Byte := 0x01
abbrev causeSeedFail : Byte := 0x02
abbrev causeKernelLoad : Byte := 0x03
abbrev causeSwRestarts : Byte := 0x04
abbrev causeSwReady : Byte := 0x05
abbrev causeSramUe : Byte := 0x06
abbrev causeClassMin : Byte := 0x07
abbrev causeKernelRequest : Byte := 0x08
abbrev causeTamperHold : Byte := 0x09
abbrev causeStartRestart : Byte := 0x0A
abbrev causeResumeInvalid : Byte := 0x0B
abbrev causeSelfTest : Byte := 0x0C
abbrev causeHoldLimit : Byte := 0x0D
abbrev causeTamperErase : Byte := 0x20
abbrev causeCold : Byte := 0x21

/-- Change the mode and record the transition (R440, R492). The end of Commissioning sets TMP_LOCK.LOCK (R393),
which a reset that enters Start-up clears (R449), and any mode change ends a source test (R409). -/
def State.setMode (s : State) (m : Mode) (cause : Byte) : State :=
  let old := s.modes.mode
  let tested := s.tamper.test.isSome
  let s := { s with
    modes := { s.modes with mode := m },
    tamper := { s.tamper with
      lock := s.tamper.lock || (old == Mode.commissioning && m != Mode.startup), test := none } }
  let s := if tested then s.raise intTmp 5 else s
  let s := s.raise intMod 0
  s.logEvent 1 0 1 sevAudit (m.code.toNat + 256 * old.code.toNat) cause.toNat 0

/-- Write RESUME under the precedence of R441. -/
def Trivet.setResume (t : Trivet) (v : Byte) : Trivet :=
  if t.resume = 0xAA ∨ t.resume = 0x99 then t else { t with resume := v }

/-- Owner 0 is LIVE and no sticky flag is set (R447). -/
def State.serviceReady (s : State) : Bool := (s.owner 0).state == .live && s.trivet.flags == 0

/-- The mode that R447 chooses at the end of Start-up when nothing has failed. -/
def State.chosenMode (s : State) : Mode :=
  let r := s.trivet.resume
  if r = 0xAA then .erased
  else if r = 0x99 then .recovery
  else if r ≠ 0x55 ∧ r ≠ 0x66 then .recovery
  else if r = 0x66 ∧ s.serviceReady then .service
  else .commissioning

/-- The mode of R447, a Start-up failure included. -/
def State.endMode (s : State) : Mode :=
  if s.trivet.resume = 0xAA then .erased else if s.modes.failed then .recovery else s.chosenMode

/-- A job that its mode refuses ends (R443): at once if it has not started or no segment of it runs, else at its next
boundary. -/
def State.endRefused (s : State) : State :=
  let bad := s.eng.jobs.filter fun j => j.dev.isNone &&
    !s.modeAllows j.sub.issuer (if isKtOp j.sub.op then ktFn j.sub.op else jobFn j.sub)
  let busy (id : Nat) : Bool := s.eng.table.any fun e =>
    e.2.runs id
  (bad.foldl (fun t j =>
    if busy j.id then t.setJob { j with ending := some modeRefusal } else t.finish j.id modeRefusal 0) s).settle

/-- Entry into Recovery in place (R443), after the Trivet writes. -/
def State.enterRecovery (s : State) (cause arg : Byte) : State :=
  let old := s.modes.mode
  let t := s.trivet
  let t := if t.resume = 0xAA ∨ t.resume = 0x99 then t else { t with resume := 0x99, recFrom := old.code }
  let s := { s with trivet := { t with cause := cause, causeArg := arg } }
  let s := s.setMode .recovery cause
  let s := s.closeMarkets fun _ => true
  let s := s.closeWindows (fun _ => true) 5
  let s := s.endCeremony 1
  s.endRefused

/-- A non-tamper fatal condition (R440, R443, R448): recorded in every mode. -/
def State.raiseFatal (s : State) (cause arg : Byte) : State :=
  let s := (s.raise intMod 1).logEvent 1 0 3 sevAudit arg.toNat 0 cause.toNat
  match s.modes.mode with
  | .dormant => s
  | .erased => s
  | .recovery => { s with trivet := { s.trivet with cause := cause, causeArg := arg } }
  | .startup =>
    let t := s.trivet
    let t := if t.resume = 0xAA ∨ t.resume = 0x99 then t
      else { t with resume := 0x99, recFrom := s.chosenMode.code }
    { s with
      trivet := { t with cause := cause, causeArg := arg },
      modes := { s.modes with failed := true } }
  | .commissioning => s.enterRecovery cause arg
  | .service => s.enterRecovery cause arg

/-! ### Secure-world restart -/

/-- A trigger of a secure-world restart (R305, R306 step 1). The cause is RCAUSE of Table 10.10. -/
def State.triggerRestart (s : State) (cause : BitVec 2) : State :=
  if s.modes.mode = .startup then s.raiseFatal causeStartRestart 0
  else if s.worlds.restarting || s.worlds.kstate == .failed then s
  else
    let recent := inWindow s.now (60 * cyclesPerSec) s.worlds.restartTimes
    if 2 ≤ recent.length then s.raiseFatal causeSwRestarts 0
    else
      let w := { s.worlds with
        restarting := true, restartDue := true, kstate := .restarting, rcause := cause, t0 := s.tl.ns, 
        restarts := satInc s.worlds.restarts, restartTimes := recent ++ [s.now], armed := false }
      let t := { s with worlds := w }
      (t.noteConditions s).logEvent 1 21 1 sevAudit 0 cause.toNat t.worlds.t0.toNat

/-! ### Exceptions (R267, R268) -/

/-- Causes of Table 9.9. -/
abbrev excIllegal : BitVec 5 := 0x01
abbrev excPriv : BitVec 5 := 0x02
abbrev excFetch : BitVec 5 := 0x03
abbrev excLoad : BitVec 5 := 0x04
abbrev excStore : BitVec 5 := 0x05
abbrev excMisalign : BitVec 5 := 0x06
abbrev excSrDenied : BitVec 5 := 0x07
abbrev excJqConfig : BitVec 5 := 0x08
abbrev excJqOverrun : BitVec 5 := 0x09
abbrev excGate : BitVec 5 := 0x0A
abbrev excBreak : BitVec 5 := 0x0B
abbrev excMemEcc : BitVec 5 := 0x0C
abbrev excStrainer : BitVec 5 := 0x0D

/-- An exception stops a context at its instruction (R267): FAULTED, with CAUSE, TVAL and PC, and its delivery: a fault
at N to the manager's source 0x45, at H to the secure source 0x05, at S a restart of the secure world (R298). -/
def State.exception (s : State) (n : Nat) (cause : BitVec 5) (tval : Word) : State :=
  let c := s.ctx n
  let s := (s.setCtx n { c with state := .faulted, wait := .none, cause := cause, tval := tval }).switchFrom n
  match c.level with
  | .n => s.postSource 0x45
  | .h => s.postSource 0x05
  | .s => s.triggerRestart 2

/-! ### Refused register writes (R491) -/

/-- The 12-bit selector of a register (R255). -/
def selOf (addr : Nat) : Word := BitVec.ofNat 32 (addr / 0x10000 * 128 + addr % 0x10000 / 4)

/-- The PASID under which the host speaks for an accessor. -/
def State.pasidOf (s : State) (who : Accessor) : Option (BitVec 20) :=
  match who with
  | .manager => some s.host.mgrPasid
  | .host (some x) => (s.slc x.toNat).bound.head?.map Prod.snd
  | _ => none

/-- The requester attributes of an accessor (Table 12.2). -/
def State.accessAttr (s : State) (who : Accessor) : ReqAttr :=
  match who with
  | .s => { origin := .core, level := .s, slice := none, bind := none }
  | .h _ => { origin := .core, level := .h, slice := none, bind := none }
  | .manager => { origin := .host, level := .h, slice := none, bind := none }
  | .host none => { origin := .host, level := .n, slice := none, bind := none }
  | .host (some x) =>
    { origin := .host, level := .n, slice := some x,
      bind := (s.slc x.toNat).bound.head?.map fun b => BitVec.ofNat 4 b.1 }
  | .n c => (s.ctx c.toNat).attr

/-- The check address of an offset in BAR0 (Table 12.1). -/
def barCheck (addr : Nat) : Nat := 0x10000000 + addr

/-- The register ring puts an access to Strainer: the host's and the N level's, not those of the S and H levels
(Table 1.3, R342). -/
def ReqAttr.ringChecked (q : ReqAttr) : Bool := q.origin == .host || q.level == .n

/-- Why an access to the register ring is refused (R37, R346, R491): `ok` says whether the block's chapter opens it. -/
def State.ringRefusal (s : State) (q : ReqAttr) (ok : Bool) (need : BitVec 3) (addr n : Nat) : Option (Nat × StrRefusal) :=
  if q.ringChecked then s.str.firstRefusal false q ok need (barCheck addr) n
  else if ok then none
  else some (barCheck addr, ⟨0, 0, 0⟩)

/-- Strainer records a refusal that it made. -/
def State.ringCapture (s : State) (q : ReqAttr) (need : BitVec 3) (r : Nat × StrRefusal) : State :=
  if q.ringChecked then s.captureRefusal false q need r.1 r.2 else s

/-- The exception of a context whose register access is refused (R256, R350): SR_DENIED with the selector for what its
chapter does not open, STRAINER with the check address for the rest. -/
def State.ringException (s : State) (n : Nat) (sel : Word) (r : Nat × StrRefusal) : State :=
  if r.2.source = 0 then s.exception n excSrDenied sel else s.exception n excStrainer (BitVec.ofNat 32 r.1)

/-- A refused write is not performed (R491). From the host it is an ACCESS_FAULT of R311, from a Zenog context an
exception. -/
def State.refuse (s : State) (who : Accessor) (addr : Nat) (r : Nat × StrRefusal) : State :=
  let s := s.ringCapture (s.accessAttr who) permW r
  match who with
  | .manager => s.hostFault 2 (BitVec.ofNat 64 addr) (s.pasidOf who) true true none
  | .host _ => s.hostFault 2 (BitVec.ofNat 64 addr) (s.pasidOf who) true true none
  | .n c => s.ringException c.toNat (selOf addr) r
  | .h c => s.ringException c.toNat (selOf addr) r
  | .s => s

/-- A write that its issuer may not make (R491): the baseline refuses it (Table 12.3). -/
def State.denied (s : State) (who : Accessor) (addr : Nat) : State := s.refuse who addr (barCheck addr, ⟨0, 0, 0⟩)

/-- Strainer lets a write of an accessor through to a register: always, where it does not check. -/
def State.reaches (s : State) (who : Accessor) (addr : Nat) : Bool :=
  (s.ringRefusal (s.accessAttr who) true permW addr 4).isNone

/-- Perform a write for the issuers that a test admits and Strainer lets through; refuse it to the others. -/
def State.writeBy (s : State) (ok : Bool) (who : Accessor) (addr : Nat) (f : State → State) : State :=
  match s.ringRefusal (s.accessAttr who) ok permW addr 4 with
  | none => f s
  | some r => s.refuse who addr r

end Sys2Proof.Machine
end

