-- ==== Sys2Proof/Machine/WhiskOps.lean ====
section
/-! DEFINITION. Engine faults: quarantine, retirement, restarts, lane substitutes (R130, R181 to R185). -/

namespace Sys2Proof.Machine

/-- One millisecond and one minute of device time in ECLK cycles. -/
def msCycles : Nat := 1500000
def minuteCycles : Nat := 60 * cyclesPerSec

/-- The jobs that are resident on a big-number engine restart their run there (R130). A chunk in progress comes to its end
first (R138). -/
def State.restartResident (s : State) (n : Nat) : State :=
  let busy (j : Job) (second : Bool) : Bool :=
    match (s.engine .bn n).running with | some g => g.job == j.id && g.second == second | none => false
  (s.eng.jobs.filter fun j => onEngine j.run1 n || onEngine j.run2 n).foldl
    (fun t j => t.restartRun j.id (onEngine j.run1 n && !busy j false) (onEngine j.run2 n && !busy j true)) s

/-- A segment of a pool or cipher engine is rerun from its start on another engine: the job waits again, first in its slice's
order, and the cycles that the segment has taken are charged (R170, R181, R186). The chunk of a companion runs to its end
without it, and then its run restarts. -/
def State.rerunSegment (s : State) (c : EngClass) (n : Nat) : State :=
  let e := s.engine c n
  match e.running with
  | none => s
  | some g =>
    let s := (s.charge c g (g.heldFor s.now)).setEngine c n { e with running := none, key := 0, tweak := 0, segDone := 0 }
    if g.companion then s
    else match s.job g.job with
      | none => s
      | some j => s.setJob { j with stage := .queued, front := true }

/-- A tap without an engine is taken by one: the lowest that is online, with its job's key. Its buffer and its digest have kept
what has passed (R181). With none online it is parked: nothing digests it until one is (R182, R183). -/
def State.placeTap (s : State) (t n : Nat) : State :=
  let x := s.tapOf t
  match (enginesWhere .pool fun m => s.online .pool m && m != n).head? with
  | none => s.setTap t { x with parked := true }
  | some m =>
    let key := match x.job.bind s.job with | some j => keyReg 512 j.key | none => 0
    (s.setEngine .pool m { s.engine .pool m with tap := some (BitVec.ofNat 2 t), key := key }).setTap t
      { x with parked := false, engine := BitVec.ofNat 8 m }

/-- The tap that a pool engine holds goes to another engine as that one leaves service, its key zeroed (R103, R181 to R183). -/
def State.moveTap (s : State) (n : Nat) : State :=
  let e := s.engine .pool n
  match e.tap with
  | none => s
  | some t => (s.setEngine .pool n { e with tap := none, key := 0 }).placeTap t.toNat n

/-- Parked taps are taken by the engines that have come online (R182). -/
def State.placeTaps (s : State) : State :=
  (List.range 3).foldl (fun t k => if (t.tapOf k).parked then t.placeTap k 160 else t) s

/-- Release the substitute that a pool engine is (R182, R183). -/
def State.releaseSub (s : State) (n : Nat) : State :=
  let e := s.engine .pool n
  if e.substFor.isNone then s else (s.setEngine .pool n { e with substFor := none }).raise intWsk 3

/-- Quarantine an engine for 1 ms of device time (R182). A retired engine stays retired. -/
def State.quarantine (s : State) (c : EngClass) (n : Nat) : State :=
  let e := s.engine c n
  if e.health = .retired then s
  else
    let s := s.setEngine c n { e with health := .quarantined (s.now + msCycles) }
    let s := if c = .bn then s.restartResident n else s
    let s := if c = .pool then (s.releaseSub n).moveTap n else s
    (s.raise intWsk 0).logEvent 4 5 1 sevNotice (engArg c n) 0 0

/-- Engines of a class that are not retired. -/
def State.notRetired (s : State) (c : EngClass) : Nat :=
  (enginesWhere c fun n => (s.engine c n).health != .retired).length

/-- The register block of a class (Table 1.6). -/
def classBlock (c : EngClass) : Byte :=
  match c with
  | .pool => 7
  | .lane => 7
  | .cipher => 8
  | .bn => 9

/-- A class has fallen below its minimum (R183). -/
def State.belowMin (s : State) (c : EngClass) : Bool :=
  match c with
  | .pool => s.notRetired .pool == 0
  | .cipher => s.notRetired .cipher == 0
  | .bn => decide (s.notRetired .bn < 2)
  | .lane => false

/-- Retire an engine until device reset (R183), with its cause of Table 6.11. A segment in progress runs to its end, which
zeroes its keys (R103); only an uncorrectable error has it rerun elsewhere (Table 6.4). -/
def State.retire (s : State) (c : EngClass) (n : Nat) (cause : BitVec 3) : State :=
  let e := s.engine c n
  if e.health = .retired then s
  else
    let t := if c = .pool then (s.releaseSub n).moveTap n else s
    let e := t.engine c n
    let t := t.setEngine c n { e with
      health := .retired, cause := cause, key := if e.running.isSome then e.key else 0
      tweak := if e.running.isSome then e.tweak else 0, urgentKey := 0 }
    let t := if c = .bn then t.restartResident n else t
    let t := if c = .lane then { t with mkt := { t.mkt with pads := sparseSet [] t.mkt.pads n [] } } else t
    let t := (t.raise intWsk 1).logEvent 4 5 3 sevAudit (engArg c n) 0 cause.toNat
    let t := if c = .bn && e.running.isNone then t.beginScrub n else t
    let t := if s.degraded then t else ((t.raise intWsk 2).logEvent 4 5 4 sevAudit (engArg c n) 0 0).noteConditions s
    if t.belowMin c then t.raiseFatal causeClassMin (classBlock c) else t

/-- Count a compare mismatch on an engine (Table 6.4): the third in 60 s retires it. -/
def State.countMismatch (s : State) (c : EngClass) (n : Nat) : State :=
  let e := s.engine c n
  let ts := inWindow s.now minuteCycles e.mism ++ [s.now]
  let s := (s.setEngine c n { e with mism := ts, mismatches := e.mismatches + 1 }).quarantine c n
  if 3 ≤ ts.length then s.retire c n 1 else s

/-- Count an error of an engine's own SRAM (Table 6.4). -/
def State.countEngineError (s : State) (c : EngClass) (n : Nat) (uncorrectable : Bool) : State :=
  let e := s.engine c n
  if uncorrectable then
    let ts := inWindow s.now minuteCycles e.ue ++ [s.now]
    let s := s.setEngine c n { e with ue := ts }
    let s := if c = .bn then s else s.rerunSegment c n
    let s := s.quarantine c n
    if 2 ≤ ts.length then s.retire c n 3 else s
  else
    let ts := inWindow s.now minuteCycles e.ce ++ [s.now]
    let s := s.setEngine c n { e with ce := ts }
    if 8 ≤ ts.length then s.retire c n 2 else s

/-- The substitute of a lane engine (WSK_ENG_SUB). -/
def State.substitute (s : State) (lane : Nat) : Option Nat :=
  (List.range 160).find? fun n => (s.engine .pool n).substFor.map BitVec.toNat == some lane

/-- Bind and release lane substitutes at a frame start (R184). -/
def State.bindSubstitutes (s : State) : State :=
  (List.range 32).foldl (fun t l =>
    let ok := (t.engine .lane l).health == .online
    match t.substitute l with
    | some n => if ok then t.releaseSub n else t
    | none =>
      if ok then t
      else match (List.range 160).find? fun n => t.online .pool n with
        | none => t
        | some n =>
          (t.setEngine .pool n { t.engine .pool n with substFor := some (BitVec.ofNat 5 l) }).raise intWsk 3) s

/-- Two engines are handled as a mismatched pair (R130): recorded, quarantined and counted. -/
def State.mismatchPair (s : State) (e1 e2 : BitVec 6) : State :=
  let s := (s.raise intBn 0).logEvent 4 9 1 sevNotice (engArg .bn e1.toNat) 0 e2.toNat
  (s.countMismatch .bn e1.toNat).countMismatch .bn e2.toNat

/-- A compare mismatch of the two runs of a job, or a prime generation whose consistency check has failed (R127, R130):
both engines quarantined and counted, the runs started again on another pair, or the job ended after a second one. -/
def State.compareMismatch (s : State) (j : Job) (e1 e2 : BitVec 6) : State :=
  let s := s.mismatchPair e1 e2
  if 1 ≤ j.reruns then (s.finish j.id (verdict St.redundancyFail (if j.primes then 0x42 else 0x40)) 0).settle
  else
    match s.job j.id with
    | none => s
    | some k => s.setJob { k with
        run1 := none, run2 := none, front := true, reruns := k.reruns + 1, excluded := k.excluded ++ [e1, e2] }

end Sys2Proof.Machine
end

