-- ==== Sys2Proof/Machine/PowerOps.lean ====
section
/-! DEFINITION. Engine-group power: cuts, enables, the landing of a power commit (R453 to R457). -/

namespace Sys2Proof.Machine

/-- A power group. -/
def State.pgroup (s : State) (g : Nat) : PGroup := sparseGet PGroup.reset s.power.groups g

/-- Replace a power group. -/
def State.setPgroup (s : State) (g : Nat) (p : PGroup) : State :=
  { s with power := { s.power with groups := sparseSet PGroup.reset s.power.groups g p } }

/-- The class of a group and its engines (Table 1.2, R460). -/
def groupEngines (g : Nat) : EngClass × List Nat :=
  if g < 10 then (.pool, (List.range 16).map fun i => g * 16 + i)
  else if g < 18 then (.cipher, (List.range 16).map fun i => (g - 10) * 16 + i)
  else (.bn, (List.range 8).map fun i => (g - 18) * 8 + i)

/-- An engine of the group holds a tap. -/
def State.groupTap (s : State) (g : Nat) : Bool :=
  let x := groupEngines g
  x.1 == .pool && x.2.any fun n => (s.engine .pool n).tap.isSome

/-- HOLD of a group. -/
def State.groupHeld (s : State) (g : Nat) : Bool := s.power.hold.getLsbD g

/-- A group begins DRAINING: its lane substitutes are released (R453). -/
def State.drainGroup (s : State) (g : Nat) : State :=
  let p := s.pgroup g
  let s := s.setPgroup g { p with state := .draining, deferred := false, joined := false, expels := false, since := s.now }
  let x := groupEngines g
  if x.1 = .pool then x.2.foldl (fun t n => t.releaseSub n) s else s

/-- An OFF target takes effect on a group that is ON: a cut, or a deferred cut. -/
def State.cutGroup (s : State) (g : Nat) : State :=
  if s.groupHeld g || s.groupTap g then
    ((s.setPgroup g { s.pgroup g with deferred := true }).raise intPwr 1).logEvent 1 0 5 sevNotice g 0 0
  else s.drainGroup g

/-- Deferred cuts whose HOLD is clear and whose taps are closed take effect (R453). -/
def State.deferredCuts (s : State) : State :=
  (List.range 26).foldl (fun t g =>
    if (t.pgroup g).deferred && !t.groupHeld g && !t.groupTap g then t.drainGroup g else t) s

/-- A cipher engine's mask generator asks Colander for a seed (R105). -/
def State.askMask (s : State) (n : Nat) : State :=
  (s.setEngine .cipher n { s.engine .cipher n with reseedPend := true }).await (.mask (BitVec.ofNat 7 n)) none

/-- An OFF group is woken: cipher mask generators ask for their seeds (R105, R453). -/
def State.wakeGroup (s : State) (g : Nat) : State :=
  let s := s.setPgroup g { s.pgroup g with state := .waking, pendOn := false, since := s.now }
  let x := groupEngines g
  if x.1 = .cipher then x.2.foldl State.askMask s else s

/-- Cycles that a group must spend in OFF: 1 µs. -/
def offMin : Nat := 1500

/-- The landed target of one group takes effect (R453). -/
def State.landGroup (s : State) (g : Nat) (on depth : Bool) : State :=
  let p := { s.pgroup g with target := on, targetDepth := depth }
  let s := s.setPgroup g p
  match p.state with
  | .on => if on then s.setPgroup g { p with deferred := false } else if p.deferred then s else s.cutGroup g
  | .draining => s.setPgroup g { p with pendOn := on }
  | .scrubbing => s.setPgroup g { p with pendOn := on }
  | .off =>
    if !on then s.setPgroup g { p with depth := depth, pendOn := false }
    else if p.since + offMin ≤ s.now then s.wakeGroup g
    else s.setPgroup g { p with pendOn := true }
  | .waking => s.setPgroup g { p with cutLater := !on }

/-- A group has reached its landed target, or its cut is deferred. -/
def PGroup.reached (p : PGroup) : Bool :=
  if p.target then p.state == .on else p.state == .off || (p.state == .on && p.deferred)

/-- A landed commit is DONE when every group has reached its target (Table 16.12). -/
def State.powerDone (s : State) : State :=
  if s.power.busy && (List.range 26).all fun g => (s.pgroup g).reached then
    let s := { s with power := { s.power with busy := false } }
    (s.setReg 0x010010 (s.reg 0x010010 ||| 0x80000000#32)).raise intPwr 0
  else s

/-- The accepted power commit lands (R453, R456). -/
def State.landPower (s : State) : State :=
  if !s.power.pending then s
  else
    let w := s.power
    let s := { s with power := { w with pending := false, busy := true, epoch := w.epoch + 1 } }
    let s := s.logEvent 1 0 4 sevNotice s.power.epoch.toNat 0 0
    ((List.range 26).foldl (fun t g => t.landGroup g (w.acceptedTgt.getLsbD g) (w.acceptedDepth.getLsbD g)) s).powerDone

/-- Groups that have reached ON rejoin their classes at a frame start (R457). -/
def State.rejoinGroups (s : State) : State :=
  (List.range 26).foldl (fun t g =>
    let p := t.pgroup g
    if p.state == .on && !p.joined then t.setPgroup g { p with joined := true } else t) s

end Sys2Proof.Machine
end

