-- ==== Sys2Proof/Machine/StrainerCmds.lean ====
section
/-! DEFINITION. Strainer's staging, commits, drains and fault capture (R351 to R360). -/

namespace Sys2Proof.Machine

/-- Bytes of a device rule or window as the four data registers hold them. -/
def State.strData (s : State) (a : Nat) : Word × Word × Word × Word :=
  (s.reg a, s.reg (a + 4), s.reg (a + 8), s.reg (a + 12))

/-- The rule that four words spell (Table 12.4). -/
def ruleOfWords (d : Word × Word × Word × Word) : Rule :=
  { base := d.1.extractLsb 31 6, limit := d.2.1.extractLsb 31 6, origin := d.2.2.1.extractLsb 2 0,
    level := d.2.2.1.extractLsb 5 3, noSlice := d.2.2.1.getLsbD 6, allSlices := d.2.2.1.getLsbD 7,
    perm := d.2.2.1.extractLsb 10 8, valid := d.2.2.1.getLsbD 11, lock := d.2.2.1.getLsbD 12,
    slice := d.2.2.1.extractLsb 18 13, tag := d.2.2.2 }

/-- The window that four words spell (Table 12.5). -/
def windowOfWords (d : Word × Word × Word × Word) : Window :=
  { base := d.1.extractLsb 31 6, limit := d.2.1.extractLsb 31 6, origin := d.2.2.1.extractLsb 2 0,
    perm := d.2.2.1.extractLsb 10 8, valid := d.2.2.1.getLsbD 11, lock := d.2.2.1.getLsbD 12,
    pasidMask := d.2.2.2.extractLsb 15 0 }

/-- A bit as a number. -/
def bitNat (b : Bool) (n : Nat) : Nat := if b then 2 ^ n else 0

/-- The words of a rule. -/
def Rule.words (r : Rule) : List Word :=
  [r.base ++ 0#6, r.limit ++ 0#6,
   BitVec.ofNat 32 (r.origin.toNat + 8 * r.level.toNat + bitNat r.noSlice 6 + bitNat r.allSlices 7 +
     0x100 * r.perm.toNat + bitNat r.valid 11 + bitNat r.lock 12 + 0x2000 * r.slice.toNat), r.tag]

/-- The words of a window. -/
def Window.words (r : Window) : List Word :=
  [r.base ++ 0#6, r.limit ++ 0#6,
   BitVec.ofNat 32 (r.origin.toNat + 0x100 * r.perm.toNat + bitNat r.valid 11 + bitNat r.lock 12),
   r.pasidMask.setWidth 32]

/-- The last check address of each region of Table 12.1. -/
def regionLast (a : Nat) : Option Nat :=
  if a < 0x01000000 then some 0x00FFFFFF
  else if 0x10000000 ≤ a ∧ a < 0x11000000 then some 0x10FFFFFF
  else if 0x20000000 ≤ a ∧ a < 0x24000000 then some 0x23FFFFFF
  else none

/-- BASE ≤ LIMIT, and both in one region. -/
def rangeOk (base limit : BitVec 26) : Bool :=
  decide (base.toNat ≤ limit.toNat) &&
  (match regionLast (base.toNat * 64) with | some l => decide (limit.toNat * 64 ≤ l) | none => false)

/-- The staged value of a target. -/
def Staged.target : Staged → Nat
  | .rule i _ => i.toNat
  | .win i _ => 0x1000 + i.toNat

/-- A staged entry's range, lock and index. -/
def Staged.lock : Staged → Bool
  | .rule _ r => r.lock
  | .win _ w => w.lock

/-- Two windows overlap in range. -/
def Window.overlaps (a b : Window) : Bool :=
  decide (a.base.toNat ≤ b.limit.toNat) && decide (b.base.toNat ≤ a.limit.toNat)

/-- The windows as they would stand once the staged entries had landed (R349). -/
def Strainer.stagedWins (t : Strainer) : List (Nat × Window) :=
  t.staged.foldl (fun ws x => match x with
    | .win i w => (ws.filter fun e => e.1 != i.toNat) ++ [(i.toNat, w)]
    | .rule _ _ => ws) t.wins

/-- A valid window would overlap another valid window of its slice (R349). -/
def Strainer.overlap (t : Strainer) (i : Nat) (w : Window) : Bool :=
  w.valid && t.stagedWins.any fun e => e.1 != i && e.1 / 8 == i / 8 && e.2.valid && w.overlaps e.2

/-- STR_CMD_STS after a command. -/
def State.strStatus (s : State) (st : Half) (detail : Nat) (found done : Bool) : State :=
  s.setReg 0x0F0010 (BitVec.ofNat 32 (st.toNat + 0x10000 * detail + bitNat found 30 + bitNat done 31))

/-- The owner that a level stages for. -/
def Accessor.stageOwner (who : Accessor) : StageOwner := match who with | .s => .s | _ => .h

/-- A staging write (R351): its checks in order, then its place. -/
def State.stage (s : State) (who : Accessor) (x : Staged) (locked bad overlaps : Bool) : State :=
  let t := s.str
  let deny (d : Nat) : State := s.strStatus St.attrDenied d false true
  if t.pending then deny 0xA8
  else if !t.staged.isEmpty && t.owner != some who.stageOwner then deny 0xA6
  else if locked then deny 0xA3
  else if x.lock && who.stageOwner == .h then deny 0x19
  else if bad then s.strStatus St.malformed 0x35 false true
  else if overlaps then deny 0xA4
  else
    let again := t.staged.any fun y => y.target == x.target
    if !again && decide (256 ≤ t.staged.length) then deny 0xA5
    else
      let list := if again then t.staged.map fun y => if y.target == x.target then x else y else t.staged ++ [x]
      ({ s with str := { t with staged := list, owner := some who.stageOwner } }).strStatus St.ok 0 false true

/-- A segment or chunk is in flight that took the previous epoch (R353). Device-class work makes no checked access. -/
def State.oldInFlight (s : State) : Bool :=
  s.eng.table.any fun e => match e.2.running with | some g => g.old && !g.device | none => false

/-- A segment in progress when a commit lands. -/
def Engine.landed (e : Engine) : Engine := { e with running := e.running.map fun g => { g with old := true } }

/-- The last access of the previous epoch has finished (R354): DRAINING clears. -/
def State.strDrainEndCmd (s : State) : State :=
  if !s.str.draining || s.oldInFlight then s
  else
    let ns := min 0xFFFFFFFF (cyclesNs (s.now - s.str.landedAt))
    let s := { s with str := { s.str with draining := false, oldRules := [], oldWins := [] } }
    let s := if (s.reg 0x0F0020).toNat < ns then s.setReg 0x0F0020 (BitVec.ofNat 32 ns) else s
    let s := if s.str.pending then s else s.setReg 0x0F0010 (s.reg 0x0F0010 ||| 0x80000000#32)
    s.raise intStr 1

/-- An accepted commit lands (R352), unless an access of an older epoch is in flight. -/
def State.landStrainer (s : State) : State :=
  if !s.str.pending then s
  else if s.str.draining && s.oldInFlight then
    { s with str := { s.str with waitFrames := satInc s.str.waitFrames } }
  else
    let s := s.strDrainEndCmd
    let t := s.str
    let rules := t.staged.filterMap fun x => match x with | .rule i r => some (i.toNat, r) | .win _ _ => none
    let wins := t.staged.filterMap fun x => match x with | .win i w => some (i.toNat, w) | .rule _ _ => none
    let n := t.staged.length
    let own : Nat := match t.owner with | some .h => 1 | some .s => 2 | none => 0
    let str : Strainer := { t with
      oldRules := rules.map fun e => (e.1, sparseGet Rule.none t.rules e.1),
      oldWins := wins.map fun e => (e.1, sparseGet Window.none t.wins e.1),
      rules := rules.foldl (fun m e => sparseSet Rule.none m e.1 e.2) t.rules,
      wins := wins.foldl (fun m e => sparseSet Window.none m e.1 e.2) t.wins,
      staged := [], owner := none, epoch := t.epoch + 1, pending := false, draining := true, stalled := false,
      waitFrames := 0, landedAt := s.now }
    let eng := { s.eng with table := sparseMap Engine.reset (fun _ e => e.landed) s.eng.table }
    let s := (({ s with str := str, eng := eng }).setReg64 0x0F0018 s.tl.ns).raise intStr 0
    let s := s.logEvent 6 15 1 sevAudit str.epoch.toNat 0 (n + 0x10000 * own)
    (t.staged.filter Staged.lock).foldl (fun u x => u.logEvent 6 15 2 sevAudit x.target 0 0) s

/-- STAGE_RULE. -/
def State.stageRuleCmd (s : State) (who : Accessor) : State :=
  let d := s.strData 0x0F0044
  let i : BitVec 12 := (s.reg 0x0F0040).extractLsb 11 0
  let r := ruleOfWords d
  let reserved := d.1.extractLsb 5 0 != 0 || d.2.1.extractLsb 5 0 != 0 || d.2.2.1.extractLsb 31 19 != 0
  s.stage who (.rule i r) (sparseGet Rule.none s.str.rules i.toNat).lock (!rangeOk r.base r.limit || reserved) false

/-- STAGE_WIN. -/
def State.stageWinCmd (s : State) (who : Accessor) : State :=
  let d := s.strData 0x0F0064
  let sel := s.reg 0x0F0060
  let i : BitVec 9 := sel.extractLsb 13 8 ++ sel.extractLsb 2 0
  let w := windowOfWords d
  let reserved := d.1.extractLsb 5 0 != 0 || d.2.1.extractLsb 5 0 != 0 || d.2.2.1.extractLsb 7 3 != 0 ||
    d.2.2.1.extractLsb 31 13 != 0 || d.2.2.2.extractLsb 31 16 != 0
  s.stage who (.win i w) (sparseGet Window.none s.str.wins i.toNat).lock (!rangeOk w.base w.limit || reserved)
    (s.str.overlap i.toNat w)

/-- COMMIT (R352). -/
def State.strCommitCmd (s : State) : State :=
  if s.str.pending then s.strStatus St.attrDenied 0xA8 false true
  else if s.reg 0x0F000C != s.str.epoch + 1 || s.str.staged.isEmpty then s.strStatus St.attrDenied 0xA7 false true
  else ({ s with str := { s.str with pending := true, waitFrames := 0 } }).strStatus St.ok 0 false false

/-- DISCARD (Table 12.7). -/
def State.strDiscardCmd (s : State) : State :=
  let found := !s.str.staged.isEmpty
  ({ s with str := { s.str with staged := [], owner := none, pending := false, stalled := false } }).strStatus
    St.ok 0 found true

/-- A secure-world restart discards a list that S owns and has not committed (Table 12.7). -/
def State.strRestart (s : State) : State :=
  if s.str.owner = some .s ∧ s.str.pending = false then { s with str := { s.str with staged := [], owner := none } } else s

/-- Strainer's command register is written by S and by H (R360). -/
abbrev aStrCmd : Nat := 0x0F0008

/-- STAGE_RULE (R351). -/
def execStageRule (who : Accessor) (s : State) : Out :=
  s.whilePowered fun s => s.writeBy who.isSH who aStrCmd fun t => t.stageRuleCmd who

/-- STAGE_WIN (R351). -/
def execStageWin (who : Accessor) (s : State) : Out :=
  s.whilePowered fun s => s.writeBy who.isSH who aStrCmd fun t => t.stageWinCmd who

/-- COMMIT (R352). -/
def execStrCommit (who : Accessor) (s : State) : Out :=
  s.whilePowered fun s => s.writeBy who.isSH who aStrCmd State.strCommitCmd

/-- DISCARD (R356). -/
def execStrDiscard (who : Accessor) (s : State) : Out :=
  s.whilePowered fun s => s.writeBy who.isSH who aStrCmd State.strDiscardCmd

/-- The drain of the previous epoch ends (R354). -/
def execStrDrainEnd (s : State) : Out := s.whilePowered State.strDrainEndCmd

/-- A commit has not landed 16 frames after it was accepted (R355). -/
def execStrCommitStall (s : State) : Out :=
  s.whilePowered fun s =>
    if s.str.pending && !s.str.stalled && decide (16 ≤ s.str.waitFrames.toNat) then
      (({ s with str := { s.str with stalled := true } }).raise intStr 2).logEvent 6 15 3 sevAudit
        (s.str.epoch.toNat + 1) 0 0
    else s

/-- Clear bits of STR_FLT_STS: clearing VALID re-arms capture (Table 12.11). -/
def State.strFltClear (s : State) (value : Word) : State :=
  s.setReg 0x0F0080 (s.reg 0x0F0080 &&& ~~~(value &&& 3))

/-- A write of STR_FLT_STS. -/
def execStrFltStsClear (who : Accessor) (value : Word) (s : State) : Out :=
  s.whilePowered fun s => s.writeBy who.isSH who 0x0F0080 fun t => t.strFltClear value

end Sys2Proof.Machine
end

