-- ==== Sys2Proof/Machine/PowerCommands.lean ====
section
/-! DEFINITION. The meanings of the engine-group power commands (R453 to R456, R460). -/

namespace Sys2Proof.Machine

/-- PWR_CMD. -/
abbrev aPwrCmd : Nat := 0x010008

/-- A COMMIT is refused (R456, R461). -/
def State.powerRefused (s : State) (detail : Nat) : State :=
  let s := s.setReg 0x010010 (BitVec.ofNat 32 (St.attrDenied.toNat + 0x10000 * detail + 0x80000000))
  (s.raise intPwr 2).logEvent 1 0 6 sevNotice (s.reg 0x01000C).toNat (verdict St.attrDenied detail).arg 0

/-- Every class keeps a group with an ON target (R455). -/
def keepsGroups (tgt : BitVec 26) : Bool :=
  tgt.extractLsb 9 0 != 0 && tgt.extractLsb 17 10 != 0 && tgt.extractLsb 25 18 != 0

/-- COMMIT (R455, R456). -/
def State.powerCommit (s : State) : State :=
  let tgt : BitVec 26 := (s.reg 0x010014).extractLsb 25 0
  if s.power.pending then s.powerRefused 0xA8
  else if s.reg 0x01000C != s.power.epoch + 1 then s.powerRefused 0xA7
  else if !keepsGroups tgt then s.powerRefused 0xD0
  else
    ({ s with power := { s.power with
        pending := true, acceptedTgt := tgt, acceptedDepth := (s.reg 0x010018).extractLsb 25 0 } }).setReg 0x010010 0

/-- DISCARD before the landing cycle: the staging set empties, back to the landed targets, and a pending commit goes
(R456). -/
def State.powerDiscard (s : State) : State :=
  let bits (f : PGroup → Bool) : Word :=
    (List.range 26).foldl (fun w g => if f (s.pgroup g) then w ||| (1#32 <<< g) else w) 0
  let s := { s with power := { s.power with pending := false } }
  ((s.setReg 0x010014 (bits PGroup.target)).setReg 0x010018 (bits PGroup.targetDepth)).setReg 0x010010 0x80000000

/-- PWR_CMD.COMMIT is written by S and by H. -/
def execPwrCommit (who : Accessor) (s : State) : Out :=
  s.whilePowered fun s => s.writeBy who.isSH who aPwrCmd State.powerCommit

/-- PWR_CMD.DISCARD. -/
def execPwrDiscard (who : Accessor) (s : State) : Out :=
  s.whilePowered fun s => s.writeBy who.isSH who aPwrCmd State.powerDiscard

/-- PWR_HOLD is written by S alone; deferred cuts whose HOLD clears take effect (R453). -/
def execPwrHoldWrite (who : Accessor) (value : Word) (s : State) : Out :=
  s.whilePowered fun s => s.writeBy who.isS who 0x01001C fun s =>
    ({ s with power := { s.power with hold := value.extractLsb 25 0 } }).deferredCuts.powerDone

/-- No segment runs on the group's engines and no job is resident there. -/
def State.groupIdle (s : State) (g : Nat) : Bool :=
  let x := groupEngines g
  x.2.all fun n =>
    let e := s.engine x.1 n
    e.running.isNone && (x.1 != .bn || e.areas.toList.all Option.isNone)

/-- Stall time in nanoseconds as CP_ENG_STALL counts it, without wrapping. -/
def Engine.stallEnd (e : Engine) (now : Nat) : Word :=
  match e.stalled with
  | none => e.stallNs
  | some t => BitVec.ofNat 32 (min 0xFFFFFFFF (e.stallNs.toNat + cyclesNs (now - t)))

/-- What a scrub clears in an engine (R103, R105, R137, R453). -/
def Engine.scrub (e : Engine) (bn : Bool) (now : Nat) : Engine :=
  { e with
    key := 0, tweak := 0, urgentKey := 0, seeded := false, maskGen := zeros 200, seedIn := none, reseedPend := false,
    segDone := 0, stallNs := e.stallEnd now, stalled := none, opmem := [], work := Vector.replicate 4 none,
    scrubbing := bn, scrubs := if bn then e.scrubs + 1 else e.scrubs }

/-- A DRAINING group with nothing left begins SCRUBBING (R453). -/
def execGroupDrained (group : BitVec 5) (s : State) : Out :=
  s.whilePowered fun s =>
    let g := group.toNat
    if g < 26 && (s.pgroup g).state == .draining && s.groupIdle g then
      let x := groupEngines g
      let s := s.setPgroup g { s.pgroup g with state := .scrubbing, since := s.now }
      x.2.foldl (fun t n => t.setEngine x.1 n ((t.engine x.1 n).scrub (x.1 == .bn) s.now)) s
    else s

/-- After 2 ms of DRAINING the jobs that are still resident restart elsewhere (R453). -/
def execGroupDrainTimeout (group : BitVec 5) (s : State) : Out :=
  s.whilePowered fun s =>
    let g := group.toNat
    let x := groupEngines g
    if g < 26 && (s.pgroup g).state == .draining && x.1 == .bn then
      x.2.foldl (fun t n => t.restartResident n) (s.setPgroup g { s.pgroup g with expels := true })
    else s

/-- The scrub of a group ends: OFF, at the target depth (R453). -/
def execGroupScrubDone (group : BitVec 5) (s : State) : Out :=
  s.whilePowered fun s =>
    let g := group.toNat
    let p := s.pgroup g
    if g < 26 && p.state == .scrubbing then
      let x := groupEngines g
      let s := s.setPgroup g { p with state := .off, depth := p.targetDepth, since := s.now }
      let s := x.2.foldl (fun t n => t.setEngine x.1 n { t.engine x.1 n with scrubbing := false }) s
      s.powerDone
    else s

/-- 1 µs has passed in OFF: a group with a pending enable wakes (R453). -/
def execGroupOffMinElapsed (group : BitVec 5) (s : State) : Out :=
  s.whilePowered fun s =>
    let g := group.toNat
    let p := s.pgroup g
    if g < 26 && p.state == .off && p.pendOn then s.wakeGroup g else s

/-- A WAKING group is ready: ON. Its cipher engines have their seeds. A cut that landed meanwhile takes effect (R453). -/
def execGroupWakeDone (group : BitVec 5) (s : State) : Out :=
  s.whilePowered fun s =>
    let g := group.toNat
    let p := s.pgroup g
    let x := groupEngines g
    let seeded := x.1 != .cipher || x.2.all fun n => (s.engine .cipher n).seeded
    if g < 26 && p.state == .waking && seeded then
      let s := s.setPgroup g { p with state := .on, depth := false, joined := false, cutLater := false, since := s.now }
      (if p.cutLater then s.cutGroup g else s).powerDone
    else s

end Sys2Proof.Machine
end

