-- ==== Sys2Proof/Machine/WhiskCommands.lean ====
section
/-! DEFINITION. The meanings of Whisk's events, of the engines' events and of the mask generators' (R96, R105, R106,
R127 to R131, R137, R171, R181, R182). -/

namespace Sys2Proof.Machine

/-- Both runs of a secret operation have ended and are compared (R129, R130). -/
def execRepeatCompare (job : Nat) (equal : Bool) (s : State) : Out :=
  s.whilePowered fun s =>
    match s.job job with
    | none => s
    | some j =>
      match j.run1, j.run2 with
      | some a, some b =>
        if j.primes || !(a.done && b.done && j.runs == 2) then s
        else if equal then s.compareEqual j
        else s.compareMismatch j a.engine b.engine
      | _, _ => s

/-- Runs that a job still lacks. -/
def Job.missing (j : Job) : Nat := (if j.run1.isNone then 1 else 0) + (if j.run2.isNone then 1 else 0)

/-- No pair of engines has become available within 1 ms, or no other engine for the run that is missing (R131). -/
def execNoPairTimeout (job : Nat) (s : State) : Out :=
  s.whilePowered fun s =>
    match s.job job with
    | none => s
    | some j =>
      let n := ((List.range 64).filter fun n => s.eligibleRun j n).length
      if j.cls == .bn && j.runs == 2 && decide (n < j.missing) then
        (s.finish job (verdict St.redundancyFail 0x41) 0).settle
      else s

/-- The primes that a job waited for stand: a PIN completes, a big-number job goes on to its own operation with its key in
the cache (R52, R127). -/
def State.primesReady (s : State) (j : Job) : State :=
  let u := j.sub
  let s := s.restartRun j.id true true
  if isKtOp u.op then
    let r := s.ktRun u j.rand
    (r.1.finish j.id r.2.1 r.2.2).settle
  else
    let k := s.keySecret u.issuer (bnBlock u).handle false
    k.2.setJob { j with
      primes := false, primed := true, key := [], reruns := 0, excluded := [], run1 := none, run2 := none }

/-- RSA prime generation on engine `e1` and its consistency check on `e2` have ended (R52, R127). `ok`: the check found
what its computation gives; else a fault of the hardware has made it fail. -/
def execPrimeGeneration (job : Nat) (e1 e2 : BitVec 6) (ok : Bool) (s : State) : Out :=
  s.whilePowered fun s =>
    match s.job job with
    | none => s
    | some j =>
      match j.run1, j.run2 with
      | some a, some b =>
        if !j.primes || !(a.done && b.done) || a.engine != e1 || b.engine != e2 || s.heldJob j.sub then s
        else
          let k := rsaBytes (s.entry (hIndex (primeHandle j.sub))).type
          if ok && rsaConsistent k (rsaGenerate k j.key) then s.primesReady j
          else s.compareMismatch j e1 e2
      | _, _ => s

/-- The scrub of an engine ends with its read-back (R137). An engine gives one Evidence record at most (R416). -/
def execScrubDone (cls : EngClass) (engine : Byte) (clean : Bool) (s : State) : Out :=
  s.whilePowered fun s =>
    let e := s.engine cls engine.toNat
    if !e.scrubbing then s
    else
      let s := s.setEngine cls engine.toNat { e with scrubbing := false, scrubFailed := e.scrubFailed || !clean }
      if clean then s
      else
        let s := s.raise intBn 2
        if e.scrubFailed then s else s.logEvent 4 9 4 sevEvidence (engArg cls engine.toNat) 0 0

/-- A free engine starts the first candidate in Whisk's order (R171). -/
def execEngineDispatch (cls : EngClass) (engine : Byte) (s : State) : Out :=
  s.whilePowered fun s => s.dispatch cls engine.toNat

/-! ### Taps (R96) -/

/-- A tap closes: the pool engine that it held is released, its key cleared (R96, R103). DESIGN CHOICE: DG_TAP_BYTES keeps its
count until the tap opens again (assumption 97). -/
def State.freeTap (s : State) (t : Nat) : State :=
  let x := s.tapOf t
  let n := x.engine.toNat
  let e := s.engine .pool n
  (if e.tap = some (BitVec.ofNat 2 t) then s.setEngine .pool n { e with tap := none, key := 0 } else s).setTap t
    { Tap.closed with bytes := x.bytes }

/-- The key of a tap's job is checked again at a boundary, and ends the job and the tap if it may not be used any more
(R65, R108). -/
def State.tapCheck (s : State) (t : Nat) : State :=
  match (s.tapOf t).job.bind s.job with
  | none => s
  | some j =>
    match s.boundaryCheck j with
    | some v => (((s.freeTap t).deferredCuts.powerDone).finish j.id v 0).settle
    | none => s

/-- Calls that end a tap's digest: what its buffer still holds, then the padding, the output and the outer calls (R80, R82). -/
def Tap.endCalls (x : Tap) (out : Nat) : Nat :=
  let n := x.digest.buf.length + x.buffer.length + x.held.length
  n / hashBlock x.digest.alg + finishCalls x.digest.alg out (n % hashBlock x.digest.alg)

/-- A tap's stream has ended: what its buffer holds is digested, and its result completes the TAP job. -/
def State.closeTap (s : State) (t : Nat) (j : Job) : State :=
  let b := dgBlock j.sub
  let x := s.tapOf t
  let rest := x.buffer ++ x.held
  let s := s.addCalls x.engine.toNat (if x.bytes.toNat < b.len then x.calls rest.length else x.endCalls b.out)
  let s := (s.freeTap t).deferredCuts.powerDone
  if x.bytes.toNat < b.len then (s.finish j.id (verdict St.lengthShort 0) 0).settle
  else
    let r := s.digestOut j ((x.digest.absorb rest).digest b.out)
    (r.1.finish j.id r.2.1 r.2.2).settle

/-! ### Boundaries -/

/-- A big-number chunk ends (R138). -/
def execChunkBoundary (engine : Byte) (_used : Nat) (_done : Bool) (s : State) : Out :=
  s.whilePowered fun s => s.endChunk engine.toNat

/-- 1 ms has passed since an engine's last quarantining event: it may rejoin at the next frame start (R182). -/
def execQuarantineEnd (cls : EngClass) (engine : Byte) (s : State) : Out :=
  s.whilePowered fun s =>
    let e := s.engine cls engine.toNat
    match e.health with
    | .quarantined t => if t ≤ s.now then s.setEngine cls engine.toNat { e with health := .rejoining } else s
    | _ => s

/-- A shared SRAM instance (Table 6.12). -/
def State.sram (s : State) (i : Nat) : Sram := sparseGet Sram.reset s.whisk.srams i

/-- Replace a shared SRAM instance. -/
def State.setSram (s : State) (i : Nat) (x : Sram) : State :=
  { s with whisk := { s.whisk with srams := sparseSet Sram.reset s.whisk.srams i x } }

/-- A corrected error of a line of a shared instance: the third in 60 s takes a spare line while one is left
(Table 6.4). -/
def State.sharedCorrected (s : State) (i line : Nat) : State :=
  let x := s.sram i
  let ts := inWindow s.now minuteCycles (sparseGet [] x.lines line) ++ [s.now]
  let x := { x with ce := satInc x.ce }
  if ts.length < 3 then s.setSram i { x with lines := sparseSet [] x.lines line ts }
  else if x.spares.toNat < 64 then
    ((s.setSram i { x with lines := sparseSet [] x.lines line [], spares := x.spares + 1 }).raise intWsk 4).logEvent
      4 5 2 sevNotice i 0 line
  else (s.setSram i { x with lines := sparseSet [] x.lines line ts }).raise intWsk 5

/-- An uncorrectable error in a line of a core's data L1 (Table 9.9): a dirty line, one that holds stores which are not yet at L2,
raises MEM_ECC in the core's RUNNING context, whose access has that address; a clean line is refetched without a fault. What the
lost stores leave is open, so their octets are free (assumption 102). -/
def State.l1Error (s : State) (core addr : Nat) : State :=
  match s.worlds.ctxs.find? fun e => coreOf e.1 == core && e.2.state == .running with
  | none => s
  | some (n, c) =>
    match s.ctxTranslate c permR addr with
    | none => s
    | some p =>
      let lost (x : Host.Cell) : Bool := x.1 / 64 == p / 64
      if !(s.worlds.ctxs.any fun e => coreOf e.1 == core && e.2.stores.any lost) then s
      else
        let spoil (k : Context) : Context := { k with
          stores := k.stores.map fun x => if lost x then (x.1, Config.freeBits 8 (s.free + x.1 % 64)) else x }
        let ctxs := sparseMap Context.reset (fun k x => if coreOf k == core then spoil x else x) s.worlds.ctxs
        ({ s with worlds := { s.worlds with ctxs := ctxs }, free := s.free + 64 }).exception n excMemEcc (BitVec.ofNat 32 addr)

/-- A shared SRAM error (Table 6.4). `slice` and `index` name the entry of the derived-key cache, instance 4. Instance 9, which no
shared one has, stands for the data L1 of the core that `slice` names, `line` for the address of the access (assumption 102). -/
def execEccErrorShared (inst : BitVec 4) (line : Nat) (slice : BitVec 6) (index : BitVec 20) (uncorrectable : Bool)
    (s : State) : Out :=
  s.whilePowered fun s =>
    let i := inst.toNat
    if i = 9 then (if uncorrectable then s.l1Error slice.toNat line else s)
    else if 9 ≤ i then s
    else if !uncorrectable then s.sharedCorrected i line
    else if i = 4 then s.clearCache (fun n => n == slice.toNat) fun l => l.index == index
    else s.raiseFatal causeSramUe (BitVec.ofNat 8 i)

/-- A host link LCRC error (Table 6.4): replayed; at 256 in 1 s the link retrains, which no state of the block shows. -/
def execLcrcError (s : State) : Out :=
  s.whilePowered fun s =>
    { s with whisk := { s.whisk with lcrc := inWindow s.now cyclesPerSec s.whisk.lcrc ++ [s.now] } }

/-! ### Mask generators (R105, R106) -/

/-- 2^23 blocks have passed: the generator asks Colander for a seed. -/
def execMaskReseedRequest (engine : BitVec 7) (s : State) : Out :=
  s.whilePowered fun s =>
    let e := s.engine .cipher engine.toNat
    if decide (2 ^ 23 ≤ e.maskCnt.toNat) && !e.reseedPend then
      s.askMask engine.toNat
    else s

/-- A reseed that arrives now is late: 3 × 2^22 blocks have passed since the last seed (Table 3.20). -/
def Engine.reseedLate (e : Engine) : Bool := e.seeded && decide (3 * 2 ^ 22 ≤ e.maskCnt.toNat)

/-- A mask generator after so many blocks, one permutation each. -/
def maskRun (st : Bytes) (blocks : Nat) : Bytes := Nat.repeat keccakF blocks st

/-- A seed is absorbed. DESIGN CHOICE: into the first 64 octets of the sponge, with the two permutations that 52 cycles
take; the spec states no padding (assumption 86). -/
def maskAbsorb (st seed : Bytes) : Bytes := keccakF (keccakStep st seed)

/-- A stall ends: its time is counted, and does not count as the time of the segment in progress (R106, R170). -/
def Engine.resume (e : Engine) (now : Nat) : Engine :=
  let off := match e.stalled with | some t => now - t | none => 0
  { e with stallNs := e.stallEnd now, stalled := none, running := e.running.map fun g => { g with off := g.off + off } }

/-- A seed that Colander has served is absorbed; a stalled engine resumes, and a late reseed is reported. -/
def execMaskReseed (engine : BitVec 7) (s : State) : Out :=
  s.whilePowered fun s =>
    let n := engine.toNat
    let e := s.engine .cipher n
    match e.seedIn with
    | none => s
    | some seed =>
      (if e.reseedLate then s.raise intCp 1 else s).setEngine .cipher n { e.resume s.now with
        seeded := true, reseedPend := false, maskCnt := 0, reseeds := e.reseeds + 1, seedIn := none,
        maskGen := maskAbsorb (maskRun e.maskGen e.maskCnt.toNat) seed }

/-- 2^24 blocks have passed without a reseed, those of the segment in progress counted as far as they go: the engine
stalls. -/
def execCipherStall (engine : BitVec 7) (s : State) : Out :=
  s.whilePowered fun s =>
    let n := engine.toNat
    if maskLimit ≤ (s.engine .cipher n).maskCnt.toNat + s.blocksLeft n then s.stall n else s

end Sys2Proof.Machine
end

