-- ==== Sys2Proof/Machine/ColanderCommands.lean ====
section
/-! DEFINITION. The meanings of Colander's events: health tests of a span, qualification, READY, service, timeouts
(R141 to R155). -/

namespace Sys2Proof.Machine

/-! ### Health tests (Table 5.1) -/

/-- The samples of a cell in a run of raw blocks (R142). -/
def cellSamples (bits : Bytes) (c : Nat) : List Bool :=
  (List.range (bits.length / 2)).map fun t => (octet (2 * t + c / 8) bits).getLsbD (7 - c % 8)

/-- Transitions from a sample through a list of samples. -/
def transitions : Option Bool → List Bool → Nat
  | _, [] => 0
  | prev, x :: xs => (if prev.isSome && prev != some x then 1 else 0) + transitions (some x) xs

/-- Whether a run of identical samples reaches 81, and the run that the last sample ends. -/
def longRun : Option Bool → Nat → List Bool → Bool × Nat
  | _, n, [] => (false, n)
  | prev, n, x :: xs =>
    let m := if prev == some x then n + 1 else 1
    let r := longRun (some x) m xs
    (decide (81 ≤ m) || r.1, r.2)

/-- The adaptive proportion test over windows of 1,024 samples aligned to the span. -/
def adaptiveFails : Nat → List Bool → Bool
  | 0, _ => false
  | n + 1, xs =>
    let w := xs.take 1024
    (match w with
     | [] => false
     | x :: _ => decide (840 ≤ (w.filter fun y => y == x).length)) || adaptiveFails n (xs.drop 1024)

/-- Equal simultaneous samples of two cells. -/
def equalSamples (a b : List Bool) : Nat := ((a.zip b).filter fun p => p.1 == p.2).length

/-- The first test of Table 5.1 that a cell fails, as LAST_TEST codes it. -/
def cellFails (running : Bool) (x : Cell) (mine next : List Bool) : Option (BitVec 4) :=
  let eq := equalSamples mine next
  if transitions x.last mine < (if running then 1024 else 256) then some 1
  else if (if running then decide (2304 ≤ eq ∨ eq ≤ 1792) else decide (640 ≤ eq ∨ eq ≤ 384)) then some 2
  else if (longRun x.last x.run mine).1 then some 3
  else if adaptiveFails 4 mine then some 4
  else if x.trim.toNat ≤ 3 ∨ 60 ≤ x.trim.toNat then some 5
  else none

/-- A cell. -/
def State.cell (s : State) (n : Nat) : Cell := sparseGet Cell.reset s.cld.cells n

/-- Replace a cell. -/
def State.setCell (s : State) (n : Nat) (x : Cell) : State :=
  { s with cld := { s.cld with cells := sparseSet Cell.reset s.cld.cells n x } }

/-- A cell after so many more samples, its feedback loop pulling its trim towards a value: one code at most in 4,096 samples
(R141). -/
def Cell.pull (x : Cell) (samples : Nat) (code : BitVec 6) : Cell :=
  let n := x.still.toNat + samples
  if n < 4096 ∨ x.trim = code then { x with still := BitVec.ofNat 13 (min 4096 n) }
  else { x with still := BitVec.ofNat 13 (n - 4096), trim := if x.trim < code then x.trim + 1 else x.trim - 1 }

/-- The trims of a group's cells as the feedback loops move them over a span. -/
def State.setTrims (s : State) (g samples : Nat) (trims : List (BitVec 6)) : State :=
  (List.range 16).foldl (fun t c =>
    let x := t.cell (16 * g + c)
    t.setCell (16 * g + c) (x.pull samples (trims.getD c x.trim))) s

/-- The first failure of a span: the lowest cell, and the first test that it fails (assumption 16). -/
def State.spanTaint (s : State) (g : Nat) (running : Bool) (bits : Bytes) : Option (BitVec 4 × BitVec 4) :=
  (List.range 16).findSome? fun c =>
    (cellFails running (s.cell (16 * g + c)) (cellSamples bits c) (cellSamples bits ((c + 1) % 16))).map
      fun t => (BitVec.ofNat 4 c, t)

/-- Close the cells' records of a span. -/
def State.closeCells (s : State) (g : Nat) (bits : Bytes) : State :=
  (List.range 16).foldl (fun t c =>
    let x := t.cell (16 * g + c)
    let ss := cellSamples bits c
    t.setCell (16 * g + c) { x with
      trans := BitVec.ofNat 13 (transitions x.last ss), last := ss.getLast?, run := (longRun x.last x.run ss).2 }) s

/-- The output blocks of a span's raw blocks (R147). -/
def outputBlocks (bits : Bytes) : List Bytes :=
  (List.range (bits.length / 512)).map fun i => sha3_512 (slice (512 * i) 512 bits)

/-- Fail job requests that wait: the jobs complete with a verdict. -/
def State.failJobs (s : State) (ids : List Nat) (v : Verdict) : State :=
  (ids.foldl (fun t id => t.finish id v 0) s).settle

/-- A slice channel stops (R152). -/
def State.stopChannel (s : State) (n g span : Nat) : State :=
  let s := s.setChannel n { s.channel n with state := .stopped, reseedPend := false }
  let s := (s.raise intCld 2).logSlice 5 10 2 sevAudit (BitVec.ofNat 8 n) n 0 (g + 16 * span)
  let r := s.dropRequests fun q => match q.want with | .slice x _ _ => x.toNat == n | _ => false
  r.1.failJobs r.2 (verdict St.entropyFail 0x52)

/-- Channels whose last reseed took a provisional block of a group's open span. -/
def State.provChannels (s : State) (g : BitVec 4) (span : Nat) : List Nat :=
  (List.range 64).filter fun n => (s.channel n).prov == some (g, span)

/-- A span closes clean (R148, R155). -/
def State.spanClean (s : State) (g : BitVec 4) (bits : Bytes) : State :=
  let x := s.group g.toNat
  let s := (s.provChannels g x.span).foldl (fun t n => t.setChannel n { t.channel n with prov := none }) s
  let fresh := x.blocks.foldl (fun l b => l.erase b) (outputBlocks bits)
  let s := s.setGroup g.toNat { x with state := .running, span := x.span + 1, blocks := [], since := s.now }
  { s with cld := { s.cld with
      verified := (s.cld.verified ++ fresh).take 64,
      qualified := s.cld.qualified ||| (1#16 <<< g.toNat) } }

/-- A span closes tainted (R145, R146, R148, R152). -/
def State.spanTainted (s : State) (g : BitVec 4) (cell test : BitVec 4) : State :=
  let x := s.group g.toNat
  let s := s.setGroup g.toNat { x with
    state := .retrim, lastCell := cell, lastTest := test, fails := satInc x.fails, span := x.span + 1, blocks := [], since := s.now }
  let ts := inWindow s.now cyclesPerSec s.cld.taints ++ [s.now]
  let s := { s with cld := { s.cld with taints := ts, tainted := s.cld.tainted + 1 } }
  let s := (s.raise intCld 1).logEvent 5 10 1 sevNotice g.toNat 0 (cell.toNat + 16 * test.toNat)
  let s := (s.provChannels g x.span).foldl (fun t n => t.stopChannel n g.toNat x.span) s
  if 4 ≤ ts.length && !s.cld.fatal then
    let s := { s with cld := { s.cld with fatal := true } }
    ((s.raise intCld 4).logEvent 5 10 6 sevEvidence g.toNat 0 ts.length).raiseFatal causeColander 10
  else s

/-- A span of a group closes (R143 to R148, R152): its raw blocks are tested, conditioned, verified or discarded. A span
has 16 raw blocks in RUNNING and 4 in QUALIFYING. -/
def execColanderSpanClose (group : BitVec 4) (bits : Bytes) (trims : List (BitVec 6)) (s : State) : Out :=
  s.whilePowered fun s =>
    let g := group.toNat
    let st := (s.group g).state
    let running := st == .running
    if !(running || st == .qualifying) || bits.length ≠ 512 * (if running then 16 else 4) then s
    else
      let s := s.setTrims g (bits.length / 2) trims
      let taint := s.spanTaint g running bits
      let s := s.closeCells g bits
      let fresh := bits.length / 512 - (s.group g).blocks.length
      let s := { s with cld := { s.cld with blocks := s.cld.blocks + BitVec.ofNat 64 fresh } }
      match taint with
      | none => s.spanClean group bits
      | some f => s.spanTainted group f.1 f.2

/-- A cell whose loop has pulled its trim towards a value over any number of samples. -/
def Cell.settle (x : Cell) (samples : Nat) (code : BitVec 6) : Cell :=
  (Nat.repeat (fun y => y.pull 4096 code) (min 64 (samples / 4096)) x).pull (samples % 4096) code

/-- Samples of a cell of a group since the group came to its state, at 200 MHz (R141): 2 in 15 ECLK cycles. -/
def State.samplesSince (s : State) (g : Nat) : Nat := (s.now - max s.cld.began (s.group g).since) * 2 / 15

/-- The cells of a group start afresh, under the trims that their loops have come to since the group came to its state: one code
at most in 4,096 samples (R141). -/
def State.restartCells (s : State) (g : Nat) (trims : List (BitVec 6)) : State :=
  (List.range 16).foldl (fun t c =>
    let x := t.cell (16 * g + c)
    t.setCell (16 * g + c) { x.settle (s.samplesSince g) (trims.getD c x.trim) with last := none, run := 0 }) s

/-- The trims of a group in RETRIM have been reacquired: QUALIFYING (R145). -/
def execRetrimDone (group : BitVec 4) (trims : List (BitVec 6)) (s : State) : Out :=
  s.whilePowered fun s =>
    let x := s.group group.toNat
    if x.state = .retrim then
      (s.restartCells group.toNat trims).setGroup group.toNat { x with state := .qualifying, since := s.now }
    else s

/-- The trims of a group have settled over 128 µs: QUALIFYING (R155). -/
def execGroupSettled (group : BitVec 4) (trims : List (BitVec 6)) (s : State) : Out :=
  s.whilePowered fun s =>
    let x := s.group group.toNat
    if x.state = .settling then
      (s.restartCells group.toNat trims).setGroup group.toNat { x with state := .qualifying, since := s.now }
    else s

/-- Number of bits set. -/
def popCount {w : Nat} (v : BitVec w) : Nat := ((List.range w).filter v.getLsbD).length

/-- The conditions of READY (R155). -/
def State.seedsDone (s : State) : Bool :=
  decide (12 ≤ popCount s.cld.qualified) &&
  ((List.range 64).all fun n => (s.channel n).state == .ready) &&
  ((List.range 128).all fun n => (s.engine .cipher n).seeded)

/-- The mesh channels get a seed from Colander at Start-up (R389). The spec gives no channel of Table 5.2 for it: the seed is a
free value (assumption 106). -/
def State.seedMesh (s : State) : State :=
  { s with trivet := { s.trivet with mesh := Config.freeBits 31 s.free }, free := s.free + 1 }

/-- READY (R155): it ends the Colander step of Start-up, and Kboot is asked for (R93). -/
def execColanderReady (s : State) : Out :=
  s.whilePowered fun s =>
    if s.cld.ready || !s.seedsDone then s
    else
      let s := { s with cld := { s.cld with ready := true } }
      let s := if s.modes.mode == .startup then
          { s with modes := { s.modes with steps := s.modes.steps ||| 4 } } else s
      let s := (s.raise intCld 0).logEvent 5 10 4 sevEvidence 0 0 0
      let s := if s.modes.mode == .startup then s.seedMesh else s
      s.awaitFor (.priv .key 32 []) none (some .kboot)

/-- READY has not come within 100 ms (R155). -/
def execSeedFailTimeout (s : State) : Out :=
  s.whilePowered fun s =>
    if s.cld.ready || s.cld.seedFail then s
    else
      let s := { s with cld := { s.cld with seedFail := true } }
      ((s.raise intCld 5).logEvent 5 10 5 sevEvidence 0 0 0).raiseFatal causeSeedFail 10

/-- Colander serves one request (R149, R150). -/
def execEntropyRequestServe (raw : Option (BitVec 4 × Bytes)) (s : State) : Out :=
  s.whilePowered fun s =>
    let r := s.serveOne raw
    match r.2 with
    | none => r.1
    | some x => (r.1.drawn x.1 x.2).settle

/-- The oldest waiting request that a test admits, of a job or of the device itself, fails: the job ends, Kboot is asked for
again, and any other unit of the device asks again when it goes on (assumption 87). -/
def State.failOldest (s : State) (p : Request → Bool) (v : Verdict) : State × Bool :=
  match s.cld.waiting.find? fun r => (r.job.isSome || r.use.isSome) && p r with
  | none => (s, false)
  | some r =>
    let s := s.dropRequest r
    let s := if r.use = some .kboot then s.awaitFor (.priv .key 32 []) none (some .kboot) else s
    (s.failJobs r.job.toList v, true)

/-- A request has waited so many cycles (R154). -/
def Request.waited (r : Request) (now cycles : Nat) : Bool := decide (r.since + cycles ≤ now)

/-- A privileged request. -/
def Want.isPriv : Want → Bool
  | .priv _ _ _ => true
  | _ => false

/-- A privileged request has waited 1 ms after READY (Table 5.4): the oldest. A draw that log hold keeps from its seed has not
arrived at Colander (R158). -/
def execPrivTimeout (s : State) : Out :=
  s.whilePowered fun s =>
    if !s.cld.ready then s
    else
      let r := s.failOldest (fun r => r.want.isPriv && s.servable r && r.waited s.now 1500000)
        (verdict St.entropyFail 0x53)
      if r.2 then (r.1.raise intCld 3).logEvent 5 10 3 sevAudit 0 (verdict St.entropyFail 0x53).arg 0 else r.1

/-- A request has been held 50 ms before READY (Table 5.4): the oldest. -/
def execNotSeededTimeout (s : State) : Out :=
  s.whilePowered fun s =>
    if s.cld.ready then s
    else (s.failOldest (fun r => r.waited s.now 75000000) (verdict St.entropyNotReady 0x50)).1

/-- A slice's channel asks for its background reseed (Table 5.3): 500 µs have passed since the last one. -/
def execDrbgBackgroundReseed (slice : BitVec 6) (s : State) : Out :=
  s.whilePowered fun s =>
    let c := s.channel slice.toNat
    if c.state = .ready && !c.reseedPend && decide (c.lastReseed + 750000 ≤ s.now) then
      (s.setChannel slice.toNat { c with reseedPend := true }).await (.slice slice 0 false) none
    else s

/-- A channel has waited 10 ms for a reseed under the reseed limit (R153): its oldest request fails. -/
def execReseedTimeout (slice : BitVec 6) (s : State) : Out :=
  s.whilePowered fun s =>
    let c := s.channel slice.toNat
    if !s.cld.ready || c.state != .ready || !s.atLimit c then s
    else (s.failOldest (fun r => (match r.want with | .slice x n fresh => x == slice && n != 0 && !fresh | _ => false) &&
      r.waited s.now 15000000) (verdict St.entropyNotReady 0x51)).1

end Sys2Proof.Machine
end

