-- ==== Sys2Proof/Machine/ResetOps.lean ====
section
/-! DEFINITION. The volatile secret erase, the self-test, and the resets that enter Start-up (R397, R403, R446, R449,
R450). -/

namespace Sys2Proof.Machine

/-- What the volatile part of an erase clears in an engine (R397). -/
def Engine.erased (e : Engine) : Engine :=
  { e with
    key := 0, tweak := 0, urgentKey := 0, opmem := [], work := Vector.replicate 4 none, seeded := false,
    maskGen := zeros 200, seedIn := none, segDone := 0, running := none, tap := none, areas := Vector.replicate 4 none }

/-- The verification of a regulator frame holds no secret, and begins again from its message (R433). -/
def Job.afresh (j : Job) : Job :=
  { j with
    cls := .pool, stage := .queued, pos := 0, started := false, run1 := none, run2 := none, excluded := [], hashing := 1
    passes := [], output := [], result := 0 }

/-- The octets that a privileged request has been given so far are erased: it begins again. -/
def Request.emptied (r : Request) : Request :=
  match r.want with
  | .priv c n _ => { r with want := .priv c n [] }
  | _ => r

/-- The volatile domain of R397, recipe memory apart: the derived-key cache, key registers, operand memory, the share
combiner, digest slots, Whisk's held state, Kboot, mask generators, Colander's channels, residues and queue, and what its
requests have been given, and the secret fields of the stations. -/
def State.eraseVolatile (s : State) : State :=
  { s with
    keys := { s.keys with cache := [] },
    eng := { s.eng with
      table := sparseMap Engine.reset (fun _ e => e.erased) s.eng.table, slots := []
      jobs := (s.eng.jobs.filter fun j => j.dev == some .regFrame).map Job.afresh
      tap0 := Tap.closed, tap1 := Tap.closed, tap2 := Tap.closed, kboot := none },
    mkt := { s.mkt with pads := [], stamps := [] },
    cus := { s.cus with
      combiner := [], shares := []
      stations := sparseMap Station.reset (fun _ t => { t with secret := [] }) s.cus.stations },
    cld := { s.cld with
      channels := [], residues := [], served := [], verified := []
      waiting := s.cld.waiting.map Request.emptied } }

/-- Zero recipe memory and invalidate what the cores hold of it (R397). -/
def State.zeroRecipe (s : State) : State :=
  { s with worlds := { s.worlds with
    recipe := [], ctxs := sparseMap Context.reset (fun _ c => { c with stores := [] }) s.worlds.ctxs } }

/-- The engines that fail the known-answer test are retired; a failing shared instance is a Start-up failure (R446 step
4, R448). -/
def State.selfTest (s : State) (t : SelfTest) : State :=
  let count (c : EngClass) : Byte := BitVec.ofNat 8 (t.failed.filter fun f => f.1 == c).length
  let s := { s with modes := { s.modes with
    dgFail := count .pool, cpFail := count .cipher, bnFail := count .bn, sramFail := t.sram,
    steps := s.modes.steps ||| 3 } }
  let s := t.failed.foldl (fun u f => if f.2.toNat < f.1.size then u.retire f.1 f.2.toNat 4 else u) s
  if t.sram then s.raiseFatal causeSelfTest 0 else s

/-- The mask generators whose seeds Start-up asks for have a reseed pending (R105). -/
def State.masksPending (s : State) : State :=
  (List.range 128).foldl (fun t n =>
    let e := t.engine .cipher n
    if e.health == .online then t.setEngine .cipher n { e with reseedPend := true } else t) s

/-- What a device or tamper-hold reset keeps of Stockpot (Table 16.4): the log, its sequence, chain, acknowledgement and
export pointers. A seal signature that it interrupts is remembered (R423). -/
def Stockpot.kept (t : Stockpot) : Stockpot :=
  { Stockpot.reset with
    started := t.started, nextSeq := t.nextSeq, ring := t.ring, wptr := t.wptr, evidence := t.evidence, side := t.side,
    hold := t.hold, ack := t.ack, exp := t.exp, expMax := t.expMax, chain := t.chain, chainedCount := t.chainedCount,
    sealDrop := t.sealDrop - t.drop, sealLast := t.sealLast,
    interrupted := match t.sealing with | some x => some x | none => t.interrupted }

/-- What it keeps of the audit link. -/
def Audit.kept (a : Audit) : Audit :=
  { Audit.reset with peer := a.peer, reqSeq := a.reqSeq, nonce := a.nonce, fseq := a.fseq }

/-- The ceremony that a reset cuts off is ended by the mode change (R378): unless its X has run, its generation is undone
(R381). -/
def State.undoRunning (s : State) : State :=
  match s.cus.running with
  | some c => if c.ending = some 0 then s else s.undoGeneration c
  | none => s

/-- The outcomes that the log gets of what a reset of a powered device ends (R385, R387): turns, the ceremony, windows. -/
def State.recordLost (t s : State) : State :=
  let t := (List.range 8).foldl (fun (t : State) n => match (s.stn n).turn with
    | some u => if u.over then t else t.logTurn n u "ABORTED"
    | none => t) t
  let t := match s.cus.running with
    | some c => t.logEvent 3 16 4 sevAudit c.request.id.toNat 0 (c.ending.getD 1).toNat
    | none => t
  s.cus.windows.foldl (fun t w => t.logEvent 3 16 8 sevAudit w.1 0 5) t

/-- What a reset changes in Trivet: VBAT_LOW and the reading of VBAT are reset (Table 14.9), and a power-on reset has emptied
Stockpot, so no entry has a copy there (R405). -/
def Trivet.onReset (t : Trivet) (keep : Bool) : Trivet :=
  let t := { t with vbatLow := false, vbatMv := 0 }
  if keep then t else { t with evidence := t.evidence.map fun e => (e.1, { e.2 with copied := false }) }

/-- Steps 1 to 4 of Start-up after a reset of a kind (R446, R449, R450). A power-on reset keeps Trivet and the fuses. -/
def State.enterStartup (s : State) (k : ResetKind) (cause : Byte) (test : SelfTest) : State :=
  let keep := k != .powerOn
  let old := s.modes.mode
  let tl : Timeline :=
    if keep then { Timeline.reset with ns := s.tl.ns, frac := s.tl.frac, inc := s.tl.learned, learned := s.tl.learned }
    else Timeline.reset
  let t : State := {
    regs := [], modes := { Modes.start k s.now with mode := old }, fuses := s.fuses,
    trivet := s.undoRunning.trivet.onReset keep
    tamper := Tamper.reset, power := Power.reset, pkg := Package.reset, keys := KeyTree.reset,
    cld := Colander.reset s.now, eng := Engines.reset,
    whisk := { Whisk.reset with frame := if keep then s.whisk.frame else 0 },
    tl := tl, cal := Calendar.reset, mkt := Markets.reset, worlds := Worlds.reset, host := HostLink.reset,
    str := Strainer.reset, cus := Custodians.reset,
    stk := if keep then s.stk.kept else Stockpot.reset, aud := if keep then s.aud.kept else Audit.reset,
    now := s.now, free := s.free, waitingLog := [], completions := s.completions, pending := s.pending }
  let t := t.setMode .startup cause
  let t := if t.trivet.cap.toNat < 2 then t.raise intTmp 3 else t
  ((if keep then t.recordLost s else t).selfTest test).masksPending

end Sys2Proof.Machine
end

