-- ==== Sys2Proof/Machine/TamperOps.lean ====
section
/-! DEFINITION. Tamper sources, their classes and counts, evidence, the three responses (R389 to R410). -/

namespace Sys2Proof.Machine

/-! ### Sources (Table 14.1) -/

/-- A monitored source. -/
def State.src (s : State) (n : Nat) : Source := sparseGet Source.reset s.tamper.sources n

/-- Replace a monitored source. -/
def State.setSrc (s : State) (n : Nat) (x : Source) : State :=
  { s with tamper := { s.tamper with sources := sparseSet Source.reset s.tamper.sources n x } }

/-- Reserved sources raise no event. -/
def reservedSource (n : Nat) : Bool := decide (10 ≤ n) && decide (n ≤ 15)

/-- A source is sampled: not reserved and not fused off, by the factory or by FUSE_BURN (R2, R389, R407). -/
def State.sourceOn (s : State) (n : Nat) : Bool := !reservedSource n && !s.fuses.off.getLsbD n

/-- Settling-prone sources (Table 14.1). -/
def settlingProne (n : Nat) : Bool :=
  n == 2 || n == 3 || n == 5 || n == 7 || (decide (16 ≤ n) && decide (n ≤ 47))

/-- Sources watched on VBAT alone (R401); SM_CHECK covers machines 1 and 5 only. -/
def watchedOnVbat (h : TamperHit) : Bool :=
  let n := h.source.toNat
  decide (n ≤ 3) || (n == 4 && (h.cause == 1 || h.cause == 5)) || n == 9 || (decide (16 ≤ n) && decide (n ≤ 39))

/-- The configurable sources (R393), with the classes that each may take. -/
def classAllowed (n : Nat) (c : AlarmClass) : Bool :=
  if n = 7 ∨ n = 8 then c != .e else decide (40 ≤ n) && decide (n ≤ 47)

/-- The configured or fixed class of a source with VIN present (R393). -/
def State.baseClass (s : State) (n : Nat) : AlarmClass :=
  match (s.src n).cls with
  | some c => c
  | none => if n = 7 ∨ n = 8 then .h else if n = 9 then .l else .e

/-- The tested source (R409). -/
def State.testing (s : State) (n : Nat) : Bool :=
  match s.tamper.test with
  | some t => t.1.toNat == n
  | none => false

/-- The class of an event: E on VBAT alone, L for the tested source, else the source's (R393, R401, R409). -/
def State.eventClass (s : State) (n : Nat) : AlarmClass :=
  if !s.powered then .e else if s.testing n then .l else s.baseClass n

/-- Counting under R408 is in force for a source. Where R4 has an open channel alarm at its first sample in every mode but
Start-up, Recovery and a source test follow R408 and count to three (assumption 72). -/
def State.counts (s : State) (n : Nat) : Bool :=
  s.powered && settlingProne n && !s.testing n &&
  (s.modes.mode == .startup || s.modes.mode == .recovery || s.tamper.test.isSome)

/-- Class codes of evidence and registers. -/
def AlarmClass.code : AlarmClass → Nat
  | .l => 0
  | .h => 1
  | .e => 2

/-- The higher of two classes (R392). -/
def AlarmClass.max (a b : AlarmClass) : AlarmClass := if a.code < b.code then b else a

/-! ### Evidence (R404, R405) -/

/-- Write an evidence entry: the first 12 stay, the latest 4 circulate. -/
def Trivet.addEvidence (t : Trivet) (e : Evidence) : Trivet :=
  let i := t.evNext.toNat
  { t with
    evidence := (t.evidence.filter fun x => x.1 < i) ++ [(i, e)] ++ (t.evidence.filter fun x => i < x.1),
    evCnt := satInc t.evCnt, evNext := if t.evNext = 15 then 12 else t.evNext + 1,
    erased := if t.erased = some t.evNext then none else t.erased }

/-- Record an alarm as evidence: its entry, its copy in Stockpot when VIN is present. -/
def State.writeEvidence (s : State) (n : Nat) (cls : AlarmClass) (cause flags : Byte) (detail : Word) : State :=
  let on := s.powered
  let e : Evidence := {
    source := BitVec.ofNat 8 n, cls := BitVec.ofNat 8 cls.code, cause := cause,
    flags := if on then flags else flags ||| 1, detail := detail, time := if on then s.tl.ns else s.trivet.tick,
    copied := on }
  let s := { s with trivet := s.trivet.addEvidence e }
  if on then s.pushLog 0 true (evidenceRec e) else s

/-! ### Judging events (R394, R408) -/

/-- An event that alarms, with its class and the evidence flags it carries. -/
structure Alarm where
  hit : TamperHit
  cls : AlarmClass
  flags : Byte

/-- Cycles of the 2 ms interval of R408. -/
def countSpan : Nat := 3000000

/-! ### State-machine codes (R391) -/

/-- The codewords that Table 14.2 assigns to a critical state machine. -/
def machineCodes : Nat → List Byte
  | 0 => [0x0F, 0x33, 0x55, 0x66, 0x99, 0xAA]
  | 1 => [0x3C, 0x5A, 0x69, 0x96, 0xA5, 0xC3]
  | 2 => [0x33, 0xCC]
  | 3 => [0x55, 0xAA]
  | 4 => [0x0F, 0x3C, 0x66, 0x99, 0xF0]
  | 5 => [0x5A, 0xA5, 0x69]
  | _ => []

/-- Cycles from the detection of an E alarm with VIN to the ones pass, and of one pass (Table 14.3). -/
abbrev eraseStart : Nat := 60
abbrev erasePass : Nat := 750

/-- The erase sequencer now: with VIN, three passes, and three more for each repeat, from the time at which it started or
started again (R398, R399, R410). Trivet's records hold their values from the first on (assumption 107). -/
def State.eraserNow (s : State) : EraseState :=
  match s.tamper.eraseFrom with
  | none => s.trivet.eraser
  | some t =>
    let k := (s.now - t - eraseStart) / erasePass
    if 3 * (s.trivet.eraseRepeats.toNat + 1) ≤ k then s.trivet.eraser
    else if k % 3 = 0 then .ones else if k % 3 = 1 then .zeros else .verify

/-- What the state register of each critical state machine holds (Table 14.2). The loader's COMPARE and the power controller's
SWITCHING pass within a command. -/
def State.machineCode (s : State) : Nat → Byte
  | 0 => s.modes.mode.code
  | 1 => s.eraserNow.code
  | 2 => if s.tamper.gateClosed then 0xCC else 0x33
  | 3 => if s.worlds.wmarkLock then 0xAA else 0x55
  | 4 => match s.worlds.kstate with
    | .absent => 0x0F
    | .loading => 0x3C
    | .failed => 0xF0
    | _ => 0x99
  | 5 => if s.powered then 0x5A else 0xA5
  | _ => 0

/-- A state check raises an event for a machine of Table 14.2 only, and for a value that is none of its codes. -/
def realHit (h : TamperHit) : Bool :=
  h.source != 4 || (decide (h.cause.toNat < 6) && !(machineCodes h.cause.toNat).contains (h.detail.setWidth 8))

/-- An event as Table 14.4 writes it: sources without causes of their own have CAUSE 1, and those without a detail DETAIL 0. -/
def normalHit (h : TamperHit) : TamperHit :=
  let n := h.source.toNat
  let temp := n = 2 ∨ n = 3
  let mesh := n ≤ 1 ∨ (16 ≤ n ∧ n ≤ 23)
  let loop := 24 ≤ n ∧ n ≤ 39
  { h with
    cause := if temp ∨ mesh ∨ loop ∨ n = 4 then h.cause else 1
    detail := if n = 4 then h.detail &&& 0xFF else if temp ∨ mesh then h.detail else 0 }

/-- The sources are watched now: with VIN always, on VBAT alone once TRV_INIT is burned (R4, R401, R471). -/
def State.watching (s : State) : Bool := s.powered || s.fuses.trvInit

/-- Count one event (R408): an alarm, or a counted event below the threshold. -/
def State.judge (s : State) (h : TamperHit) : State × Option Alarm :=
  let h := normalHit h
  let n := h.source.toNat
  if !s.sourceOn n || !realHit h || !s.watching || (!s.powered && !watchedOnVbat h) then (s, none)
  else
    let x := s.src n
    let x := { x with count := satInc x.count, cause := h.cause, event := true }
    let cls := s.eventClass n
    if !s.counts n then
      (s.setSrc n x, some ⟨h, cls, if s.testing n then 4 else 0⟩)
    else
      let win := (x.window.filter fun t => s.now ≤ t + countSpan) ++ [s.now]
      let s := s.setSrc n { x with window := win }
      if win.length < 3 then
        ((s.raise intTmp 1).pushLog 0 true (eventRec 17 4 sevNotice devSlice n 0 win.length), none)
      else (s, some ⟨h, cls, 2⟩)

/-- Judge the events of one cycle. -/
def State.judgeAll (s : State) : List TamperHit → State × List Alarm
  | [] => (s, [])
  | h :: hs =>
    let r := s.judge h
    let q := r.1.judgeAll hs
    (q.1, r.2.toList ++ q.2)

/-- VBAT_LOW with VIN present sets TRV_STS.VBAT_LOW (R396). -/
def State.setVbatLow (s : State) : State :=
  if s.trivet.vbatLow then s else { s with trivet := { s.trivet with vbatLow := true } }.raise intTmp 2

/-- Record one alarm (R394, R396, R404): the flag of an E or H source, evidence, the L record. -/
def State.noteAlarm (s : State) (a : Alarm) (extra : Byte) : State :=
  let n := a.hit.source.toNat
  let s := { s with tamper := { s.tamper with
    lastClass := BitVec.ofNat 2 (a.cls.code + 1), lastSrc := BitVec.ofNat 6 n } }
  match a.cls with
  | .l =>
    let s := (s.raise intTmp 0).pushLog 0 true (eventRec 17 1 sevAudit devSlice n 0 a.hit.cause.toNat)
    let s := if n = 9 then s.setVbatLow else s
    if a.flags = 4 then s.writeEvidence n .l a.hit.cause a.flags a.hit.detail else s
  | c =>
    let s := { s with trivet := { s.trivet with flags := s.trivet.flags ||| (1#64 <<< n) } }
    s.writeEvidence n c a.hit.cause (a.flags ||| (if c = .e then extra else 0)) a.hit.detail

/-! ### The erase (R397 to R400, R402) -/

/-- Record alarms in turn. The entry of the first E alarm after `erased` was emptied is the entry of its erase (R400). -/
def State.noteAlarms (s : State) (l : List Alarm) (extra : Byte) : State :=
  l.foldl (fun t a =>
    let i := t.trivet.evNext
    let t := t.noteAlarm a extra
    if a.cls = .e ∧ !t.tamper.erasing ∧ t.trivet.erased.isNone then { t with trivet := { t.trivet with erased := some i } } else t) s

/-- The passes of an erase: every root, owner and authority record is zero. `bad` holds the row that each failing verify pass
found; the repeats are limited by R399. -/
def Trivet.passes (t : Trivet) (bad : List Byte) (onVbat : Bool) : Trivet :=
  let limit := if onVbat then 1 else 3
  let failed := decide (limit < bad.length)
  let repeats := min limit bad.length
  let used := if onVbat then 1 + repeats else 0
  { t with
    roots := [], owners := [], authorities := []
    eraseRow := bad.getLast?.getD t.eraseRow, eraseRepeats := BitVec.ofNat 3 repeats, eraseFail := failed,
    eraser := if failed then .held else .done, cap := t.cap - BitVec.ofNat 2 (min t.cap.toNat used) }

/-- The Trivet part of an erase, which TRV_ERASES counts. -/
def Trivet.erase (t : Trivet) (bad : List Byte) (onVbat : Bool) : Trivet :=
  { t.passes bad onVbat with erases := satInc t.erases }

/-- The evidence flags of an erase: ERASE_REPEAT and ERASE_FAIL. -/
def eraseFlags (bad : List Byte) (onVbat : Bool) : Byte :=
  (if bad = [] then 0 else 8) ||| (if (if onVbat then 1 else 3) < bad.length then 16 else 0)

/-- RESUME, CAUSE and ARG of an erase (R441). -/
def Trivet.markErased (t : Trivet) (source : Nat) : Trivet :=
  { t with resume := 0xAA, cause := causeTamperErase, causeArg := BitVec.ofNat 8 source }

/-- An E response (R397). -/
def State.eraseResponse (s : State) (source : Nat) (bad : List Byte) : State :=
  let vbat := !s.powered
  let s := { s with trivet := (s.trivet.erase bad vbat).markErased source }
  if vbat then s
  else
    { s with tamper := { s.tamper with
        gateClosed := true, responding := some .e, erasing := true, holdRequested := false, eraseFrom := some s.now } }.eraseVolatile

/-- A non-codeword of the erase sequencer during an erase: it starts again at ONES (R410). -/
def State.eraseAgain (s : State) (bad : List Byte) : State :=
  { s with trivet := s.trivet.passes bad false, tamper := { s.tamper with eraseFrom := some s.now } }

/-- An H response (R395): the gate closes, the tamper-hold reset is requested; RESUME and REC_FROM as Table 16.1 says. -/
def State.holdResponse (s : State) (source : Nat) : State :=
  if s.modes.mode = .erased then s
  else
    let t := s.trivet
    let t := if t.resume = 0xAA ∨ t.resume = 0x99 then t
      else { t with resume := 0x99, recFrom := if s.modes.mode = .recovery then t.recFrom else s.modes.mode.code }
    { s with
      trivet := { t with cause := causeTamperHold, causeArg := BitVec.ofNat 8 source },
      tamper := { s.tamper with gateClosed := true, responding := some .h, holdRequested := true } }

/-- The first alarm of a class. -/
def firstOf (c : AlarmClass) (l : List Alarm) : Option Alarm := l.find? fun a => a.cls == c

/-- Events found in one cycle, or in one Trivet sample, are judged together (R394, R410). -/
def State.tamperEvents (s : State) (hits : List TamperHit) (bad : List Byte) : State :=
  let r := s.judgeAll hits
  let s := r.1
  let busy := s.tamper.erasing
  match firstOf .e r.2 with
  | some a =>
    if busy then
      let s := s.noteAlarms r.2 0
      if r.2.any fun x => x.hit.source == 4 && x.hit.cause == 1 then s.eraseAgain bad else s
    else
      let s := { s with trivet := { s.trivet with erased := none } }
      (s.noteAlarms r.2 (eraseFlags bad (!s.powered))).eraseResponse a.hit.source.toNat bad
  | none =>
    let s := s.noteAlarms r.2 0
    match firstOf .h r.2 with
    | some a => if busy || s.tamper.responding == some .h then s else s.holdResponse a.hit.source.toNat
    | none => s

end Sys2Proof.Machine
end

