-- ==== Sys2Proof/Machine/TamperCommands.lean ====
section
/-! DEFINITION. The meanings of the tamper monitor's and Trivet's events (14). Trivet's run in Dormant too. -/

namespace Sys2Proof.Machine

/-- The events of one cycle or one Trivet sample (R394). `badRows` are the rows that fail the verify passes of an erase
that they start. -/
def execTamperEvent (events : List TamperHit) (badRows : List Byte) (s : State) : Out :=
  .next (s.after (s.tamperEvents events badRows))

/-- Quorum windows and the ceremony end, and refused jobs end, as the device enters Erased (R386, R397, R445). -/
def State.enterErased (s : State) : State :=
  let s := s.setMode .erased causeTamperErase
  let s := s.noteKeys
  let s := s.closeMarkets fun _ => true
  let s := s.closeWindows (fun _ => true) 5
  (s.endCeremony 1).endRefused

/-- The volatile part of an erase has ended: recipe memory is zeroed and Erased is entered (Table 14.3). A Start-up runs
on, and ends in Erased (R447, R458). -/
def execEraseComplete (s : State) : Out :=
  s.whilePowered fun s =>
    if !s.tamper.erasing then s
    else
      let s := { s with tamper := { s.tamper with erasing := false, responding := none } }.zeroRecipe
      if s.modes.mode = .startup ∨ s.modes.mode = .erased then s else s.enterErased

/-- TMP_TEST (R409): SOURCE and DUR_MS are kept; GO starts a test in Commissioning. -/
def State.startTest (s : State) (value : Word) : State :=
  let s := s.setReg 0x110038 (value &&& 0x7F3F)
  let src := value.extractLsb 5 0
  let dur := value.extractLsb 14 8
  if value.getLsbD 6 && s.modes.mode == .commissioning && s.tamper.test.isNone &&
     decide (16 ≤ src.toNat) && decide (src.toNat ≤ 47) && decide (1 ≤ dur.toNat) && decide (dur.toNat ≤ 100) then
    { s with tamper := { s.tamper with test := some (src, dur) } }.pushLog 0 true
      (eventRec 17 3 sevAudit devSlice src.toNat 0 dur.toNat)
  else s

/-- TMP_TEST is written by S alone (R411). -/
def execTmpTestGo (who : Accessor) (value : Word) (s : State) : Out :=
  s.whilePowered fun s => s.writeBy who.isS who 0x110038 fun t => t.startTest value

/-- The duration of a source test has passed (R409). -/
def execTmpTestEnd (s : State) : Out :=
  s.whilePowered fun s =>
    if s.tamper.test.isSome then { s with tamper := { s.tamper with test := none } }.raise intTmp 5 else s

/-- TMP_SRC_CFG.CLASS (R393): in Start-up or Commissioning, while LOCK is 0, for a class that the source may take. -/
def State.writeClass (s : State) (value : Word) : State :=
  let n := (s.reg 0x110020).toNat
  let c : Option AlarmClass :=
    match (value.extractLsb 1 0).toNat with
    | 1 => some .l
    | 2 => some .h
    | 3 => some .e
    | _ => none
  match c with
  | none => s
  | some c =>
    if (s.modes.mode == .startup || s.modes.mode == .commissioning) && !s.tamper.lock && classAllowed n c then
      (s.setSrc n { s.src n with cls := some c }).pushLog 0 true (eventRec 17 2 sevAudit devSlice n 0 (c.code + 1))
    else s

/-- TMP_SRC_CFG is written by S alone (R411). -/
def execTmpSrcCfgWrite (who : Accessor) (value : Word) (s : State) : Out :=
  s.whilePowered fun s => s.writeBy who.isS who 0x110024 fun t => t.writeClass value

/-- A sample of VBAT (Table 14.1): the third in a row below 2.3 V is an event of source 9. One of 2.3 V or more clears
VBAT_LOW, and shows that VBAT is there (assumption 107). -/
def State.sampleVbat (s : State) (mv : Half) : State :=
  let low := decide (mv.toNat < 2300)
  let n := if low then s.tamper.vbatLowSamples + 1 else 0
  let s := { s with
    trivet := { s.trivet with vbatMv := mv, vbat := s.trivet.vbat || !low, vbatLow := s.trivet.vbatLow && low },
    tamper := { s.tamper with vbatLowSamples := if n = 3 then 0 else n } }
  if n = 3 then s.tamperEvents [{ source := 9, cause := 1, detail := 0 }] [] else s

/-- VBAT is sampled, unless Trivet watches nothing yet (R471) or source 9 is disabled (R407). -/
def execVbatSample (mv : Half) (s : State) : Out :=
  .next (s.after (if s.watching && s.sourceOn 9 then s.sampleVbat mv else s))

/-- Once a second while VIN is present and the capacitor holds less than two erases (R402). CAP_LOW is set as CAP falls, or as VIN
finds it low (Table 14.8). -/
def execCapLowRecord (s : State) : Out :=
  s.whilePowered fun s =>
    if s.trivet.cap.toNat < 2 then
      s.pushLog 0 true (eventRec 17 6 sevAudit devSlice 0 0 s.trivet.cap.toNat)
    else s

/-- The events of two temperature readings, in steps of 0.25 °C (Table 14.1). -/
def tempHits (n : Nat) (t : BitVec 12) : List TamperHit :=
  if t.toInt < -120 then [{ source := BitVec.ofNat 6 n, cause := 1, detail := t.signExtend 32 }]
  else if 460 < t.toInt then [{ source := BitVec.ofNat 6 n, cause := 2, detail := t.signExtend 32 }]
  else []

/-- Both temperature sensors are sampled (R390): compared with both limits, and with VIN present with each other. -/
def execTemperatureSample (t0 t1 : BitVec 12) (s : State) : Out :=
  let t :=
    if !s.powered then s
    else
      let apart := decide (20 < (t0.toInt - t1.toInt).natAbs)
      let n := if apart then s.tamper.split + 1 else 0
      let s := { s with tamper := { s.tamper with temp0 := t0, temp1 := t1, split := n } }
      if n = 3 then (s.raise intTmp 4).pushLog 0 true (eventRec 17 5 sevNotice devSlice 2 0 3) else s
  .next (s.after (t.tamperEvents (tempHits 2 t0 ++ tempHits 3 t1) []))

/-- The erase capacitor is full again (R402). -/
def execCapacitorRecharged (s : State) : Out :=
  .next (s.after { s with trivet := { s.trivet with cap := 2 } })

/-- VBAT is lost: with VIN absent too, Trivet loses all it holds (R403). -/
def execVbatLost (s : State) : Out :=
  .next (s.after <| if s.powered then { s with trivet := { s.trivet with vbat := false } }
    else { s with trivet := { Trivet.init with canary := false, vbat := false } })

end Sys2Proof.Machine
end

