-- ==== Sys2Proof/Machine/ModeCommands.lean ====
section
/-! DEFINITION. The meanings of the mode state machine's events (16): VIN, Start-up, fatal conditions, resets. -/

namespace Sys2Proof.Machine

/-- The canary check (R403): warm; first power-up; or cold, with the flag of source 9 set with cause COLD. -/
def State.canaryCheck (s : State) : State :=
  let t := s.trivet
  if t.canary then { s with trivet := { t with cold := false } }
  else if !s.fuses.trvInit then
    let fresh := { Trivet.init with cold := true, vbat := t.vbat }
    { s with
      trivet := fresh
      fuses := { s.fuses with trvInit := true } }
  else
    let t : Trivet := { Trivet.init with
      cold := true, vbat := t.vbat, flags := 1#64 <<< 9, resume := 0xAA, cause := causeCold, causeArg := 9 }
    let e : Evidence := {
      source := 9, cls := 2, cause := 2, flags := 0, detail := 0, time := 0, copied := true }
    { s with trivet := t.addEvidence e }

/-- VIN is applied in Dormant (R446): a power-on reset. -/
def execVinApplied (test : SelfTest) (s : State) : Out :=
  .next (s.after <| if s.powered then s
    else
      let lost := !s.trivet.canary && s.fuses.trvInit
      let s := s.canaryCheck.enterStartup .powerOn 0 test
      match (if lost then s.trivet.evidence.head? else none) with
      | some e => s.pushLog 0 true (evidenceRec e.2)
      | none => s)

/-- Mark the evidence entry of the erase in progress PARTIAL, while it stands (R400). -/
def Trivet.markPartial (t : Trivet) : Trivet :=
  let mine (i : Nat) : Bool := match t.erased with | some k => k.toNat == i | none => false
  { t with
    evidence := t.evidence.map fun e => if mine e.1 then (e.1, { e.2 with flags := e.2.flags ||| 32 }) else e }

/-- VIN is lost in a powered mode (R440): Dormant. With VBAT absent too, Trivet loses all it holds (R403). On VBAT alone the mesh
sequences take their seed from TRV_TICK (R389; assumption 106). -/
def execVinLost (s : State) : Out :=
  s.whilePowered fun s =>
    let t := { s.trivet with lastMode := s.modes.mode.code, mesh := s.trivet.tick.setWidth 31 }
    let t := if s.tamper.erasing then t.markPartial else t
    { s with
      trivet := if t.vbat then t else { Trivet.init with canary := false, vbat := false }
      modes := { s.modes with mode := .dormant }
      tamper := Tamper.reset }

/-- Every step of Start-up that can run has ended (R446). The log of a power-on reset cannot start without entropy. -/
def State.startupDone (s : State) : Bool :=
  let st := s.modes.steps
  s.modes.mode == .startup && st.getLsbD 0 && st.getLsbD 1 && (st.getLsbD 2 || s.cld.seedFail) &&
  (st.getLsbD 3 || (s.cld.seedFail && !s.stk.started)) && st.getLsbD 4 && !s.tamper.erasing &&
  (st.getLsbD 5 || st.getLsbD 6 || s.endMode == .erased)

/-- Start-up ends (R446, R447). -/
def State.finishStartup (s : State) : State :=
  let m := s.endMode
  let r := s.trivet.resume
  let bad := m == .recovery && !s.modes.failed && r != 0x99
  let us := (s.now - s.modes.began) * 2 / 3000
  let s := { s with
    worlds := { s.worlds with wmarkLock := true },
    modes := { s.modes with startUs := BitVec.ofNat 32 us },
    trivet :=
      if m = Mode.recovery then (if bad then { s.trivet with cause := causeResumeInvalid, causeArg := 0 } else s.trivet)
      else if m = Mode.erased then s.trivet else s.trivet.setResume m.code }
  let s := s.setMode m (if m = Mode.recovery ∨ m = Mode.erased then s.trivet.cause else 0)
  s.logEvent 1 0 2 sevAudit m.code.toNat 0 us

/-- Every step of Start-up has ended. -/
def execStartUpEnd (s : State) : Out :=
  s.whilePowered fun s => if s.startupDone then s.finishStartup else s

/-- TL_WAIT_S seconds have passed since READY (R446 step 8). -/
def execTlWaitExpiry (s : State) : Out :=
  s.whilePowered fun s =>
    if s.modes.mode = .startup ∧ s.modes.steps.getLsbD 4 ∧ !s.modes.steps.getLsbD 5 then
      let s := { s with modes := { s.modes with steps := s.modes.steps ||| 64 } }
      if s.startupDone then s.finishStartup else s
    else s

/-- The kernel has not set READY within 100 ms of its START (R446 step 7, R448). -/
def execKernelReadyTimeout (s : State) : Out :=
  s.whilePowered fun s =>
    if s.modes.mode = .startup ∧ s.modes.kernelStarted ∧ !s.modes.steps.getLsbD 4 then
      let s := { s with modes := { s.modes with steps := s.modes.steps ||| 16 } }
      s.raiseFatal causeSwReady 0
    else s

/-- A non-tamper fatal condition (R443, R448). -/
def execNonTamperFatal (cause arg : Byte) (s : State) : Out :=
  s.whilePowered fun s => s.raiseFatal cause arg

/-- MOD_RST.DEVICE may be written by S, and by H in Recovery after the secure world has FAILED (R444, R459). -/
def State.mayReset (s : State) (who : Accessor) : Bool :=
  match who with
  | .s => true
  | .h _ => s.worlds.kstate == .failed && s.modes.mode == .recovery
  | .manager => s.worlds.kstate == .failed && s.modes.mode == .recovery
  | _ => false

/-- A device reset (R449). -/
def execDeviceReset (who : Accessor) (value : Word) (test : SelfTest) (s : State) : Out :=
  s.whilePowered fun s => s.writeBy (s.mayReset who) who 0x000008 fun s =>
    if value.getLsbD 0 then s.enterStartup .device 0 test else s

/-- Ticks of TRV_TICK in 10 s. -/
def holdTicks : Nat := 327680

/-- The tamper-hold reset that an H alarm requested (R395, R449): the fourth within 10 s is not performed, and Recovery
is entered in place with the gate CLOSED. -/
def execTamperHoldReset (test : SelfTest) (s : State) : Out :=
  s.whilePowered fun s =>
    if !s.tamper.holdRequested then s
    else
      let t := s.trivet.tick.toNat
      let recent := s.trivet.holds.filter fun h => t < h + holdTicks
      if 3 ≤ recent.length then
        let s := { s with tamper := { s.tamper with holdRequested := false, responding := none } }
        if s.modes.mode = .startup then
          { s with
            trivet := { s.trivet with cause := causeHoldLimit, causeArg := 0 },
            modes := { s.modes with failed := true } }
        else s.enterRecovery causeHoldLimit 0
      else
        let s := { s with trivet := { s.trivet with holds := recent ++ [t] } }
        s.enterStartup .hold causeTamperHold test

/-- MOD_CTL.FATAL is written by S (R459). -/
def execModCtlFatal (who : Accessor) (value : Word) (s : State) : Out :=
  s.whilePowered fun s => s.writeBy who.isS who 0x00000C fun s =>
    if value.getLsbD 0 then s.raiseFatal causeKernelRequest 0 else s

end Sys2Proof.Machine
end

