-- ==== Sys2Proof/Machine/TimelineCommands.lean ====
section
/-! DEFINITION. The timeline: references, consistency, first lock, discipline, holdover, untrust (R189 to R201). -/

namespace Sys2Proof.Machine

/-! ### References -/

/-- A reference: false TREF_A, true TREF_B. -/
def State.tref (s : State) (r : Bool) : Tref := if r then s.tl.refB else s.tl.refA

/-- Replace a reference. -/
def State.setTref (s : State) (r : Bool) (x : Tref) : State :=
  if r then { s with tl := { s.tl with refB := x } } else { s with tl := { s.tl with refA := x } }

/-- TL_CFG and the epoch second (R192). -/
def State.tlCfg (s : State) : Word := s.reg 0x0B0004
def State.epochSec (s : State) : Nat := (s.reg64 0x0B0010).toNat % 2 ^ 48

/-- A reference is qualified (R191). -/
def Tref.qualified (x : Tref) : Bool := decide (8 ≤ x.cnt.toNat)

/-- The timeline value of a TAI second (R192). -/
def State.secValue (s : State) (sec : Nat) : Int := ((sec : Int) - s.epochSec) * 1000000000

/-- Phase error of the counter against a reference's last consistent edge (R197). -/
def State.phaseOf (s : State) (x : Tref) : Int := (x.goodEdge.toNat : Int) - s.secValue x.prevSec.toNat

/-- A message's fields (Table 7.1). -/
def todSec (m : Bytes) : Nat := ofBE (slice 4 6 m)

/-- The message is whole: 24 octets with a good CRC (R189). -/
def todFramed (m : Bytes) : Bool := m.length == 24 && crc16 (m.take 22) == fieldBE 16 22 2 m

/-- Condition 1 of R190. -/
def todGood (run : Option Bytes) (onTime : Bool) : Bool :=
  match run with
  | none => false
  | some m =>
    onTime && todFramed m && octet 0 m == 0x5A && octet 1 m == 0xA5 && octet 2 m == 1 && octet 3 m == 0x18 &&
    octet 10 m &&& 0xF0 == 0 && octet 11 m &&& 0xFC == 0 && zeroRange 20 22 m

/-- The first condition of R190 that an edge fails: 1 to 7. `first` leaves out conditions 5 and 6. -/
def State.edgeFails (s : State) (x : Tref) (run : Option Bytes) (onTime first : Bool) : Option (BitVec 4) :=
  let m := run.getD []
  let cfg := s.tlCfg
  if !todGood run onTime then some 1
  else if (cfg.extractLsb 5 2).toNat < (octet 10 m).toNat % 16 then some 2
  else if (octet 11 m).getLsbD 1 && !cfg.getLsbD 6 then some 3
  else if todSec m < s.epochSec then some 4
  else if !first && !(x.prevOk && todSec m == x.prevSec.toNat + 1) then some 5
  else if !first && !(decide (9999999 ≤ x.interval) && decide (x.interval ≤ 10000001)) then some 6
  else if !x.freqOk then some 7
  else none

/-! ### Discipline -/

/-- The slew limits of R193: ±50 ppm of the nominal increment. -/
def incMin : Nat := (nominalInc.toNat * 99995 + 99999) / 100000
def incMax : Nat := nominalInc.toNat * 100005 / 100000

/-- The loop sets a new increment. The spec gives its limits and not its law, so the value is free within them
(assumption 18). -/
def State.slew (s : State) : State :=
  let f := s.freeValue 32
  { f.2 with tl := { f.2.tl with inc := BitVec.ofNat 32 (max incMin (min incMax f.1.toNat)) } }

/-- The largest change between successive learned offsets (R197). -/
def residualOf : List (Option Int) → Nat
  | some a :: some b :: t => max (a - b).natAbs (residualOf (some b :: t))
  | _ :: t => residualOf t
  | [] => 0

/-- The increment at which a clock that is so many ns/s fast counts true, within the limits of R193. -/
def incFor (offset : Int) : Word :=
  let v := (nominalInc.toNat : Int) * 1000000000 / (1000000000 + offset)
  BitVec.ofNat 32 (max incMin (min incMax v.toNat))

/-- A reference learns a frequency offset, so many seconds after its last: the changes of 64 s are kept (R197). -/
def Tref.learn (x : Tref) (gap : Nat) (offset : Int) : Tref :=
  { x with offsets := (some offset :: (List.replicate (min 65 (gap - 1)) none ++ x.offsets)).take 65 }

/-- The offset that a reference has learned last. -/
def Tref.offset? (x : Tref) : Option Int := x.offsets.findSome? id

/-- The residual of a reference (R197). -/
def Tref.resid (x : Tref) : Nat := residualOf x.offsets

/-- The residual of a reference allows lock (R197). -/
def Tref.residOk (x : Tref) : Bool := decide (x.resid ≤ 100)

/-- The loop takes a reference's learned offset and its residual. -/
def State.follow (s : State) (r : Bool) : State :=
  let x := s.tref r
  { s with tl := { s.tl with
    resid := BitVec.ofNat 32 x.resid, learned := match x.offset? with | some o => incFor o | none => s.tl.learned } }

/-- φ of a consistent edge of the selected reference is shown (TL_PHASE). -/
def State.showPhase (s : State) (phi : Int) : State := { s with tl := { s.tl with phase := BitVec.ofInt 32 phi } }

/-! ### State changes -/

/-- Conditions of the timeline that an arrival may still meet. -/
abbrev pastSpans : Nat := 4

/-- The timeline's condition now. -/
def Timeline.span (t : Timeline) : TlSpan :=
  { ended := t.ns, state := t.state, hold := t.hold, untr := t.untr, resid := t.resid }

/-- The condition at a counter value: that before the earliest change that lies after it. -/
def tlSpanAt (cur : TlSpan) (a : DWord) : List TlSpan → TlSpan
  | [] => cur
  | x :: xs => if x.ended.toNat ≤ a.toNat then cur else tlSpanAt x a xs

/-- The timeline enters a state; the condition that ends is kept. The free-running states take the learned frequency
(Table 7.2). -/
def State.enterTl (s : State) (st : TlState) : State :=
  let t := s.tl
  { s with tl := { t with
    state := st, past := (t.span :: t.past).take pastSpans, following := none
    inc := if st = .locked then t.inc else t.learned } }

/-- UNTRUSTED is entered (R195, R200): windows close with TIME (R385). -/
def State.untrust (s : State) : State :=
  let t := (s.enterTl .untrusted)
  let t := { t with tl := { t.tl with
    holdoverTo := if s.tl.state == TlState.holdover then s.tl.ns else s.tl.holdoverTo } }
  let t := (t.raise intTl 2).logAct 5 11 3 sevAudit 0 0 t.tl.ns.toNat
  (t.closeWindows (fun _ => true) 3).noteConditions s

/-- HOLDOVER is entered (R198, R199). -/
def State.holdoverFrom (s : State) (edge : DWord) : State :=
  let r := s.tl.resid.toNat
  let span := if r = 0 then 10000000000 else min 10000000000 (980000000000 / r)
  let s := s.enterTl .holdover
  let s := { s with tl := { s.tl with hold := edge, untr := edge + BitVec.ofNat 64 span } }
  (s.raise intTl 1).logAct 5 11 2 sevAudit 0 0 edge.toNat

/-- Switch the selected reference (R198). Its phase is shown, and a residual above 100 ns/s makes the state UNTRUSTED at once
(R197). -/
def State.switchRef (s : State) (r : Bool) : State :=
  let s := { s with tl := { s.tl with sel := r } }
  let s := (((s.showPhase (s.phaseOf (s.tref r))).follow r).raise intTl 4).logEvent 5 11 1 sevNotice (if r then 1 else 0) 0 0
  if (s.tref r).residOk then s else { s with tl := { s.tl with residHigh := true, untr := s.tl.ns } }.untrust

/-- The selected reference fails while LOCKED (R198). -/
def State.refFails (s : State) : State :=
  let o := s.tref !s.tl.sel
  if o.qualified && decide ((s.phaseOf o).natAbs ≤ 100) then s.switchRef !s.tl.sel
  else s.holdoverFrom (s.tref s.tl.sel).goodEdge

/-- Held entries are released at T_L (R205). -/
def State.releaseHeld (s : State) : State :=
  if s.cal.held.isEmpty then s else s.raise intCal 2

/-- LOCKED is resumed on a reference (R201). -/
def State.resumeLock (s : State) (r : Bool) : State :=
  let t := (s.enterTl .locked).follow r
  let t := { t with tl := { t.tl with
    sel := r, residHigh := false,
    holdoverTo := if s.tl.state == TlState.holdover then s.tl.ns else s.tl.holdoverTo,
    untrustedTo := if s.timeUntrusted then s.tl.ns else s.tl.untrustedTo } }
  let t := ((t.showPhase (t.phaseOf (t.tref r))).raise intTl 3).logAct 5 11 4 sevAudit (if r then 1 else 0) 0
    t.tl.ns.toNat
  t.releaseHeld.noteConditions s

/-- The next multiple of 100,000 µs of a counter value, in µs. -/
def nextSealUs (ns : Nat) : Nat := (ns / 100000000 + 1) * 100000

/-- Move the STK_SEAL entry to the next multiple of 100,000 µs (R203). -/
def State.placeStkSeal (s : State) : State :=
  let s := s.calRemove fun e => e.kind == kindStkSeal
  s.calPlace false (deviceEntry kindStkSeal (nextSealUs s.tl.ns.toNat) 0 100000)

/-- Whisk ends the frame in progress (R31): until the next one starts no balance is left. -/
def Whisk.endFrame (w : Whisk) : Whisk :=
  { w with ended := true, accounts := sparseMap Account.reset (fun _ a => { a with balance := 0 }) w.accounts }

/-- First lock (R196): the counter is stepped once. -/
def State.firstLock (s : State) (r : Bool) : State :=
  let x := s.tref r
  let delta : DWord := BitVec.ofInt 64 (s.secValue x.prevSec.toNat - (x.goodEdge.toNat : Int))
  let before := s.tl.ns
  let after := before + delta
  let move (y : Tref) : Tref := { y with edge := y.edge + delta, goodEdge := y.goodEdge + delta }
  let t := { s with
    tl := { s.tl with
      ns := after, stepped := true, untrustedTo := after, sel := r, phase := 0, refA := move s.tl.refA,
      refB := move s.tl.refB },
    whisk := s.whisk.endFrame,
    modes := { s.modes with firstLock := true, steps := s.modes.steps ||| 32 } }
  let t := (t.enterTl .locked).follow r
  let had := t.cal.entries.any fun e => e.2.kind == kindStkSeal
  let t := if had then t.placeStkSeal else t
  let t := (t.raise intTl 0).logAct 5 11 5 sevAudit before.toNat 0 after.toNat
  t.releaseHeld.noteConditions s

/-- The last consistent edges of the two references lie so far apart. -/
def State.refGap (s : State) : Nat := (s.phaseOf (s.tref false) - s.phaseOf (s.tref true)).natAbs

/-- Both references are qualified and their edges differ by more than 100 ns (R198). -/
def State.disagrees (s : State) : Bool :=
  (s.tref false).qualified && (s.tref true).qualified && decide (100 < s.refGap)

/-- The disagreement is reported once. -/
def State.checkDisagree (s : State) : State :=
  if s.disagrees && !s.tl.disagree then
    ({ s with tl := { s.tl with disagree := true } }.raise intTl 5).logEvent 5 11 6 sevAudit 0 0 s.refGap
  else s

/-- The reference that first lock selects (R196). -/
def State.firstRef (s : State) : Bool :=
  let a := (s.tref false).cnt.toNat
  let b := (s.tref true).cnt.toNat
  if a < b then true else if b < a then false else s.tlCfg.getLsbD 0

/-- A consistent edge of a reference while LOCKED (R197, R198). -/
def State.lockedEdge (s : State) (r : Bool) : State :=
  let x := s.tref r
  if r = s.tl.sel then
    let s := ((s.showPhase (s.phaseOf x)).follow r).slew
    if x.residOk then s.checkDisagree
    else { s with tl := { s.tl with residHigh := true, untr := s.tl.ns } }.untrust
  else
    let s := s.checkDisagree
    if s.tlCfg.getLsbD 1 && r == s.tlCfg.getLsbD 0 && decide (60 ≤ x.cnt.toNat) && !s.disagrees then s.switchRef r else s

/-- The loop slews toward a reference (R201). -/
def State.slewTo (s : State) (r : Bool) : State :=
  let s := s.slew
  { s with tl := { s.tl with following := some r } }

/-- What a consistent edge of a reference, so many seconds after its last, does to the timeline. In UNTRUSTED a reference whose
phase error exceeds 1 ms is not followed, and none is once a step is needed (R201). -/
def State.goodEdge (s : State) (r : Bool) (gap : Nat) (offset : Int) : State :=
  let s := s.setTref r ((s.tref r).learn gap offset)
  let x := s.tref r
  let phi := s.phaseOf x
  let lock := x.qualified && decide (phi.natAbs ≤ 20) && x.residOk
  match s.tl.state with
  | .unset =>
    let c := s.firstRef
    let s := s.follow c
    if s.modes.mode == .startup && !s.tl.stepped && (s.tref c).qualified && (s.tref c).residOk then s.firstLock c else s
  | .locked => s.lockedEdge r
  | .holdover =>
    let s := if r = s.tl.sel then s.showPhase phi else s
    if !x.qualified || decide (1000000 < phi.natAbs) then s
    else if lock then s.slew.resumeLock r
    else s.slewTo r
  | .untrusted =>
    let s := if r = s.tl.sel then s.showPhase phi else s
    if s.tl.stepNeeded then s
    else if 1000000 < phi.natAbs then
      ({ s with tl := { s.tl with stepNeeded := true, inc := s.tl.learned, following := none } }.raise intTl 6).logEvent
        5 11 7 sevAudit (if r then 1 else 0) 0 phi.natAbs
    else if lock then s.slew.resumeLock r
    else (s.follow r).slewTo r

/-- An edge that is not consistent, or that is missing (R191, R198). The loop that follows its reference runs on the learned
frequency again. -/
def State.badEdge (s : State) (r : Bool) (err : BitVec 4) : State :=
  let s := s.setTref r { s.tref r with cnt := 0, lastErr := err, prevOk := false, windowOpen := false }
  if s.tl.state = .locked then (if r = s.tl.sel then s.refFails else s)
  else if s.tl.following = some r then { s with tl := { s.tl with inc := s.tl.learned, following := none } }
  else s

/-! ### Meanings -/

/-- A PPS edge: the counter is sampled and the message window opens (R190). -/
def execPpsEdge (ref : Bool) (interval : Nat) (freqOk : Bool) (s : State) : Out :=
  s.whilePowered fun s =>
    s.setTref ref { s.tref ref with
      edge := s.tl.ns, seen := true, windowOpen := true, interval := interval, freqOk := freqOk }

/-- What a good message has that is recorded and not used (Table 7.1). -/
def Tref.record (x : Tref) (m : Bytes) : Tref :=
  { x with taiUtc := fieldBE 16 12 2 m, accuracy := fieldBE 32 14 4 m, msgSeq := fieldBE 16 18 2 m }

/-- An edge is judged by the first run of octets after it (R189 to R191). A run of another length than 24 is a framing
error. -/
def State.judgeEdge (s : State) (ref : Bool) (run : Option Bytes) (onTime : Bool) (offset : Int) : State :=
  let x := s.tref ref
  let bad := match run with | some m => !todFramed m | none => false
  let x := { x with
    windowOpen := false, crcErr := if bad then satInc x.crcErr else x.crcErr,
    quality := if todGood run onTime then (octet 10 (run.getD [])).extractLsb 3 0 else x.quality }
  let x := if todGood run onTime then x.record (run.getD []) else x
  let s := s.setTref ref x
  match s.edgeFails x run onTime (x.cnt == 0) with
  | some k => s.badEdge ref k
  | none =>
    let m := run.getD []
    let s := s.setTref ref { x with
      cnt := satInc x.cnt, prevOk := true, prevSec := BitVec.ofNat 48 (todSec m), goodEdge := x.edge }
    s.goodEdge ref (todSec m - x.prevSec.toNat) offset

/-- A host read of TL_NOW_LO latches TL_NOW_HI (R193), as far as the baseline, the windows and the device rules let it through
(R37, R346). The read of a host that is not the manager's is not performed: the baseline refuses it (Table 12.3, R311). -/
def execTlNowLoRead (who : Accessor) (s : State) : Out :=
  s.whilePowered fun s =>
    let q := s.accessAttr who
    if q.origin != .host then s
    else match s.str.firstRefusal false q (who == .manager) permR (barCheck 0x0B0008) 4 with
      | none => { s with tl := { s.tl with nowHi := (s.tl.ns >>> 32).setWidth 32 } }
      | some r =>
        (s.captureRefusal false q permR r.1 r.2).hostFault 2 0x0B0008 (s.pasidOf who) false true none

end Sys2Proof.Machine
end

