-- ==== Sys2Proof/Machine/MarketOps.lean ====
section
/-! DEFINITION. Markets, their commands, tick trees and seals (R216 to R221, R232 to R240). -/

namespace Sys2Proof.Machine

/-! ### Ports and markets -/

/-- A stream port. -/
def State.port (s : State) (p : Nat) : Port := sparseGet Port.reset s.mkt.ports p

/-- Replace a stream port. -/
def State.setPort (s : State) (p : Nat) (x : Port) : State :=
  { s with mkt := { s.mkt with ports := sparseSet Port.reset s.mkt.ports p x } }

/-- A market holds a tree slot: SCHEDULED, OPEN or CLOSING (R217). -/
def Market.holdsSlot (m : Market) : Bool := m.tree.isSome

/-- The slice of a market, as a number of 6 bits. -/
def Market.slice6 (m : Market) : BitVec 6 := m.slice.setWidth 6

/-- STATE as a code (Table 8.4). -/
def MarketState.code : MarketState → Nat
  | .free => 0
  | .scheduled => 1
  | .open_ => 2
  | .closing => 3
  | .closed => 4

/-- The 64 octets of a market entry (Table 8.4). -/
def Market.bytes (m : Market) : Bytes :=
  let slot : Nat := match m.tree with | some t => t.number.toNat | none => 0
  le 8 m.id ++ le 8 m.openNs ++ le 8 m.closeNs ++ le 8 m.nextSeq ++ le 4 m.stampHandle ++ le 4 m.sealHandle ++
  le 4 m.seal2Handle ++ le 4 m.tickUs ++ le 2 m.portMask ++
  [m.slice, BitVec.ofNat 8 m.state.code, (if m.orphan then 1 else 0) ||| (if m.keyLost then 2 else 0),
   m.sealRing.setWidth 8] ++ leNat 2 slot ++ le 4 m.nextStamp ++ zeros 4

/-- Record a market's event (R243). -/
def State.logMarket (s : State) (code : Nat) (i a1 a2 : Nat) : State :=
  s.logSlice 2 13 code sevAudit (s.market i).slice i a1 a2

/-- Timeline ns in a number of microseconds. -/
def Market.tickNs (m : Market) : Nat := m.tickUs.toNat * 1000

/-- GENERATION of a handle, zero for none. -/
def State.genOf (s : State) (h : Word) : Word := if h = 0 then 0 else (s.entry (hIndex h)).generation

/-! ### Pins (R70, R217) -/

/-- Pin a stamp key in the partition of a slice. None: the pins are used up, or the key cannot be derived. -/
def State.pinStamp (s : State) (x : BitVec 6) (h : Word) : Option State :=
  let i := hIndex h
  if 768 < (s.partition x.toNat).pinnedWith i (s.entry i) then none
  else
    let k := s.keyNow (.slice x) h false
    match k.1 with
    | none => none
    | some _ => some (k.2.setPartition x.toNat ((k.2.partition x.toNat).setPin i true))

/-- Unpin a stamp key unless a market of the slice that holds a slot still uses it. -/
def State.unpinStamp (s : State) (x : BitVec 6) (h : Word) : State :=
  if h = 0 ∨ s.marketPins x (hIndex h) then s
  else s.setPartition x.toNat ((s.partition x.toNat).setPin (hIndex h) false)

/-- Clear a stamp key's pad-cache entries (R219, R240). -/
def State.clearPads (s : State) (h : Word) : State :=
  { s with mkt := { s.mkt with pads := sparseMap [] (fun _ l => l.filter fun k => k != h) s.mkt.pads } }

/-! ### Stamp uses (R229) -/

/-- Uses of a handle taken and not assigned. -/
def State.usesLeft (s : State) (h : Word) : Nat := sparseGet 0 s.mkt.uses h.toNat

/-- Set them. -/
def State.setUses (s : State) (h : Word) (n : Nat) : State :=
  { s with mkt := { s.mkt with uses := sparseSet 0 s.mkt.uses h.toNat n } }

/-- A market's key is lost at the counter's value (R221). -/
def State.loseKey (s : State) (i : Nat) : State :=
  let m := s.market i
  if m.keyLost then s
  else (((s.setMarket i { m with keyLost := true }).closeMarketAt i s.tl.ns).raise intMk 6).logMarket 9 i 0 s.tl.ns.toNat

/-- Take the next block of a market's stamp key: 65,536 uses, or those that remain below the limit. A take that fails
closes the market (R229). -/
def State.takeBlock (s : State) (i : Nat) : State :=
  let m := s.market i
  if s.stk.hold then s
  else match s.checkUse (.slice m.slice6) m.stampHandle opStamp with
    | .error v => (if v.status = St.keyExhausted then s.noteExhausted m.stampHandle else s).loseKey i
    | .ok e =>
      let n := match limitOf e.useLimit with
        | none => 65536
        | some l => min 65536 (l - e.useCount.toNat)
      let t := (s.takeUses (.slice m.slice6) m.stampHandle n).1
      t.setUses m.stampHandle (t.usesLeft m.stampHandle + n)

/-! ### Seal signatures and records (R236 to R238) -/

/-- The customisation of an ML-DSA seal: its context string. -/
def sealContext : Bytes := ascii "SH6496 SEAL"

/-- The job block of a seal signature: a hedged SIGN of the 144 B statement. -/
def sealBlock (pq : Bool) (h : Word) : Bytes :=
  [0x60, if pq then 0x49 else 0x20, 0, 0] ++ le 4 h ++ zeros 8 ++ leNat 8 144 ++ zeros 12 ++
  leNat 2 (if pq then 11 else 0) ++ [if pq then 11 else 0] ++ zeros 9

/-- Start a seal signature over a statement: a job of the device's, charged to the market's slice, that draws 32 octets
of NONCE and, for ECDSA, the blinding of both runs (R121). A pass over the statement comes first (R122). -/
def State.signSeal (s : State) (i : Nat) (seq : DWord) (pq : Bool) (statement : Bytes) : State :=
  let m := s.market i
  let u : Submission := {
    issuer := .s, charge := some m.slice6, origin := .device
    block := sealBlock pq (if pq then m.seal2Handle else m.sealHandle), source := [], host := [] }
  let id := s.eng.nextJob
  let s := s.addJob u
  match s.job id with
  | none => s
  | some j => (s.setJob { j with
      seal_ := some (BitVec.ofNat 17 i, seq, pq), payload := statement, aux := if pq then sealContext else []
      hashing := 1, cls := .pool, draws := .priv .nonce 32 :: if pq then [] else [.priv .blind 16] }).drawAll id 3

/-- Change one pending seal of a market. -/
def State.setPending (s : State) (i : Nat) (seq : DWord) (f : PendingSeal → PendingSeal) : State :=
  let m := s.market i
  s.setMarket i { m with pending := m.pending.map fun p => if p.sealSeq = seq then f p else p }

/-- A SEAL or SEAL_PQ record goes to the log port, and its buffer write and completion follow its acceptance (R238). -/
def State.sendSeal (s : State) (i : Nat) (pq : Bool) (seq : DWord) (payload : Bytes) : State :=
  let m := s.market i
  let o : SealOut := { slice := m.slice6, ring := m.sealRing, pq := pq, sealSeq := seq }
  ({ s with mkt := { s.mkt with outbox := s.mkt.outbox ++ [o] } }).pushLog 2 false
    { type := if pq then 0x0031 else 0x0030, severity := sevAudit, slice := m.slice, payload := payload }

/-- A market becomes CLOSED (R219): its slot is freed, its stamp keys unpinned, their pads cleared, and the SEAL_TICK
entry of its length goes with its last market. -/
def State.marketClosed (s : State) (i : Nat) : State :=
  let m := s.market i
  let s := s.setMarket i { m with state := .closed, tree := none, nextStamp := 0 }
  let s := ((s.unpinStamp m.slice6 m.stampHandle).unpinStamp m.slice6 m.nextStamp).clearPads m.stampHandle
  let s := if m.nextStamp = 0 then s else s.clearPads m.nextStamp
  let s :=
    if s.mkt.table.any fun e => e.2.holdsSlot && e.2.tickUs == m.tickUs then s
    else s.calRemove fun e => e.kind == kindSealTick && e.arg == m.tickUs
  (s.raise intMk 1).logMarket 6 i 0 s.tl.ns.toNat

/-- Issue a SEAL record (R238, R239). -/
def State.issueSeal (s : State) (i : Nat) (p : PendingSeal) : State :=
  let lat := s.tl.ns.toNat - p.ended.toNat
  let k := s.mkt
  let late := decide (50000 < lat)
  let s := { s with mkt := { k with
    issued := k.issued + 1, late := if late then k.late + 1 else k.late
    maxLat := if k.maxLat.toNat < lat then BitVec.ofNat 32 (min lat 0xFFFFFFFF) else k.maxLat } }
  let s := if late then s.raise intSeal 0 else s
  let s := s.sendSeal i false p.sealSeq (p.statement ++ p.signature)
  let s := s.setPending i p.sealSeq fun q => { q with issued := true, unpin := 0 }
  let s := if p.unpin = 0 then s else (s.unpinStamp (s.market i).slice6 p.unpin).clearPads p.unpin
  if p.final then (s.marketClosed i).raise intSeal 3 else s

/-- Issue the SEAL records of a market that are ready, in SEAL_SEQ order. None during log hold (R237). -/
def State.issueReady (s : State) (i : Nat) : Nat → State
  | 0 => s
  | n + 1 =>
    match (s.market i).pending.find? fun p => !p.issued with
    | none => s
    | some p => if p.ecdsa || s.stk.hold then s else (s.issueSeal i p).issueReady i n

/-- Issue what is ready, and free the pending places whose signatures have all come. -/
def State.issueSeals (s : State) (i : Nat) : State :=
  let s := s.issueReady i 2
  let m := s.market i
  s.setMarket i { m with pending := m.pending.filter fun p => !p.issued || p.pq }

/-- Issue the seals of every market that are ready, as when log hold ends. -/
def State.issueAll (s : State) : State := (s.mkt.table.map Prod.fst).foldl State.issueSeals s

/-! ### Tick trees (R232 to R235) -/

/-- The leaf hash of a stamp block. -/
def leafHash (block : Bytes) : Bytes := sha256 (0#8 :: block)

/-- The largest power of 2 below `n`, for n > 1. -/
def splitAt (n : Nat) : Nat := 2 ^ Nat.log2 (n - 1)

/-- The Merkle tree hash of leaf hashes (R232). `fuel` bounds the depth. -/
def merkle : Nat → List Bytes → Bytes
  | _, [] => sha256 []
  | _, [h] => h
  | 0, _ => []
  | fuel + 1, l =>
    let k := splitAt l.length
    sha256 (1#8 :: (merkle fuel (l.take k) ++ merkle fuel (l.drop k)))

/-- The 144 B seal statement (Table 8.8), its flags and its chain value apart. -/
structure Statement where
  index : Nat
  stampGen : Word
  id : DWord
  tickStart : DWord
  tickEnd : DWord
  firstSeq : DWord
  leafCount : Nat
  refused : Nat
  sealSeq : DWord
  sealGen : Word
  seal2Gen : Word
  root : Bytes
  deriving DecidableEq, Repr

/-- The octets of a statement. -/
def Statement.bytes (t : Statement) (flags : Byte) (prev : Bytes) : Bytes :=
  ascii "SHSL" ++ [1#8, flags, 0, 0] ++ beNat 4 t.index ++ be 4 t.stampGen ++ be 8 t.id ++ be 8 Config.deviceSerial ++
  be 8 t.tickStart ++ be 8 t.tickEnd ++ be 8 t.firstSeq ++ beNat 4 t.leafCount ++ beNat 4 t.refused ++
  be 8 t.sealSeq ++ be 4 t.sealGen ++ be 4 t.seal2Gen ++ t.root ++ prev

/-- A seal key of a market can no longer be used (R221): a check of Table 2.7 fails, or no use is left. -/
def State.sealKeyLost (s : State) (m : Market) : Bool :=
  let bad (h : Word) : Bool :=
    h != 0 && ((s.recheck (.slice m.slice6) h opSeal).isSome || limitReached (s.entry (hIndex h)))
  m.sealLost || bad m.sealHandle || bad m.seal2Handle

/-- The seal keys of a market that have no use left are reported, once each (Table 2.25). -/
def State.noteSealKeys (s : State) (m : Market) : State :=
  [m.sealHandle, m.seal2Handle].foldl
    (fun t h => if h != 0 && limitReached (t.entry (hIndex h)) && (t.recheck (.slice m.slice6) h opSeal).isNone
      then t.noteExhausted h else t) s

/-- A stamp key's USE_COUNT at which its sibling is prepared, and at which it rolls (R240). -/
def prepareAt : Nat := 2 ^ 40 - 2 ^ 33
def rollAt : Nat := 2 ^ 40

/-- The stamp key rolls to its prepared sibling at a tick end (R240): the old handle, or none. -/
def State.rollStamp (s : State) (i : Nat) (final : Bool) : State × Word :=
  let m := s.market i
  if final || m.nextStamp == 0 || decide ((s.entry (hIndex m.stampHandle)).useCount.toNat < rollAt) then (s, 0)
  else
    let t := s.setMarket i { m with stampHandle := m.nextStamp, stampGen := m.nextGen, nextStamp := 0, nextGen := 0 }
    ((t.raise intMk 2).logMarket 7 i 0 m.nextStamp.toNat, m.stampHandle)

/-- The last tick end of a tick length that has passed. -/
def lastEnd (tickNs now : Nat) : Nat := now / tickNs * tickNs

/-- The tick of a market ends at a timeline value (R219, R232 to R235, R240). With both pending places full it goes on. -/
def State.closeTick (s : State) (i : Nat) (tickEnd : DWord) : State :=
  let m := s.market i
  match m.tree with
  | none => s
  | some t =>
    let here := t.leaves.filter fun l => l.at_.toNat < tickEnd.toNat
    let rest := t.leaves.filter fun l => !decide (l.at_.toNat < tickEnd.toNat)
    let final := m.state == .closing && decide (m.closingAt.toNat + 10000 ≤ tickEnd.toNat)
    let start := t.extended.getD (tickEnd - BitVec.ofNat 64 m.tickNs)
    if m.finalClosed || (here.isEmpty && !final) then s
    else if 2 ≤ m.pending.length then
      let seen := max tickEnd.toNat (lastEnd m.tickNs s.tl.ns.toNat)
      (s.setMarket i { m with
        tree := some { t with extended := some start, ticked := BitVec.ofNat 64 seen } }).raise intSeal 1
    else
      let gen := m.stampGen
      let r := s.rollStamp i final
      let lost := s.sealKeyLost m
      let flags : Byte :=
        (if final then 1 else 0) ||| (if t.extended.isSome then 2 else 0) |||
        (if s.timeUntrusted || start.toNat < s.tl.untrustedTo.toNat then 4 else 0) |||
        (if s.holdover || start.toNat < s.tl.holdoverTo.toNat then 8 else 0) |||
        (if r.2 = 0 then 0 else 0x10) ||| (if m.orphan then 0x20 else 0) ||| (if lost then 0x40 else 0)
      let x : Statement := {
        index := i, stampGen := gen, id := m.id, tickStart := start, tickEnd := tickEnd
        firstSeq := m.nextSeq - BitVec.ofNat 64 t.leaves.length, leafCount := here.length
        refused := (here.filter Leaf.refused).length, sealSeq := t.sealSeq, sealGen := m.sealGen
        seal2Gen := m.seal2Gen, root := merkle 33 (here.map Leaf.hash) }
      let b := x.bytes flags t.prev
      let p : PendingSeal := {
        statement := b, sealSeq := t.sealSeq, final := final, ended := tickEnd
        ecdsa := !lost && m.sealHandle != 0, signature := [], pq := !lost && m.seal2Handle != 0, issued := false
        unpin := r.2 }
      let s := r.1
      let m := s.market i
      let s := s.setMarket i { m with
        finalClosed := final, pending := m.pending ++ [p]
        tree := some { t with
          leaves := rest, extended := none, sealSeq := t.sealSeq + 1, prev := sha256 b, ticked := tickEnd } }
      let s := if t.extended.isSome then { s with mkt := { s.mkt with extended := s.mkt.extended + 1 } } else s
      let s := if p.ecdsa then s.signSeal i p.sealSeq false b else s
      let s := if p.pq then s.signSeal i p.sealSeq true b else s
      (if lost then (s.noteSealKeys m).loseKey i else s).issueSeals i

/-- The first tick end of a tick length after a timeline value. -/
def endAfter (tickNs t : Nat) : Nat := (t / tickNs + 1) * tickNs

/-- The tick ends, later than the last that its slot has seen, at which a market has something to do: its leaves' tick ends,
its final tick ends (R219), it closes because its roll has failed (R240). -/
def Market.dueEnds (m : Market) : List Nat :=
  match m.tree with
  | none => []
  | some t =>
    let after (x : Nat) : Nat := endAfter m.tickNs (max x t.ticked.toNat)
    (match t.leaves with | l :: _ => [after l.at_.toNat] | [] => []) ++
    (if m.state == .closing && !m.finalClosed then [after (m.closingAt.toNat + 10000 - 1)] else []) ++
    (match m.rollFail with | some x => [endAfter m.tickNs x.toNat] | none => [])

/-- The earliest of some tick ends. -/
def earliest : List Nat → Option Nat
  | [] => none
  | e :: es => some (es.foldl min e)

/-- A market meets a tick end: its tick closes, and after a failed roll it closes itself (R240). -/
def State.meetEnd (s : State) (i : Nat) (e : Nat) : State :=
  let s := s.closeTick i (BitVec.ofNat 64 e)
  let m := s.market i
  match m.rollFail with
  | some x =>
    if endAfter m.tickNs x.toNat ≤ e then
      (s.setMarket i { m with rollFail := none }).closeMarketAt i (BitVec.ofNat 64 e)
    else s
  | none => s

/-- A market meets the tick ends that have passed. A tick closes at its end (R234), so whatever depends on the tick meets
them first. -/
def State.meetEnds (s : State) (i : Nat) : Nat → State
  | 0 => s
  | n + 1 =>
    match earliest (s.market i).dueEnds with
    | none => s
    | some e => if e ≤ s.tl.ns.toNat then (s.meetEnd i e).meetEnds i n else s

/-- The tick ends that a market can have to meet at once: its leaves', its final tick's, that of a failed roll. -/
abbrev maxEnds : Nat := 4

/-- A tick end of a tick length (R203): the ticks of its markets close in ascending index. -/
def State.sealTick (s : State) (tickUs : Word) : State :=
  ((s.mkt.table.filter fun e => e.2.holdsSlot && e.2.tickUs == tickUs).map Prod.fst).foldl
    (fun t i => t.meetEnds i maxEnds) s

/-- Every market meets the tick ends that have passed, as the allocator finds them at a decision instant. -/
def State.meetTicks (s : State) : State :=
  ((s.mkt.table.filter fun e => e.2.holdsSlot).map Prod.fst).foldl (fun t i => t.meetEnds i maxEnds) s

/-- A seal signature has ended (R236): it is taken, made again after a failure of its engines, or left out when its key
has become unusable, by which the market loses its key (R221). -/
def State.sealSigned (s : State) (d : SignedSeal) : State :=
  let i := d.market.toNat
  match (s.market i).pending.find? fun p => p.sealSeq == d.sealSeq with
  | none => s
  | some p =>
    if d.verdict.status = St.ok then
      if d.pq then
        let s := s.sendSeal i true p.sealSeq
          (beNat 4 i ++ zeros 4 ++ be 8 p.sealSeq ++ sha256 p.statement ++ fit 3309 d.signature ++ zeros 3)
        ((s.setPending i p.sealSeq fun q => { q with pq := false }).raise intSeal 2).issueSeals i
      else (s.setPending i p.sealSeq fun q => { q with ecdsa := false, signature := d.signature }).issueSeals i
    else if 0x0201 ≤ d.verdict.status ∧ d.verdict.status ≤ 0x0205 then
      let s := s.loseKey i
      ((s.setMarket i { s.market i with sealLost := true }).setPending i p.sealSeq fun q =>
        if d.pq then { q with pq := false } else { q with ecdsa := false }).issueSeals i
    else s.signSeal i p.sealSeq d.pq p.statement

/-! ### Lifecycle (R219) -/

/-- MARKET_OPEN is dispatched. -/
def State.openMarket (s : State) (i : Nat) : State :=
  let m := s.market i
  if m.state = .scheduled then (s.setMarket i { m with state := .open_ }).logMarket 4 i 0 s.tl.ns.toNat else s

/-- MARKET_CLOSE is dispatched: a MARKET_OPEN that has not fired is cancelled. -/
def State.beginClosing (s : State) (i : Nat) : State :=
  let m := s.market i
  if m.state == .scheduled || m.state == .open_ then
    let s := s.calRemove fun e => e.names kindMarketOpen i
    (s.setMarket i { m with state := .closing, closingAt := s.tl.ns }).logMarket 5 i 0 s.tl.ns.toNat
  else s

/-! ### Market commands (R218, Table 8.5) -/

/-- The register copies that an accessor's command block uses: each N context has its own (R208, R244). -/
def Accessor.copy : Accessor → Nat
  | .n c => (c.toNat + 1) * 0x1000000
  | _ => 0

/-- The registers of the MK_ command block. -/
abbrev mkSts : Nat := 0x0D0008
abbrev mkIdx : Nat := 0x0D000C
abbrev mkEntry : Nat := 0x0D0010

/-- The outcome of a market command (Table 8.14): CMD_DONE is set. -/
def State.mkDone (s : State) (copy : Nat) (v : Verdict) : State :=
  (s.setReg (copy + mkSts) (v.status.setWidth 32 ||| (v.detail.setWidth 32 <<< 16) ||| 0x80000000#32)).raise intMk 0

/-- The market that 64 octets describe, as ADD takes it. -/
def Market.ofBytes (b : Bytes) (slice_ : Byte) : Market :=
  { Market.empty with
    id := fieldLE 64 0 8 b, openNs := fieldLE 64 8 8 b, closeNs := fieldLE 64 0x10 8 b, nextSeq := fieldLE 64 0x18 8 b
    stampHandle := fieldLE 32 0x20 4 b, sealHandle := fieldLE 32 0x24 4 b, seal2Handle := fieldLE 32 0x28 4 b
    tickUs := fieldLE 32 0x2C 4 b, portMask := fieldLE 16 0x30 2 b, slice := slice_, state := .scheduled
    orphan := (octet 0x34 b).getLsbD 0, sealRing := (octet 0x35 b).setWidth 4 }

/-- Reserved bits of an entry, which ADD requires to be zero. -/
def entryReserved (b : Bytes) : Bool :=
  octet 0x33 b &&& 0xF8 != 0 || octet 0x34 b &&& 0xFC != 0 || octet 0x35 b &&& 0xF0 != 0 || !zeroRange 0x3C 0x40 b

/-- SLICE is in a handle's SLICE_MASK. -/
def inMask (e : Handle) (slice_ : Byte) : Bool := e.sliceMask.getLsbD slice_.toNat

/-- ADD's check of the stamp key (Table 8.5). -/
def State.stampKeyCheck (s : State) (i : Issuer) (m : Market) : Option Verdict :=
  match s.checkHandle i m.stampHandle false with
  | .error v => some (if v.status = St.handleInvalid then v else verdict St.attrDenied 0x7B)
  | .ok e =>
    let enough : Bool := match limitOf e.useLimit with | none => true | some l => decide (2 ^ 41 ≤ l)
    let parent := s.entry (hIndex e.parent)
    let node := !e.rootParent && parent.valid && parent.tag == hTag e.parent && !parent.quorum
    if (opCheck e opStamp).isSome || e.quorum || !node || !enough || !inMask e m.slice then
      some (verdict St.attrDenied 0x7B)
    else none

/-- ADD's check of one seal key. -/
def State.sealKeyOk (s : State) (i : Issuer) (m : Market) (h : Word) (type : Byte) : Bool :=
  match s.checkHandle i h false with
  | .error _ => false
  | .ok e => (opCheck e opSeal).isNone && e.type == type && inMask e m.slice

/-- Tree slots held (MK_STS.SLOTS). -/
def State.slotsHeld (s : State) : Nat := (s.mkt.table.filter fun e => e.2.holdsSlot).length

/-- The lowest free tree slot. -/
def State.freeSlot (s : State) : Nat :=
  let used := s.mkt.table.filterMap fun e => e.2.tree.map fun t => t.number.toNat
  ((List.range 8192).find? fun n => !used.contains n).getD 0

/-- A SEAL_TICK entry of a tick length is in the calendar. -/
def State.hasTick (s : State) (tickUs : Word) : Bool :=
  s.cal.entries.any fun e => e.2.kind == kindSealTick && e.2.arg == tickUs

/-- Places of the calendar that a SLICE 0xFF entry may still take (R202). -/
def State.deviceRoom (s : State) : Nat := 16384 - s.calUsed 0xFF

/-- ADD at T_apply. -/
def State.landAdd (s : State) (c : MkCommand) (t : DWord) : State × Verdict :=
  let i := c.index.toNat
  let sl : Byte := match c.issuer with | .n x => x.setWidth 8 | .slice x => x.setWidth 8 | _ => octet 0x32 c.entry
  let m := Market.ofBytes c.entry sl
  if (s.market i).state ≠ .free then (s, verdict St.attrDenied 0x7D)
  else if m.closeNs.toNat ≤ m.openNs.toNat || m.closeNs.toNat ≤ t.toNat || m.tickUs.toNat < 250 ||
      1000000 < m.tickUs.toNat || m.nextSeq == BitVec.allOnes 64 || m.portMask == 0 || entryReserved c.entry then
    (s, verdict St.malformed 0x7E)
  else match s.stampKeyCheck c.issuer m with
    | some v => (s, v)
    | none =>
      let one := m.sealHandle != 0 && s.sealKeyOk c.issuer m m.sealHandle 0x20
      let two := m.seal2Handle != 0 && s.sealKeyOk c.issuer m m.seal2Handle 0x49
      if !(one || m.sealHandle == 0) || !(two || m.seal2Handle == 0) || !(one || two) then
        (s, verdict St.attrDenied 0x7C)
      else if 8192 ≤ s.slotsHeld then (s, verdict St.attrDenied 0x7A)
      else match s.pinStamp m.slice6 m.stampHandle with
        | none => (s, verdict St.attrDenied 0x17)
        | some p =>
          let closes := decide (ceilUs m.closeNs.toNat < 2 ^ 54)
          let need := 1 + (if closes then 1 else 0) + (if s.hasTick m.tickUs then 0 else 1)
          if s.deviceRoom < need then ((s.raise intCal 0), verdict St.attrDenied 0x61)
          else
            let tree : TreeSlot := {
              number := BitVec.ofNat 13 s.freeSlot, leaves := [], extended := none, sealSeq := 0, prev := zeros 32,
              ticked := t }
            let s := p.setMarket i { m with
              tree := some tree, stampGen := s.genOf m.stampHandle, sealGen := s.genOf m.sealHandle
              seal2Gen := s.genOf m.seal2Handle }
            let s := s.calPlace true (deviceEntry kindMarketOpen (ceilUs m.openNs.toNat) (BitVec.ofNat 32 i) 0)
            let s := s.moveClose true i
            let s :=
              if s.hasTick m.tickUs then s
              else s.calPlace true
                (deviceEntry kindSealTick ((t.toNat / m.tickNs + 1) * m.tickUs.toNat) m.tickUs m.tickUs.toNat)
            (s, Verdict.ok)

/-- SETCLOSE at T_apply. -/
def State.landSetClose (s : State) (c : MkCommand) (t : DWord) : State × Verdict :=
  let i := c.index.toNat
  let m := s.market i
  let new : DWord := fieldLE 64 0x10 8 c.entry
  if !(m.state == .scheduled || m.state == .open_) then (s, verdict St.attrDenied 0x7D)
  else if m.closeNs.toNat < new.toNat && m.closeNs.toNat ≤ t.toNat then (s, verdict St.attrDenied 0x7D)
  else if new.toNat ≤ m.openNs.toNat then (s, verdict St.malformed 0x7E)
  else
    let close := if new.toNat < t.toNat then t else new
    let has := s.cal.entries.any fun e => e.2.names kindMarketClose i
    if !has && decide (ceilUs close.toNat < 2 ^ 54) && s.deviceRoom == 0 then (s, verdict St.attrDenied 0x61)
    else ((s.setMarket i { m with closeNs := close }).moveClose true i, Verdict.ok)

/-- REMOVE at T_apply. -/
def State.landRemove (s : State) (c : MkCommand) : State × Verdict :=
  let i := c.index.toNat
  let m := s.market i
  if m.state = .closed ∧ m.pending.isEmpty then (s.setMarket i Market.empty, Verdict.ok)
  else (s, verdict St.attrDenied 0x7D)

/-- The accepted market command lands at a frame boundary (R218, R457): it is recorded with its outcome. -/
def State.landMarket (s : State) (c : MkCommand) : State :=
  let t := s.tl.ns
  let before : Market := s.market c.index.toNat
  let r :=
    if c.op = 1 then s.landAdd c t else if c.op = 2 then s.landSetClose c t else s.landRemove c
  let s := { r.1 with mkt := { r.1.mkt with apply := t } }
  let s := s.mkDone (match c.ctx with | some x => (Accessor.n x).copy | none => 0) r.2
  let after : Market := s.market c.index.toNat
  let sl := if after.state != .free then after.slice else if before.state != .free then before.slice else devSlice
  s.logSlice 2 13 c.op.toNat sevAudit sl c.index.toNat r.2.arg t.toNat

/-- The market commands that wait land. While the key-path gate is CLOSED an ADD, which loads a stamp key, waits on (R395). -/
def State.landMarkets (s : State) : State :=
  let waits (c : MkCommand) : Bool := s.tamper.gateClosed && c.op == 1
  let cs := s.mkt.commands
  (cs.filter fun c => !waits c).foldl State.landMarket { s with mkt := { s.mkt with commands := cs.filter waits } }

end Sys2Proof.Machine
end

