-- ==== Sys2Proof/Machine/StampOps.lean ====
section
/-! DEFINITION. The stamp pipeline: frames, the refusal order, sequence numbers, the placement and comparison of the two
MACs, receipts, port failover (R175 to R178, R209 to R215, R222 to R231, R241). -/

namespace Sys2Proof.Machine

/-! ### Frames (R210 to R215) -/

/-- One octet into the frame check sequence of IEEE 802.3, reflected (PRESUMED: the standard's CRC-32). -/
def crc32Byte (crc : Word) (b : Byte) : Word :=
  (List.range 8).foldl
    (fun c _ => if c.getLsbD 0 then (c >>> 1) ^^^ 0xEDB88320#32 else c >>> 1)
    (crc ^^^ b.setWidth 32)

/-- The frame check sequence of a frame's octets. -/
def fcs (bs : Bytes) : Word := (bs.foldl crc32Byte 0xFFFFFFFF#32) ^^^ 0xFFFFFFFF#32

/-- The frame ends with its frame check sequence. -/
def fcsOk (f : Bytes) : Bool :=
  decide (18 ≤ f.length) && fieldLE 32 (f.length - 4) 4 f == fcs (f.take (f.length - 4))

/-- The 802.1Q tag of a frame, if it has one. -/
def vlanOf (f : Bytes) : Option Half := if fieldBE 16 12 2 f = 0x8100 then some (fieldBE 16 14 2 f) else none

/-- Offset of the EtherType. -/
def etherAt (f : Bytes) : Nat := if (vlanOf f).isSome then 16 else 12

/-- R210: the MAC of a port accepts a frame, from its destination address to its frame check sequence. -/
def Port.accepts (x : Port) (f : Bytes) : Bool :=
  x.enable && !x.failed && fcsOk f && fieldBE 48 0 6 f == x.mac && fieldBE 16 (etherAt f) 2 f == 0x88B5 &&
  decide (etherAt f + 6 ≤ f.length) && decide (f.length ≤ 1522)

/-- The payload between the EtherType and the frame check sequence. -/
def payloadOf (f : Bytes) : Bytes := slice (etherAt f + 2) (f.length - etherAt f - 6) f

/-- Nanoseconds that `n` octets take at 25 Gb/s. -/
def wireNs (n : Nat) : Nat := n * 8 / 25

/-- The bound at a counter value under a condition (R194, R199): 20 ns while LOCKED, 20 + ⌈r × (t − T_h) ÷ 10^9⌉ in
HOLDOVER. -/
def TlSpan.bound (x : TlSpan) (t : DWord) : Nat :=
  match x.state with
  | .locked => 20
  | .holdover => 20 + (x.resid.toNat * (t.toNat - x.hold.toNat) + 999999999) / 1000000000
  | _ => 0

/-- A condition is untrusted for an arrival value (R223). -/
def TlSpan.untrustedFor (x : TlSpan) (a : DWord) : Bool :=
  x.state == .unset || x.state == .untrusted || (x.state == .holdover && decide (x.untr.toNat ≤ a.toNat))

/-- The timeline's condition at an arrival value. -/
def State.spanFor (s : State) (a : DWord) : TlSpan := tlSpanAt s.tl.span a s.tl.past

/-- The bound now (TL_ERRB). -/
def State.boundAt (s : State) (t : DWord) : Nat := s.tl.span.bound t

/-- Receipts of a port that are queued or still being computed (R211). -/
def State.receiptsHeld (s : State) (p : Nat) : Nat :=
  (s.port p).receipts.length + (s.mkt.stamps.filter fun x => x.port.toNat == p).length

/-- A payload that breaks R212. -/
def badWager (b : Bytes) : Bool :=
  b.length != 64 || octet 0 b != 1 || octet 1 b != 1 || !zeroRange 2 4 b || decide (0x20000 ≤ ofBE (slice 4 4 b))

/-- What a stamp block says of the decision (Table 8.2). -/
structure Decision where
  verdict : Verdict
  port : Nat
  sflags : Byte
  index : Word
  id : DWord
  gen : Word
  seq : DWord
  deriving DecidableEq, Repr

/-- The 96 octets of a stamp block (Table 8.2). Fields that a short payload does not have are zero (R215). -/
def stampBlock (d : Decision) (f : WagerFrame) : Bytes :=
  be 2 d.verdict.status ++ [BitVec.ofNat 8 d.port, d.sflags] ++ be 4 d.index ++ be 8 d.id ++ be 4 d.gen ++
  (if f.untrusted then zeros 4 else be 4 f.bound) ++ be 8 d.seq ++ be 8 f.arrival ++ slice 0x10 8 f.payload ++
  slice 4 4 f.payload ++ [d.verdict.detail, 0, 0, 0] ++ slice 0x18 8 f.payload ++ slice 0x20 32 f.payload

/-- The 132 octets of a receipt (Table 8.3). -/
def receiptBytes (rflags : Byte) (block mac : Bytes) : Bytes := [1#8, 2#8, rflags, 0#8] ++ block ++ mac

/-- The frame of a receipt, from its destination address to its frame check sequence (R211, R214). -/
def Receipt.frame (r : Receipt) : Bytes :=
  let f := be 6 r.dst ++ be 6 r.src ++ (match r.vlan with | some v => be 2 (0x8100 : Half) ++ be 2 v | none => []) ++
    be 2 (0x88B5 : Half) ++ r.payload
  f ++ le 4 (fcs f)

/-- Sent on another port than PORT: RFLAGS.REDIRECTED is set, and the source address is that port's. -/
def Receipt.redirect (r : Receipt) (mac : BitVec 48) : Receipt :=
  { r with src := mac, payload := r.payload.take 2 ++ [octet 2 r.payload ||| 4] ++ r.payload.drop 3 }

/-- The partner of a port (R241). -/
def partner (p : Nat) : Nat := if p % 2 = 0 then p + 1 else p - 1

/-- Queue a receipt on its port, or redirected on the partner of a port that has failed over (R211, R241). -/
def State.queueReceipt (s : State) (p : Nat) (r : Receipt) : State :=
  if (s.port p).failed then
    let x := s.port (partner p)
    s.setPort (partner p) { x with receipts := x.receipts ++ [r.redirect x.mac] }
  else
    let x := s.port p
    s.setPort p { x with receipts := x.receipts ++ [r] }

/-- The receipt of a port: its source address is MK_PORT_MAC. -/
def State.receiptFrom (s : State) (p : Nat) (dst : BitVec 48) (vlan : Option Half) (payload : Bytes) (lastBit : DWord) :
    Receipt :=
  { dst := dst, src := (s.port p).mac, vlan := vlan, payload := payload, lastBit := lastBit }

/-- A receipt without a MAC: counted in MK_PORT_UNMAC. -/
def State.sendUnmaced (s : State) (p : Nat) (dst : BitVec 48) (vlan : Option Half) (block : Bytes) (noLeaf : Bool)
    (lastBit : DWord) : State :=
  let x := s.port p
  let s := s.setPort p { x with unmac := x.unmac + 1, hold := if noLeaf then x.hold + 1 else x.hold }
  s.queueReceipt p (s.receiptFrom p dst vlan (receiptBytes (if noLeaf then 3 else 1) block (zeros 32)) lastBit)

/-! ### Placement (R175 to R178) -/

/-- The unit that lane `l` is: the engine itself, or the pool engine that stands for it once its pool segment has ended
(R184). -/
def State.laneUnit (s : State) (l : Nat) : Option EngPlace :=
  if (s.engine .lane l).health = .online then some (.lane (BitVec.ofNat 5 l))
  else match s.substitute l with
    | some n => if (s.engine .pool n).running.isNone then some (.sub (BitVec.ofNat 8 n)) else none
    | none => none

/-- Class and number of the engine of a place. -/
def EngPlace.engine : EngPlace → EngClass × Nat
  | .lane e => (.lane, e.toNat)
  | .sub e => (.pool, e.toNat)
  | .idle e => (.pool, e.toNat)
  | .inserted e => (.pool, e.toNat)

/-- A lane queue has a free place: two computations may wait behind the one that runs. -/
def State.laneRoom (s : State) (x : EngPlace) : Bool :=
  decide ((s.engine x.engine.1 x.engine.2).lane.length < 3)

/-- Both lanes of a port can take a computation (R175). -/
def State.lanesFor (s : State) (p : Nat) : Option (EngPlace × EngPlace) :=
  match s.laneUnit (2 * p), s.laneUnit (2 * p + 1) with
  | some a, some b => if s.laneRoom a && s.laneRoom b then some (a, b) else none
  | _, _ => none

/-- ECLK cycles of a call of the segment that a pool engine runs (Table 3.1). -/
def State.segmentCall (s : State) (g : Segment) : Nat :=
  match s.job g.job with | some j => callCycles (s.poolAlg j) | none => 36

/-- Cycles until the current call of a pool engine's segment ends, if the engine is in service and the segment can take an
insertion (R176, R178, R182). -/
def State.callEnd (s : State) (n : Nat) : Option Nat :=
  match (s.engine .pool n).running with
  | none => none
  | some g =>
    if g.inserted || g.companion || (s.engine .pool n).health != .online || !(s.engine .pool n).lane.isEmpty then none
    else
      let c := s.segmentCall g
      some (c - (s.now - g.began - g.off) % c)

/-- The engine outside a list whose current call ends first, the lowest number first (R176). -/
def State.insertPool (s : State) (ex : List Nat) : Option Nat :=
  ((List.range 160).foldl (fun (m : Option (Nat × Nat)) n =>
    if ex.contains n then m
    else match s.callEnd n, m with
      | none, _ => m
      | some c, none => some (c, n)
      | some c, some x => if c < x.1 then some (c, n) else m) none).map Prod.snd

/-- Cycles of a stamp computation, and of the load of an urgent key. DESIGN CHOICE: the spec bounds the load by 24; it takes
them all (assumption 88). -/
abbrev stampCycles : Nat := 108
abbrev urgentLoad : Nat := 24

/-- A segment under an insertion: it is held up from the end of its call, or of the key load if that is later (R176). -/
def Segment.insert (g : Segment) (callEnd : Nat) : Segment :=
  { g with inserted := true, off := g.off + (urgentLoad - callEnd) + stampCycles }

/-- Place one urgent computation on the pool, charged to a slice (R176). -/
def State.placeUrgent (s : State) (x : BitVec 6) (key : Bytes) (stamp : Nat) (ex : List Nat) :
    Option (EngPlace × State) :=
  match s.freeCompanion ex with
  | some n =>
    let e := s.engine .pool n
    let a := s.account .pool x.toNat
    let s := s.setEngine .pool n { e with lane := [stamp], urgentKey := keyReg 512 key }
    let s := s.setAccount .pool x.toNat { a with borrowed := a.borrowed + stampCycles }
    some (.idle (BitVec.ofNat 8 n), { s with whisk := { s.whisk with urgIdle := s.whisk.urgIdle + 1 } })
  | none =>
    let a := s.account .pool x.toNat
    if a.balance.toNat < stampCycles then none
    else match s.insertPool ex with
      | none => none
      | some n =>
        let e := s.engine .pool n
        let run := e.running.map fun g => g.insert ((s.callEnd n).getD 0)
        let s := s.setEngine .pool n { e with running := run, urgentKey := keyReg 512 key }
        let s := s.setAccount .pool x.toNat { a with balance := a.balance - stampCycles, owned := a.owned + stampCycles }
        some (.inserted (BitVec.ofNat 8 n), { s with whisk := { s.whisk with urgIns := s.whisk.urgIns + 1 } })

/-- Place both computations of a stamp on the pool, or neither (R176, R177). -/
def State.placePool (s : State) (x : BitVec 6) (key : Bytes) (stamp : Nat) (ex : List Nat) :
    Option (EngPlace × EngPlace × State) :=
  match s.placeUrgent x key stamp ex with
  | none => none
  | some (a, t) =>
    match t.placeUrgent x key stamp (a.engine.2 :: ex) with
    | none => none
    | some (b, u) => some (a, b, u)

/-- Use a pad cache of a lane engine for a stamp key (R228): least recently used of 16. -/
def State.touchPad (s : State) (l : Nat) (h : Word) : State :=
  let c := sparseGet [] s.mkt.pads l
  let c := (h :: c.filter fun k => k != h).take 16
  { s with mkt := { s.mkt with pads := sparseSet [] s.mkt.pads l c } }

/-- Both lanes of a port hold a stamp key's pads, so that the key path loads nothing (R228). -/
def State.padsHit (s : State) (p : Nat) (h : Word) : Bool :=
  let has (l : Nat) : Bool := (sparseGet [] s.mkt.pads l).contains h
  match s.lanesFor p with
  | some (.lane a, .lane b) => has a.toNat && has b.toNat
  | _ => false

/-- Put a computation in a lane's queue. -/
def State.enterLane (s : State) (x : EngPlace) (stamp : Nat) (h : Word) : State :=
  let n := x.engine
  let e := s.engine n.1 n.2
  let miss := match x with | .lane l => !(sparseGet [] s.mkt.pads l.toNat).contains h | _ => true
  let s := s.setEngine n.1 n.2 { e with lane := e.lane ++ [stamp], calls := if miss then e.calls + 2 else e.calls }
  match x with
  | .lane l => s.touchPad l.toNat h
  | _ => s

/-- Place both computations of a stamp (R175, R176). -/
def State.placeStamp (s : State) (p : Nat) (x : BitVec 6) (h : Word) (key : Bytes) (stamp : Nat) :
    Option (EngPlace × EngPlace × State) :=
  match s.lanesFor p with
  | some (a, b) => some (a, b, (s.enterLane a stamp h).enterLane b stamp h)
  | none => s.placePool x key stamp []

/-- A computation leaves its engine after so many calls, the urgent context cleared. -/
def State.leaveEngine (s : State) (x : EngPlace) (stamp : Nat) (calls : DWord) : State :=
  let n := x.engine
  let e := s.engine n.1 n.2
  s.setEngine n.1 n.2 { e with
    lane := e.lane.filter fun k => k != stamp, urgentKey := 0, calls := e.calls + calls }

/-- Calls of a stamp computation once the pads stand. -/
abbrev stampCalls : DWord := 3

/-! ### Leaves (R226 to R229) -/

/-- A market's next leaf would need the value that is never assigned (R227). -/
def Market.exhausted (m : Market) : Bool := m.nextSeq == BitVec.allOnes 64

/-- A market is found exhausted (R227): a market other than an orphan one closes. -/
def State.sequenceEnd (s : State) (i : Nat) : State :=
  let s := if (s.market i).orphan then s else s.closeMarketAt i s.tl.ns
  (s.raise intMk 4).logMarket 10 i 0 s.tl.ns.toNat

/-- The stamp uses of a market's key, taken first if none is left (R229). -/
def State.ensureUses (s : State) (i : Nat) : State :=
  if s.usesLeft (s.market i).stampHandle = 0 then s.takeBlock i else s

/-- The stamp key of a market can make a MAC: its checks hold, and a use is left. A seal key's loss does not touch it. -/
def State.canStamp (s : State) (m : Market) : Bool :=
  (s.recheck (.slice m.slice6) m.stampHandle opStamp).isNone && decide (0 < s.usesLeft m.stampHandle)

/-- Make a leaf of a market: sequence number, use, leaf hash (R226, R229, R232); then place the two computations, or send
the receipt UNMACED, as R221 has it for a refusal of a market whose key is lost. `busy` is row 12: an acceptance whose
computations cannot be placed. -/
def State.makeLeaf (s : State) (p i : Nat) (v : Verdict) (sflags : Byte) (f : WagerFrame) (lastBit : DWord)
    (maced : Bool) : State :=
  let m := s.market i
  let k := if maced && s.canStamp m then s.keyNow (.slice m.slice6) m.stampHandle false else (none, s)
  let k := (k.1, if s.padsHit p m.stampHandle then s else k.2)
  let number := k.2.mkt.nextStamp
  let placed := k.1.bind fun key => (k.2.placeStamp p m.slice6 m.stampHandle key number).map fun r => (key, r)
  let busy := v.status == St.ok && placed.isNone
  let v := if busy then verdict St.refusedBusy 0x79 else v
  let d : Decision := {
    verdict := v, port := p, sflags := sflags, index := BitVec.ofNat 32 i, id := m.id, gen := m.stampGen
    seq := m.nextSeq }
  let block := stampBlock d f
  let s := match placed with | some r => r.2.2.2 | none => k.2
  let leaf : Leaf := { at_ := s.tl.ns, hash := leafHash block, refused := v.status != St.ok }
  let s := s.setMarket i { m with
    nextSeq := m.nextSeq + 1, tree := m.tree.map fun t => { t with leaves := t.leaves ++ [leaf] } }
  let s := s.setUses m.stampHandle (s.usesLeft m.stampHandle - 1)
  let x := s.port p
  let s := s.setPort p (if v.status = St.ok then { x with acc := x.acc + 1 } else { x with ref := x.ref + 1 })
  let s :=
    if busy then
      let b := sparseGet (0 : Word) s.whisk.busy m.slice6.toNat
      { s with whisk := { s.whisk with
        urgBusy := s.whisk.urgBusy + 1, busy := sparseSet (0 : Word) s.whisk.busy m.slice6.toNat (b + 1) } }
    else s
  match placed with
  | none => s.sendUnmaced p f.src f.vlan block false lastBit
  | some (key, a, b, _) =>
    let stamp : Stamp := {
      number := number, port := BitVec.ofNat 4 p, dst := f.src, vlan := f.vlan, block := block
      market := BitVec.ofNat 17 i, handle := m.stampHandle, mac := hmacSha256 key block, engA := a
      engB := b, rerun := false, lastBit := lastBit }
    { s with mkt := { s.mkt with stamps := s.mkt.stamps ++ [stamp], nextStamp := number + 1 } }

/-- A receipt with no leaf (R224): SEQ all ones, STAMP_GEN zero, UNMACED and NO_LEAF. -/
def State.noLeaf (s : State) (p : Nat) (v : Verdict) (sflags : Byte) (index : Word) (id : DWord) (f : WagerFrame) :
    State :=
  let d : Decision := {
    verdict := v, port := p, sflags := sflags, index := index, id := id, gen := 0, seq := BitVec.allOnes 64 }
  s.sendUnmaced p f.src f.vlan (stampBlock d f) true f.lastBit

/-- A refusal that goes into the port's orphan market, or has no leaf when that market cannot take one (R220, R224). -/
def State.orphanLeaf (s : State) (p : Nat) (v : Verdict) (sflags : Byte) (index : Word) (id : DWord)
    (f : WagerFrame) : State :=
  let i := (s.port p).orphan.toNat
  let o := s.market i
  if !o.orphan || o.tree.isNone || o.finalClosed then s.noLeaf p v sflags index id f
  else if o.exhausted then (s.sequenceEnd i).noLeaf p v sflags index id f
  else
    let s := (s.noteKeys).ensureUses i
    s.makeLeaf p i v (sflags ||| 4) f f.lastBit true

/-! ### The decision (R222 to R225) -/

/-- Closed and not yet open (R225), in signed arithmetic. -/
def Market.closedFor (m : Market) (f : WagerFrame) : Bool :=
  decide (m.closeNs.toNat ≤ f.arrival.toNat + f.bound.toNat)
def Market.notOpenFor (m : Market) (f : WagerFrame) : Bool :=
  decide ((f.arrival.toNat : Int) - (f.bound.toNat : Int) < (m.openNs.toNat : Int))

/-- A port admits a market's wagers (R241): by its own bit, or by its partner's while it carries its partner's markets. -/
def State.portAdmits (s : State) (p : Nat) (m : Market) : Bool :=
  m.portMask.getLsbD p || ((s.port p).steered && m.portMask.getLsbD (partner p))

/-- Rows 8 to 10 of Table 8.6. -/
def rowsTo10 (m : Market) (f : WagerFrame) : Option Verdict :=
  if f.untrusted then some (verdict St.refusedTime 0)
  else if m.keyLost then some (verdict St.refusedClosed 0x7F)
  else if m.closedFor f then some (verdict St.refusedClosed 0x76)
  else if m.notOpenFor f then some (verdict St.refusedNotOpen 0x74)
  else none

/-- Rows 1 and 2 of Table 8.6: the device is not in Service, or an H alarm refuses wagers (R395); log hold. -/
def State.rowsTo2 (s : State) : Option Verdict :=
  if s.modes.mode ≠ .service ∨ s.tamper.responding.isSome then some (verdict St.refusedNotOpen 0x75)
  else if s.stk.hold then some (verdict St.refusedLogHold 0)
  else none

/-- Rows 4 to 7 of Table 8.6. -/
def State.rowsTo7 (s : State) (p : Nat) (m : Market) (id : DWord) : Option Verdict :=
  if m.state = .free ∨ m.orphan then some (verdict St.refusedNotOpen 0x71)
  else if m.id ≠ id then some (verdict St.refusedNotOpen 0x72)
  else if !s.portAdmits p m then some (verdict St.refusedNotOpen 0x73)
  else if m.state = .closed ∨ m.finalClosed then some (verdict St.refusedClosed 0x77)
  else none

/-- The decision on a wager by the first row of Table 8.6 that holds, at D, the counter's value. The ticks that have ended
by D are closed. -/
def State.decideWager (s : State) (p : Nat) (f : WagerFrame) : State :=
  let s := s.meetTicks
  let sflags : Byte := (if f.holdover then 1 else 0) ||| (if f.untrusted then 2 else 0)
  let index : Word := fieldBE 32 4 4 f.payload
  let id : DWord := fieldBE 64 8 8 f.payload
  match s.rowsTo2 with
  | some v => s.noLeaf p v sflags index id f
  | none =>
    if badWager f.payload then s.orphanLeaf p (verdict St.refusedFormat 0x70) sflags 0 0 f
    else
      let i := index.toNat
      match s.rowsTo7 p (s.market i) id with
      | some v => s.orphanLeaf p v sflags index id f
      | none =>
        let s := s.noteKeys
        let s := if (s.market i).exhausted then s else s.ensureUses i
        let m := s.market i
        if m.exhausted then (s.sequenceEnd i).orphanLeaf p (verdict St.refusedClosed 0x78) sflags index id f
        else match rowsTo10 m f with
          | some v => s.makeLeaf p i v sflags f f.lastBit (v != verdict St.refusedClosed 0x7F)
          | none => s.makeLeaf p i Verdict.ok sflags f f.lastBit true

/-! ### Comparison (R230) -/

/-- Drop a stamp from the pipeline. -/
def State.dropStamp (s : State) (n : Nat) : State :=
  { s with mkt := { s.mkt with stamps := s.mkt.stamps.filter fun x => x.number != n } }

/-- Replace a stamp. -/
def State.setStamp (s : State) (x : Stamp) : State :=
  { s with mkt := { s.mkt with stamps := s.mkt.stamps.map fun z => if z.number = x.number then x else z } }

/-- A stamp whose computations cannot be made is sent UNMACED, its status unchanged, with an Audit record (R230). -/
def State.giveUpStamp (s : State) (x : Stamp) : State :=
  ((s.dropStamp x.number).sendUnmaced x.port.toNat x.dst x.vlan x.block false x.lastBit).logMarket 11 x.market.toNat 0
    x.port.toNat

/-- The pool engines among some places. -/
def poolPlaces (l : List EngPlace) : List Nat := (l.filter fun e => e.engine.1 == .pool).map fun e => e.engine.2

/-- An engine has left service: each computation that ran or waited there goes to the pool as urgent work at once, on
another engine than its partner's (R181, R186). -/
def State.moveStamps (s : State) (c : EngClass) (n : Nat) : State :=
  let here (e : EngPlace) : Bool := e.engine == (c, n)
  (s.mkt.stamps.filter fun x => here x.engA || here x.engB).foldl
    (fun t x =>
      let m := t.market x.market.toNat
      let first := here x.engA
      let t := t.leaveEngine (if first then x.engA else x.engB) x.number 0
      let giveUp (t : State) : State := (t.leaveEngine (if first then x.engB else x.engA) x.number 0).giveUpStamp x
      match t.keyNow (.slice m.slice6) x.handle false with
      | (none, t) => giveUp t
      | (some key, t) =>
        match t.placeUrgent m.slice6 key x.number (poolPlaces [x.engA, x.engB]) with
        | some (e, t) => t.setStamp (if first then { x with engA := e } else { x with engB := e })
        | none => giveUp t) s

/-- The MACs of a stamp differ: the engines are quarantined and counted, and the stamp is placed again on two other pool
engines; or it is sent UNMACED. -/
def State.stampMismatch (s : State) (x : Stamp) : State :=
  let a := x.engA.engine
  let b := x.engB.engine
  let s := (s.countMismatch a.1 a.2).countMismatch b.1 b.2
  let m := s.market x.market.toNat
  let again :=
    if x.rerun then none
    else match s.keyNow (.slice m.slice6) x.handle false with
      | (some key, t) => t.placePool m.slice6 key x.number (poolPlaces [x.engA, x.engB])
      | (none, _) => none
  match again with
  | some (e, d, t) => t.setStamp { x with engA := e, engB := d, rerun := true }
  | none => s.giveUpStamp x

/-- Both MACs of a stamp are ready. -/
def State.compareStamp (s : State) (x : Stamp) (equal : Bool) : State :=
  let s := (s.leaveEngine x.engA x.number stampCalls).leaveEngine x.engB x.number stampCalls
  if equal then
    (s.dropStamp x.number).queueReceipt x.port.toNat
      (s.receiptFrom x.port.toNat x.dst x.vlan (receiptBytes 0 x.block x.mac) x.lastBit)
  else
    let t := s.stampMismatch x
    (t.moveStamps x.engA.engine.1 x.engA.engine.2).moveStamps x.engB.engine.1 x.engB.engine.2

/-! ### Failover (R241) -/

/-- A stream port fails over to its pair partner. -/
def State.failPort (s : State) (p : Nat) : State :=
  let x := s.port p
  if x.failed then s
  else
    let q := partner p
    let s := s.setPort p { x with failed := true, receipts := [], restore := false }
    let y := s.port q
    let s := s.setPort q { y with
      receipts := y.receipts ++ x.receipts.map (fun r => r.redirect y.mac), steerPend := true }
    (s.raise intWsk 7).logEvent 4 5 5 sevAudit p 0 q

/-- Steering changes at a frame boundary: it begins on the partner of a failed port, or ends by RESTORE. -/
def State.steerPorts (s : State) : State :=
  (List.range 16).foldl (fun t p =>
    let x := t.port p
    let t := if x.steerPend then t.setPort p { x with steered := true, steerPend := false } else t
    let x := t.port p
    if x.restore then
      let t := t.setPort p { x with restore := false, failed := false, fecErrs := [] }
      let y := t.port (partner p)
      t.setPort (partner p) { y with steered := false, steerPend := false }
    else t) s

end Sys2Proof.Machine
end

