-- ==== Sys2Proof/Machine/MarketCommands.lean ====
section
/-! DEFINITION. The meanings of the stream ports' events, of the stamp pipeline's and the seal unit's, and of the market
commands (08). -/

namespace Sys2Proof.Machine

/-! ### Frames and receipts -/

/-- A frame comes in on a port: from its destination address to its frame check sequence, with its arrival value
(R194, R210, R211), which the timeline's condition at that value bounds. Without block lock no frame comes, and none before
its arrival. -/
def execWagerFrameReceive (port : BitVec 4) (frame : Bytes) (arrival : DWord) (s : State) : Out :=
  s.whilePowered fun s =>
    let p := port.toNat
    let x := s.port p
    if !x.lock || decide (s.tl.ns.toNat < arrival.toNat) then s
    else if !x.accepts frame then s.setPort p { x with drop := x.drop + 1 }
    else if 32 ≤ x.fifo.length then
      let due := match x.ovrRecord with | none => true | some t => decide (t + cyclesPerSec ≤ s.now)
      let s := s.setPort p { x with ovr := x.ovr + 1, ovrRecord := if due then some s.now else x.ovrRecord }
      let s := s.raise intMk 5
      if due then s.logEvent 2 13 12 sevNotice p 0 0 else s
    else
      let waits := !x.fifo.isEmpty || decide (24 ≤ s.receiptsHeld p)
      let c := s.spanFor arrival
      let f : WagerFrame := {
        src := fieldBE 48 6 6 frame, vlan := vlanOf frame, payload := payloadOf frame, arrival := arrival
        bound := BitVec.ofNat 32 (c.bound arrival), untrusted := c.untrustedFor arrival, holdover := c.state == .holdover
        lastBit := arrival + BitVec.ofNat 64 (wireNs frame.length) }
      s.setPort p { x with fifo := x.fifo ++ [f], rxWait := x.rxWait || waits }

/-- The frame of a port that stands before the allocator: its oldest, while its receipt queue has room (R211). -/
def State.atAllocator (s : State) (p : Nat) : Option WagerFrame :=
  if 24 ≤ s.receiptsHeld p then none else (s.port p).fifo.head?

/-- Ports in the rotated order that come before a port (R167). -/
def State.portsBefore (s : State) (p : Nat) : List Nat :=
  let f := s.whisk.frame.toNat % 16
  ((List.range 16).map fun i => (f + i) % 16).takeWhile fun q => q != p

/-- Of frames that reach the allocator together, their last bits having come at one instant, the one in rotated port order
is served first (R222). -/
def State.portTurn (s : State) (p : Nat) (f : WagerFrame) : Bool :=
  !((s.portsBefore p).any fun q => match s.atAllocator q with | some g => g.lastBit == f.lastBit | none => false)

/-- The allocator decides the oldest frame of a port whose receipt queue has room and whose turn it is (R211, R222,
R224). -/
def execWagerDecide (port : BitVec 4) (s : State) : Out :=
  s.whilePowered fun s =>
    let p := port.toNat
    let x := s.port p
    match s.atAllocator p with
    | none => s
    | some f => if s.portTurn p f then (s.setPort p { x with fifo := x.fifo.drop 1 }).decideWager p f else s

/-- An engine-local SRAM error (Table 6.4). The stamps of an engine that leaves service move (R186). -/
def execEccErrorEngine (cls : EngClass) (engine : Byte) (uncorrectable : Bool) (s : State) : Out :=
  s.whilePowered fun s =>
    let n := engine.toNat
    if decide (n < cls.size) && (s.engine cls n).health != .retired then
      let t := s.countEngineError cls n uncorrectable
      if (t.engine cls n).health = .online then t else t.moveStamps cls n
    else s

/-- Both MACs of a stamp are ready (R230). -/
def execStampMacCompare (stamp : Nat) (equal : Bool) (s : State) : Out :=
  s.whilePowered fun s =>
    match s.mkt.stamps.find? fun x => x.number == stamp with
    | none => s
    | some x => s.compareStamp x equal

/-- A port with block lock transmits its oldest receipt (R211, R231). -/
def execReceiptTransmit (port : BitVec 4) (s : State) : Out :=
  s.whilePowered fun s =>
    let p := port.toNat
    let x := s.port p
    match x.receipts with
    | [] => s
    | r :: rs =>
      if !x.lock then s
      else
        let lat := min 0xFFFFFFFF (s.tl.ns.toNat - r.lastBit.toNat)
        let s := s.setPort p { x with receipts := rs }
        { s with mkt := { s.mkt with
          sent := s.mkt.sent ++ [(port, r.frame)]
          latMax := if s.mkt.latMax.toNat < lat then BitVec.ofNat 32 lat else s.mkt.latMax } }

/-- The stamp pipeline takes the next block of uses when half of the current one is spent (R229). -/
def execStampUseBlockTake (market : BitVec 17) (s : State) : Out :=
  s.whilePowered fun s =>
    let m := s.market market.toNat
    if m.tree.isSome && decide (s.usesLeft m.stampHandle ≤ 32768) then s.takeBlock market.toNat else s

/-- The stamp key's sibling is prepared at level S (R240); a failure is recorded, and closes the market at its next tick
end. -/
def State.prepareStamp (s : State) (i : Nat) : State :=
  let m := s.market i
  let r := s.doNextGen .s (ktBlock ([3#8, 0, 0, 0] ++ le 4 m.stampHandle ++ zeros 40))
  let pinned := if r.2.1.status = St.ok then r.1.pinStamp m.slice6 (r.2.2.setWidth 32) else none
  match pinned with
  | some t =>
    let h : Word := r.2.2.setWidth 32
    t.setMarket i { m with nextStamp := h, nextGen := t.genOf h }
  | none => ((r.1.setMarket i { m with rollFail := some s.tl.ns }).raise intMk 3).logMarket 8 i r.2.1.arg m.stampHandle.toNat

/-- USE_COUNT of a market's stamp key has reached 2^40 − 2^33 (R240). -/
def execStampKeyPrepare (market : BitVec 17) (s : State) : Out :=
  s.whilePowered fun s =>
    let m := s.market market.toNat
    if m.tree.isSome && m.nextStamp == 0 && m.rollFail.isNone && !m.keyLost && !s.stk.hold &&
        !s.tamper.gateClosed &&
        decide (prepareAt ≤ (s.entry (hIndex m.stampHandle)).useCount.toNat) then
      s.prepareStamp market.toNat
    else s

/-- A seal signature that has ended reaches the seal unit (R236). -/
def execSealSignatureDone (market : BitVec 17) (pq : Bool) (s : State) : Out :=
  s.whilePowered fun s =>
    match s.mkt.signed.find? fun d => d.market == market && d.pq == pq with
    | none => s
    | some d => ({ s with mkt := { s.mkt with signed := s.mkt.signed.erase d } }).sealSigned d

/-! ### Market commands (R218) -/

/-- Who may write MK_CMD (R244): S, H and N contexts. -/
def Accessor.commands : Accessor → Bool
  | .s => true
  | .h _ => true
  | .manager => true
  | .n _ => true
  | _ => false

/-- The issuer that an accessor of a command block is. -/
def State.issuerOf (s : State) (who : Accessor) : Issuer :=
  match who with
  | .s => .s
  | .h _ => .h
  | .manager => .h
  | .host (some x) => .slice x
  | .host none => .h
  | .n c => .n (s.ctx c.toNat).slice

/-- The context of an accessor. -/
def Accessor.ctx? : Accessor → Option (BitVec 7)
  | .n c => some c
  | _ => none

/-- What refuses a market command at once: another slice's market (R218), the mode (R442), or a command that is pending
(R456). -/
def State.marketRefusal (s : State) (who : Accessor) (op : BitVec 3) (i : Nat) : Option Verdict :=
  let foreign := match s.issuerOf who with
    | .n x => op != 1 && (s.market i).slice != x.setWidth 8
    | _ => false
  let mode := s.modes.mode
  let allowed := who.isS || mode == .service || ((op == 3 || op == 4) && mode == Mode.recovery)
  if foreign then some (verdict St.attrDenied 0x19)
  else if !allowed then some modeRefusal
  else if op != 4 && !s.mkt.commands.isEmpty then some (verdict St.attrDenied 0xA8)
  else none

/-- A market command is issued: refused, or accepted to land at the next frame boundary. READ ends at once. -/
def State.marketCommand (s : State) (who : Accessor) (op : BitVec 3) : State :=
  let copy := who.copy
  let i := (s.reg (copy + mkIdx)).toNat % 0x20000
  match s.marketRefusal who op i with
  | some v => s.mkDone copy v
  | none =>
    if op = 4 then (s.setRegs (copy + mkEntry) (words 16 (s.market i).bytes)).mkDone copy Verdict.ok
    else
      let c : MkCommand := {
        op := op, issuer := s.issuerOf who, ctx := who.ctx?, index := BitVec.ofNat 17 i
        entry := s.regBytes (copy + mkEntry) 16 }
      { s.setReg (copy + mkSts) 0 with mkt := { s.mkt with commands := s.mkt.commands ++ [c] } }

/-- ADD. -/
def execMkAdd (who : Accessor) (s : State) : Out :=
  s.whilePowered fun s => s.writeBy who.commands who 0x0D0004 fun s => s.marketCommand who 1

/-- SETCLOSE. -/
def execMkSetClose (who : Accessor) (s : State) : Out :=
  s.whilePowered fun s => s.writeBy who.commands who 0x0D0004 fun s => s.marketCommand who 2

/-- REMOVE. -/
def execMkRemove (who : Accessor) (s : State) : Out :=
  s.whilePowered fun s => s.writeBy who.commands who 0x0D0004 fun s => s.marketCommand who 3

/-- READ. -/
def execMkRead (who : Accessor) (s : State) : Out :=
  s.whilePowered fun s => s.writeBy who.commands who 0x0D0004 fun s => s.marketCommand who 4

/-! ### Ports -/

/-- The port that MK_PORT_SEL selects. -/
def State.selectedPort (s : State) : Nat := (s.reg 0x0D0060).toNat % 16

/-- A write of MK_PORT_CTL.ENABLE: a 1 is ignored while the port's orphan market is not OPEN (R220). -/
def State.writeEnable (s : State) (on : Bool) : State :=
  let p := s.selectedPort
  let x := s.port p
  let o := s.market x.orphan.toNat
  if on && !(o.orphan && o.state == .open_) then s else s.setPort p { x with enable := on }

/-- S writes MK_PORT_CTL.ENABLE (R220, R244). -/
def execMkPortEnableWrite (who : Accessor) (value : Word) (s : State) : Out :=
  s.whilePowered fun s => s.writeBy who.isS who 0x0D0064 fun s => s.writeEnable (value.getLsbD 0)

/-- A write of MK_PORT_CTL.RESTORE on a failed-over port that has held block lock for 1 s (R241). -/
def State.writeRestore (s : State) (on : Bool) : State :=
  let p := s.selectedPort
  let x := s.port p
  if on && x.failed && x.lock && decide (x.lockSince + cyclesPerSec ≤ s.now) then s.setPort p { x with restore := true }
  else s

/-- S or H writes MK_PORT_CTL.RESTORE (R241, R244). -/
def execMkPortRestore (who : Accessor) (value : Word) (s : State) : Out :=
  s.whilePowered fun s => s.writeBy who.isSH who 0x0D0064 fun s => s.writeRestore (value.getLsbD 1)

/-- S sets MK_LOCK.LOCK (R244). -/
def execMkLockWrite (who : Accessor) (value : Word) (s : State) : Out :=
  s.whilePowered fun s => s.writeBy who.isS who 0x0D00A4 fun s =>
    s.setReg 0x0D00A4 (s.reg 0x0D00A4 ||| (value &&& 1))

/-- A stream port loses signal or block lock for 100 µs (R181, R241). -/
def execStreamLossOfLock (port : BitVec 4) (s : State) : Out :=
  s.whilePowered fun s =>
    let x := s.port port.toNat
    (s.setPort port.toNat { x with lock := false }).failPort port.toNat

/-- A stream port gains block lock (R241). -/
def execStreamBlockLock (port : BitVec 4) (s : State) : Out :=
  s.whilePowered fun s =>
    let x := s.port port.toNat
    if x.lock then s else s.setPort port.toNat { x with lock := true, lockSince := s.now }

/-- An uncorrectable RS-FEC codeword (R181, R210): the frame is dropped; the 32nd in 1 s fails the port over. -/
def execRsfecUncorrectable (port : BitVec 4) (s : State) : Out :=
  s.whilePowered fun s =>
    let x := s.port port.toNat
    let ts := inWindow s.now cyclesPerSec x.fecErrs ++ [s.now]
    let s := s.setPort port.toNat { x with fecErrs := ts, drop := x.drop + 1 }
    if 32 ≤ ts.length then s.failPort port.toNat else s

end Sys2Proof.Machine
end

