-- ==== Sys2Proof/Machine/StkSealOps.lean ====
section
/-! DEFINITION. Stockpot seals: what a seal takes at its dispatch, the audit key, the STK_SEAL record (R423, R424). -/

namespace Sys2Proof.Machine

/-- STK_AKEY (Table 15.10). -/
def State.auditHandle (s : State) : Word := s.reg 0x1300C8

/-- The VALID node of owner 0 that STK_AKEY names. -/
def State.auditNode (s : State) : Option Handle :=
  if s.auditHandle = 0 then none
  else match s.lookup s.auditHandle with
    | some e => if e.owner = 0 then some e else none
    | none => none

/-- The audit key can be used: TYPE 0x20, QUORUM clear, and every check of Table 2.7 passes for SIGN. -/
def State.auditUsable (s : State) : Bool :=
  match s.auditNode with
  | none => false
  | some e =>
    e.type == 0x20 && !e.quorum && (match s.checkUse .s s.auditHandle opSign with | .ok _ => true | .error _ => false)

/-- The audit key cannot be used for want of a use (R58). -/
def State.auditExhausted (s : State) : Bool :=
  match s.auditNode with
  | none => false
  | some _ =>
    match s.checkUse .s s.auditHandle opSign with
    | .error v => v.status == St.keyExhausted
    | .ok _ => false

/-- The signed part of an STK_SEAL payload (Table 15.4), bytes 0x00 to 0x4F. -/
def SealTake.head (t : SealTake) (unsigned : Bool) : Bytes :=
  let flags : Byte := (if unsigned then 1 else 0) ||| (if t.untrusted then 2 else 0) ||| (if t.hold then 4 else 0)
  be 8 t.first ++ be 8 t.last ++ be 8 t.tl ++ be 8 Config.deviceSerial ++ be 4 t.chained ++ be 4 t.dropped ++
  be 4 t.keyGen ++ [flags, 0, 0, 0] ++ t.chain

/-- An STK_SEAL record; no signature marks it UNSIGNED. -/
def SealTake.record (t : SealTake) (signature : Option Bytes) : LogRec :=
  { type := 0x0002, severity := sevAudit, slice := devSlice
    payload := t.head signature.isNone ++ signature.getD (zeros 64) }

/-- What a seal takes (R423). -/
def State.sealTake (s : State) : SealTake :=
  { first := match s.stk.sealLast with | some l => l + 1 | none => 0
    last := s.stk.nextSeq - 1, tl := s.tl.ns, chained := s.stk.chainedCount, dropped := s.stk.drop - s.stk.sealDrop
    handle := s.auditHandle
    keyGen := match s.auditNode with | some e => e.generation | none => 0
    untrusted := s.timeUntrusted, hold := s.stk.hold, chain := s.stk.chain }

/-- The block of a Stockpot seal's signature: a hedged SIGN with ECDSA P-256 and SHA-256 of 80 octets. -/
def stkBlock (h : Word) : Bytes := [0x60, 0x20, 0, 0] ++ le 4 h ++ zeros 8 ++ leNat 8 80 ++ zeros 24

/-- The signature of a seal begins as device-class work, with draws from NONCE and of both runs' blinding (R121, R424). -/
def State.signStk (s : State) (t : SealTake) : State :=
  s.submitDev { issuer := .s, charge := none, origin := .device, block := stkBlock t.handle, source := [], host := [] }
    fun j => { j with dev := some .stkSeal, payload := t.head false, draws := [.priv .nonce 32, .priv .blind 16] }

/-- The signature that is in progress is given up. -/
def State.dropStkJob (s : State) : State :=
  let mine := (s.eng.jobs.filter fun j => j.dev == some .stkSeal).map Job.id
  let s := mine.foldl (fun t id => t.finish id vAborted 0) s
  { s with stk := { s.stk with signed := none } }

/-- STK_SEAL is dispatched: the seal is taken, and its signature starts under a usable audit key; else its record is
UNSIGNED. A seal whose signature still runs ends UNSIGNED first. -/
def State.stkSeal (s : State) : State :=
  if !s.stk.started then s
  else
    let s := match s.stk.sealing with
      | none => s
      | some t => (({ s.dropStkJob with stk := { s.dropStkJob.stk with sealing := none } }).raise intStk 5).acceptOwn (t.record none)
    let t := s.sealTake
    let s := { s with stk := { s.stk with
      sealLast := some t.last, chainedCount := 0, sealDrop := s.stk.drop, noKey := !s.auditUsable } }
    if s.auditUsable then
      let s := (s.takeUses .s s.auditHandle 1).1
      ({ s with stk := { s.stk with sealing := some t } }).signStk t
    else
      let s := if s.auditHandle = 0 then s else s.raise intStk 5
      let s := if s.auditExhausted then s.noteExhausted s.auditHandle else s
      s.acceptOwn (t.record none)

/-- The seal signature has ended: its record is accepted, with the signature, or UNSIGNED. -/
def State.stkSigned (s : State) : State :=
  match s.stk.sealing, s.stk.signed with
  | some t, some sig =>
    let s := { s with stk := { s.stk with sealing := none, signed := none } }
    (if sig.isNone then s.raise intStk 5 else s).acceptOwn (t.record sig)
  | _, _ => s

end Sys2Proof.Machine
end

