-- ==== Sys2Proof/Machine/CalCommands.lean ====
section
/-! DEFINITION. The meanings of the calendar commands, of the calendar's dispatch and of the frame start (R167, R168,
R202 to R208, R457). -/

namespace Sys2Proof.Machine

/-! ### Entries and commands -/

/-- The registers of the CAL_ command block. -/
abbrev calSts : Nat := 0x0C0008
abbrev calIdx : Nat := 0x0C000C
abbrev calEntry : Nat := 0x0C0010

/-- The 24 octets of an entry (Table 7.4); zero for none. -/
def CalEntry.bytes (e : CalEntry) : Bytes :=
  le 8 e.atUs ++ le 4 e.period ++ [e.kind, e.slice, if e.late then 3 else 1, 0] ++ le 4 e.arg ++ le 4 e.tag

/-- The entry that 24 octets describe, added at a level, its slice forced for N (R203). -/
def CalEntry.ofBytes (b : Bytes) (i : Issuer) : CalEntry :=
  { atUs := fieldLE 64 0 8 b, period := fieldLE 32 8 4 b, kind := octet 12 b
    slice := match i.slice? with | some x => x.setWidth 8 | none => octet 13 b
    late := false, arg := fieldLE 32 16 4 b, tag := fieldLE 32 20 4 b
    level := match i with | .s => 1 | .h => 2 | _ => 3, due := none }

/-- The outcome of a calendar command. -/
def State.calDone (s : State) (copy : Nat) (v : Verdict) (found : Bool) : State :=
  s.setReg (copy + calSts) (v.status.setWidth 32 ||| (v.detail.setWidth 32 <<< 16) ||| (if found then 0x80000000#32 else 0))

/-- What refuses an ADD before the quotas, in the order of R494: the level (Table 7.5), the mode (Table 16.2), reserved
bits, the kind, the period and SLICE. -/
def State.calRefusal (s : State) (i : Issuer) (b : Bytes) : Option Verdict :=
  let k := octet 12 b
  let e := CalEntry.ofBytes b i
  let known := decide (1 ≤ k.toNat) && decide (k.toNat ≤ 7)
  let market := k == kindMarketOpen || k == kindMarketClose
  let levelOk := k == kindKeyRoll || k == kindUser || (market && i.slice?.isNone)
  if known && !levelOk then some vLevel
  else if i ≠ .s ∧ (s.modes.mode = .startup ∨ s.modes.mode = Mode.erased) then some modeRefusal
  else if 2 ^ 54 ≤ e.atUs.toNat ∨ octet 14 b &&& 0xFC ≠ 0 ∨ octet 15 b ≠ 0 then some vReserved
  else if !known || (market && e.period != 0) || (decide (64 ≤ e.slice.toNat) && e.slice != 0xFF) then some vBadParam
  else none

/-- CAL_FULL is reported in CAL_INT_STS.FULL. -/
def State.noteFull (s : State) (detail : Byte) : State := if detail = 0x61 then s.raise intCal 0 else s

/-- ADD (R202 to R204, R206). -/
def State.calCommandAdd (s : State) (who : Accessor) : State :=
  let copy := who.copy
  let b := s.regBytes (copy + calEntry) 6
  let i := s.issuerOf who
  match s.calRefusal i b with
  | some v => s.calDone copy v false
  | none =>
    match s.calAdd false (CalEntry.ofBytes b i) with
    | .error d => (s.noteFull d).calDone copy ⟨St.attrDenied, d⟩ false
    | .ok r => (r.2.setReg (copy + calIdx) (BitVec.ofNat 32 r.1)).calDone copy Verdict.ok false

/-- The entry at CAL_IDX that an issuer may name: any for S and H, its slice's for N. -/
def State.calNamed (s : State) (who : Accessor) : Option (Nat × CalEntry) :=
  let i := (s.reg (who.copy + calIdx)).toNat % 0x10000
  (s.cal.entries.find? fun e => e.1 == i).bind fun e =>
    match (s.issuerOf who).slice? with
    | some x => if e.2.slice = x.setWidth 8 then some e else none
    | none => some e

/-- End a context's TLWAIT with a code (R207): 0 WAKE_OK, 1 WAKE_LATE, 2 WAKE_ABORT. -/
def State.endWait (s : State) (n : Nat) (code : Nat) : State :=
  let c := s.ctx n
  match c.state, c.wait with
  | .waiting, .tlwait rd => (s.setCtx n (c.setG rd (BitVec.ofNat 64 code))).wake n false
  | _, _ => s

/-- Remove one entry; the wait of a WAKE entry that is removed ends with WAKE_ABORT (R206). -/
def State.calErase (s : State) (i : Nat) : State :=
  match s.cal.entries.find? fun e => e.1 == i with
  | none => s
  | some (_, e) =>
    let s := { s with cal := { s.cal with
      entries := s.cal.entries.filter (fun x => x.1 != i), held := s.cal.held.filter fun k => k != i } }
    if e.kind = kindWake then s.endWait e.arg.toNat 2 else s

/-- A slice reset removes the slice's entries (R206). -/
def State.calSliceReset (s : State) (n : Nat) : State :=
  ((s.cal.entries.filter fun e => e.2.slice.toNat == n).map Prod.fst).foldl State.calErase s

/-- CANCEL (R204). -/
def State.calCommandCancel (s : State) (who : Accessor) : State :=
  match s.calNamed who with
  | none => s.calDone who.copy Verdict.ok false
  | some (i, _) => (s.calErase i).calDone who.copy Verdict.ok true

/-- READ (R208). -/
def State.calCommandRead (s : State) (who : Accessor) : State :=
  match s.calNamed who with
  | none => (s.setRegs (who.copy + calEntry) (words 6 (zeros 24))).calDone who.copy Verdict.ok false
  | some (_, e) => (s.setRegs (who.copy + calEntry) (words 6 e.bytes)).calDone who.copy Verdict.ok true

/-- CAL_CMD is written with OP 1. -/
def execCalAdd (who : Accessor) (s : State) : Out :=
  s.whilePowered fun s => s.writeBy who.commands who 0x0C0004 fun s => s.calCommandAdd who

/-- CAL_CMD is written with OP 2. -/
def execCalCancel (who : Accessor) (s : State) : Out :=
  s.whilePowered fun s => s.writeBy who.commands who 0x0C0004 fun s => s.calCommandCancel who

/-- CAL_CMD is written with OP 3. -/
def execCalRead (who : Accessor) (s : State) : Out :=
  s.whilePowered fun s => s.writeBy who.commands who 0x0C0004 fun s => s.calCommandRead who

/-! ### Dispatch (R204, R205) -/

/-- Rank of two entries in a pass (R204): by kind, SLICE, ARG, index; held entries first by AT_US. -/
def calBefore (byTime : Bool) (a b : Nat × CalEntry) : Bool :=
  let key (x : Nat × CalEntry) : List Nat :=
    [if byTime then x.2.atUs.toNat else 0, kindOrder x.2.kind, x.2.slice.toNat, x.2.arg.toNat, x.1]
  decide (key a ≤ key b)

/-- Insert an entry in the order of a pass. -/
def calInsert (byTime : Bool) (x : Nat × CalEntry) : List (Nat × CalEntry) → List (Nat × CalEntry)
  | [] => [x]
  | y :: ys => if calBefore byTime x y then x :: y :: ys else y :: calInsert byTime x ys

/-- Entries in the order of a pass. -/
def calSort (byTime : Bool) (l : List (Nat × CalEntry)) : List (Nat × CalEntry) := l.foldr (calInsert byTime) []

/-- The event queue of an entry: its slice's, or the issuing level's (R203). -/
def CalEntry.queueKey (e : CalEntry) : Nat :=
  if e.slice ≠ 0xFF then e.slice.toNat else if e.level = 1 then 65 else 64

/-- What the firing of an entry does (Table 7.5). -/
def State.calAction (s : State) (i : Nat) (e : CalEntry) (late : Bool) : State :=
  if e.kind = kindMarketClose then s.beginClosing e.arg.toNat
  else if e.kind = kindSealTick then s.sealTick e.arg
  else if e.kind = kindMarketOpen then s.openMarket e.arg.toNat
  else if e.kind = kindStkSeal then s.stkSeal
  else if e.kind = kindWake then s.endWait e.arg.toNat (if late then 1 else 0)
  else s.postEvent e.queueKey { kind := e.kind, arg := e.arg, tag := e.tag, index := BitVec.ofNat 32 i }

/-- Fire an entry that is still there: it is marked LATE when its instant has passed, a periodic one moves on, a one-shot
one becomes free (R204). -/
def State.calFire (s : State) (release : Bool) (i : Nat) : State :=
  match s.cal.entries.find? fun e => e.1 == i with
  | none => s
  | some (_, e) =>
    let now := s.nowUs
    let late := release || e.due.isSome || decide (e.atUs.toNat < now)
    let p := e.period.toNat
    let next := e.atUs.toNat + ((now - e.atUs.toNat) / p + 1) * p
    let moved : CalEntry := { e with atUs := BitVec.ofNat 64 next, late := late, due := none }
    let entries :=
      if p = 0 then s.cal.entries.filter fun x => x.1 != i
      else s.cal.entries.map fun x => if x.1 = i then (i, moved) else x
    let s := { s with cal := { s.cal with
      entries := entries, held := s.cal.held.filter fun k => k != i
      late := if late then s.cal.late + 1 else s.cal.late } }
    s.calAction i e late

/-- Hold an entry that falls due while time is untrusted (R205). -/
def State.calHold (s : State) (i : Nat) : State :=
  if s.cal.held.contains i then s else { s with cal := { s.cal with held := s.cal.held ++ [i] } }.raise intCal 1

/-- One dispatch pass, of 2 cycles for each entry that is dispatched: the held entries once time is trusted again, then the entries that are due (R204,
R205). -/
def State.calDispatch (s : State) : State :=
  let untrusted := s.timeUntrusted
  let held := s.cal.entries.filter fun e => s.cal.held.contains e.1
  let s := if untrusted then s else ((calSort true held).map Prod.fst).foldl (fun t i => t.calFire true i) s
  let due := calSort false (s.cal.entries.filter fun e => decide (e.2.dueUs ≤ s.nowUs))
  let fired := (if untrusted then [] else held).length + (due.filter fun e => !(untrusted && kindHeld e.2.kind)).length
  let s := { s with cal := { s.cal with passTo := s.now + 2 * fired } }
  due.foldl (fun t e => if untrusted && kindHeld e.2.kind then t.calHold e.1 else t.calFire false e.1) s

/-- A dispatch pass runs (R204). -/
def execCalendarDispatch (s : State) : Out := s.whilePowered State.calDispatch

/-! ### Frame start (R167, R168, R457) -/

/-- N of a class (R168). -/
def State.onlineCount (s : State) (c : EngClass) : Nat := (enginesWhere c fun n => s.online c n).length

/-- The share of a class (R168). -/
def shareOf (n : Nat) : Share := { q := BitVec.ofNat 16 ((n * 9000 - 3000) / 64), n := BitVec.ofNat 8 n }

/-- Set every balance of a class to its share. -/
def State.setBalances (s : State) (c : EngClass) (q : BitVec 16) : State :=
  (List.range 64).foldl (fun t x => t.setAccount c x { t.account c x with balance := q }) s

/-- Quarantined engines whose quarantine has ended, and groups that have reached ON, rejoin their classes. -/
def State.rejoin (s : State) : State :=
  let back (e : Engine) : Engine := if e.health = .rejoining then { e with health := .online } else e
  ({ s with eng := { s.eng with table := sparseMap Engine.reset (fun _ e => back e) s.eng.table } }).rejoinGroups

/-- N is counted and every balance set (R168); substitutes are bound (R184). -/
def State.recount (s : State) : State :=
  let dg := shareOf (s.onlineCount .pool)
  let cp := shareOf (s.onlineCount .cipher)
  let bn := shareOf (s.onlineCount .bn)
  let s := { s with whisk := { s.whisk with shareDg := dg, shareCp := cp, shareBn := bn, devRan := [] } }
  (((s.setBalances .pool dg.q).setBalances .cipher cp.q).setBalances .bn bn.q).bindSubstitutes

/-- The waits of slices whose candidates the new balances make owned begin (R173). -/
def State.noteWaits (s : State) : State := s.eng.jobs.foldl (fun t j => t.noteWait j.cls j.sub.slice?) s

/-- What happens in a frame-start cycle, in the order of R457; steering of R241 changes with the market commands. -/
def State.frameStart (s : State) : State :=
  let s := { s with whisk := { s.whisk with frame := BitVec.ofNat 64 (s.tl.ns.toNat / 8000), ended := false } }
  let s := s.landPower.rejoin.placeTaps.recount.noteWaits.landStrainer.landMarkets.steerPorts
  let s := { s with cld := { s.cld with rot := s.cld.rot + 1 } }
  if s.cal.entries.any fun e => decide (e.2.dueUs ≤ s.nowUs) then s.calDispatch else s

/-- A frame starts now: the counter stands at a multiple of 8,000 ns, and the frame of that value does not run yet (R31,
R167). -/
def State.frameDue (s : State) : Bool :=
  decide (s.tl.ns.toNat % 8000 = 0) && (s.whisk.ended || s.whisk.frame.toNat != s.tl.ns.toNat / 8000)

/-- The counter reaches a multiple of 8,000 ns (R167, R168). -/
def execFrameStart (s : State) : Out := s.whilePowered fun s => if s.frameDue then s.frameStart else s

/-! ### Events of the timeline that may change its state -/

/-- An edge of a reference is found missing (R191). Found only after 1.000,010 s of device time, its 10 MHz is absent.
The ticks that have ended close first, under the timeline's condition until then (R235). -/
def execEdgeMissing (ref : Bool) (s : State) : Out :=
  s.whilePowered fun s =>
    let s := s.meetTicks
    let x := s.tref ref
    (s.setTref ref { x with freqOk := x.freqOk && decide (s.tl.ns.toNat < x.edge.toNat + 1000010000) }).badEdge ref 8

/-- 1 µs after the predicted instant of a reference's next edge, counted from its last consistent one. -/
def Tref.lateAt (x : Tref) : Nat := x.goodEdge.toNat + 1000001000

/-- While LOCKED, no edge of the selected reference has come by 1 µs after its predicted instant (R198). -/
def execReferenceFail (s : State) : Out :=
  s.whilePowered fun s =>
    let s := s.meetTicks
    let x := s.tref s.tl.sel
    if s.tl.state == .locked && !x.windowOpen && decide (x.lateAt ≤ s.tl.ns.toNat) then s.badEdge s.tl.sel 8 else s

/-- The counter reaches T_u (R199). -/
def execHoldoverExpiry (s : State) : Out :=
  s.whilePowered fun s =>
    let s := s.meetTicks
    if s.tl.state == .holdover && decide (s.tl.untr.toNat ≤ s.tl.ns.toNat) then s.untrust else s

/-- The message window of an edge ends, and the edge is judged (R189 to R191). A pass at T_L dispatches the held entries
ahead of those due then (R205). -/
def execTodMessageClose (ref : Bool) (run : Option Bytes) (onTime : Bool) (offset : Int) (s : State) : Out :=
  s.whilePowered fun s =>
    if !(s.tref ref).windowOpen then s
    else
      let s := s.meetTicks
      let t := s.judgeEdge ref run onTime offset
      if s.timeUntrusted && !t.timeUntrusted then t.calDispatch else t

end Sys2Proof.Machine
end

