-- ==== Sys2Proof/Machine/JobCommands.lean ====
section
/-! DEFINITION. The meanings of the commands that submit a job or a key-tree command (02 to 05, 08): each is a
submission under its opcode, checked, drawn for, queued or run as R494 and the chapters order it. -/

namespace Sys2Proof.Machine

/-- A job is submitted under an opcode. -/
def State.jobCommand (s : State) (op : Byte) (u : Submission) : State := s.submit op u

/-- KT_CMD is BUSY (Table 2.15): a command from the register block has not completed. -/
def State.ktBusy (s : State) : Bool := s.eng.jobs.any fun j => j.sub.origin == .regs

/-- A key-tree command is submitted (R66). From KT_CMD, a GO while BUSY is ignored and sets OVERRUN; one that is
accepted clears DONE and OVERRUN (Tables 2.16, 2.17). -/
def State.ktCommand (s : State) (op : Byte) (u : Submission) : State :=
  if u.origin = .regs then
    if s.ktBusy then s.setReg 0x060008 (s.reg 0x060008 ||| 0x40000000)
    else (s.setReg 0x060008 (s.reg 0x060008 &&& 0x00FFFFFF)).submit op u
  else s.submit op u

/-- RANDOM (R156: octets of the slice's channel, or of NONCE for H and S). -/
def execRandom (sub : Submission) (s : State) : Out :=
  s.whilePowered fun t => t.jobCommand 0x70 sub

/-- DRAW (R158: commitment, sampling and result, both recorded). -/
def execDraw (sub : Submission) (s : State) : Out :=
  s.whilePowered fun t => t.jobCommand 0x71 sub

/-- CREATE (R67). -/
def execCreate (sub : Submission) (s : State) : Out :=
  s.whilePowered fun t => t.ktCommand 0x01 sub

/-- GENERATE (R67). -/
def execGenerate (sub : Submission) (s : State) : Out :=
  s.whilePowered fun t => t.ktCommand 0x02 sub

/-- NEXTGEN (R67). -/
def execNextGen (sub : Submission) (s : State) : Out :=
  s.whilePowered fun t => t.ktCommand 0x03 sub

/-- NARROW (R67). -/
def execNarrow (sub : Submission) (s : State) : Out :=
  s.whilePowered fun t => t.ktCommand 0x04 sub

/-- DESTROY (R68). -/
def execDestroy (sub : Submission) (s : State) : Out :=
  s.whilePowered fun t => t.ktCommand 0x05 sub

/-- QUERY (R67). -/
def execQuery (sub : Submission) (s : State) : Out :=
  s.whilePowered fun t => t.ktCommand 0x06 sub

/-- PROVE (R76). -/
def execProve (sub : Submission) (s : State) : Out :=
  s.whilePowered fun t => t.ktCommand 0x07 sub

/-- PIN (R70). -/
def execPin (sub : Submission) (s : State) : Out :=
  s.whilePowered fun t => t.ktCommand 0x08 sub

/-- UNPIN (R70). -/
def execUnpin (sub : Submission) (s : State) : Out :=
  s.whilePowered fun t => t.ktCommand 0x09 sub

/-- IMG_SEAL (R73). -/
def execImgSeal (sub : Submission) (s : State) : Out :=
  s.whilePowered fun t => t.ktCommand 0x10 sub

/-- IMG_LOAD (R74). -/
def execImgLoad (sub : Submission) (s : State) : Out :=
  s.whilePowered fun t => t.ktCommand 0x11 sub

/-- IMG_COMMIT (R73). -/
def execImgCommit (sub : Submission) (s : State) : Out :=
  s.whilePowered fun t => t.ktCommand 0x12 sub

/-- IMG_UNLOAD (R67). -/
def execImgUnload (sub : Submission) (s : State) : Out :=
  s.whilePowered fun t => t.ktCommand 0x13 sub

/-- DIGEST (R85). -/
def execDigest (sub : Submission) (s : State) : Out :=
  s.whilePowered fun t => t.jobCommand 0x40 sub

/-- MAC_GEN (R85). -/
def execMacGen (sub : Submission) (s : State) : Out :=
  s.whilePowered fun t => t.jobCommand 0x41 sub

/-- MAC_VERIFY (R91). -/
def execMacVerify (sub : Submission) (s : State) : Out :=
  s.whilePowered fun t => t.jobCommand 0x42 sub

/-- CTX_SAVE (R92). -/
def execCtxSave (sub : Submission) (s : State) : Out :=
  s.whilePowered fun t => t.jobCommand 0x43 sub

/-- CTX_RESTORE (R94). -/
def execCtxRestore (sub : Submission) (s : State) : Out :=
  s.whilePowered fun t => t.jobCommand 0x44 sub

/-- TAP (R95). -/
def execTap (sub : Submission) (s : State) : Out :=
  s.whilePowered fun t => t.jobCommand 0x45 sub

/-- RCPT_CHECK (R242). -/
def execRcptCheck (sub : Submission) (s : State) : Out :=
  s.whilePowered fun t => t.jobCommand 0x46 sub

/-- ENCRYPT of a cipher engine (R98). -/
def execCipherEncrypt (sub : Submission) (s : State) : Out :=
  s.whilePowered fun t => t.jobCommand 0x50 sub

/-- DECRYPT of a cipher engine (R101). -/
def execCipherDecrypt (sub : Submission) (s : State) : Out :=
  s.whilePowered fun t => t.jobCommand 0x51 sub

/-- MAC_GEN of a cipher engine (R98). -/
def execCipherMacGen (sub : Submission) (s : State) : Out :=
  s.whilePowered fun t => t.jobCommand 0x52 sub

/-- MAC_VERIFY of a cipher engine (R101). -/
def execCipherMacVerify (sub : Submission) (s : State) : Out :=
  s.whilePowered fun t => t.jobCommand 0x53 sub

/-- WRAP (R98). -/
def execWrap (sub : Submission) (s : State) : Out :=
  s.whilePowered fun t => t.jobCommand 0x54 sub

/-- UNWRAP (R101). -/
def execUnwrap (sub : Submission) (s : State) : Out :=
  s.whilePowered fun t => t.jobCommand 0x55 sub

/-- SIGN (R116). -/
def execSign (sub : Submission) (s : State) : Out :=
  s.whilePowered fun t => t.jobCommand 0x60 sub

/-- VERIFY (R116). -/
def execVerify (sub : Submission) (s : State) : Out :=
  s.whilePowered fun t => t.jobCommand 0x61 sub

/-- AGREE (R116). -/
def execAgree (sub : Submission) (s : State) : Out :=
  s.whilePowered fun t => t.jobCommand 0x62 sub

/-- ENCAP (R116). -/
def execEncap (sub : Submission) (s : State) : Out :=
  s.whilePowered fun t => t.jobCommand 0x63 sub

/-- DECRYPT under RSA (R116). -/
def execRsaDecrypt (sub : Submission) (s : State) : Out :=
  s.whilePowered fun t => t.jobCommand 0x64 sub

/-- ENCRYPT under RSA (R116). -/
def execRsaEncrypt (sub : Submission) (s : State) : Out :=
  s.whilePowered fun t => t.jobCommand 0x65 sub

/-- PUBLIC (R123). -/
def execPublicKey (sub : Submission) (s : State) : Out :=
  s.whilePowered fun t => t.jobCommand 0x66 sub

/-- The background sweep of an owner's region ends (R68): every descendant of what was destroyed is FREE. -/
def execDestroySweepDone (owner : Byte) (s : State) : Out :=
  s.whilePowered fun s =>
    match s.keys.sweeps.find? fun w => w.owner == owner with
    | none => s
    | some w =>
      let t := s.sweepOwner w
      { t with keys := { t.keys with sweeps := t.keys.sweeps.erase w } }.raise intKt 3

/-- The ceiling of an entry as KT_TBL_CEIL shows it (Table 2.20). -/
def State.ceilingOf (s : State) (e : Handle) : Nat :=
  if e.valid && e.counted then ceiling (s.owner e.owner.toNat) e else 0

/-- A write of KT_TBL_IDX loads the snapshot of an entry (R55, Table 2.20). -/
def State.loadTable (s : State) (value : Word) : State :=
  let i := value &&& 0x000FFFFF
  let e := s.entry i.toNat
  let s := (s.setReg 0x060040 i).setRegs 0x060044 (words 10 e.bytes)
  s.setReg64 0x060070 (BitVec.ofNat 64 (s.ceilingOf e))

/-- KT_TBL_IDX is written by S, by H and by the manager (R77). -/
def execKtTblIdxWrite (who : Accessor) (value : Word) (s : State) : Out :=
  s.whilePowered fun s => s.writeBy who.isSH who 0x060040 fun t => t.loadTable value

end Sys2Proof.Machine
end

