-- ==== Sys2Proof/Machine/ZenogOps.lean ====
section
/-! DEFINITION. What every Zenog instruction shares: fields, fetch, level and format checks, retiring, waiting, memory
access (R246 to R253, R267). -/

namespace Sys2Proof.Machine

/-! ### Fields (Table 9.1) -/

/-- OP and the fields of the six formats. -/
def zOp (w : Word) : BitVec 6 := w.extractLsb' 26 6
def zRd (w : Word) : BitVec 5 := w.extractLsb' 21 5
def zRs1 (w : Word) : BitVec 5 := w.extractLsb' 16 5
def zRs2 (w : Word) : BitVec 5 := w.extractLsb' 11 5
def zFunc (w : Word) : BitVec 11 := w.extractLsb' 0 11
def zImm (w : Word) : BitVec 16 := w.extractLsb' 0 16
def zOff21 (w : Word) : BitVec 21 := w.extractLsb' 0 21
def zQ (w : Word) : BitVec 4 := w.extractLsb' 12 4
def zSel (w : Word) : BitVec 12 := w.extractLsb' 0 12

/-- sext(imm16), zext(imm16). -/
def zSext (w : Word) : DWord := (zImm w).signExtend 64
def zZext (w : Word) : DWord := (zImm w).setWidth 64

/-- A k register, of a 5-bit field whose bit 4 is zero. -/
def kField (f : BitVec 5) : BitVec 4 := f.extractLsb' 0 4

/-- An OP with its FUNC is listed (R249). -/
def zListed (w : Word) : Bool :=
  let op := (zOp w).toNat
  let f := (zFunc w).toNat
  if op = 0x01 then decide (f % 64 ≤ 0x0F)
  else if op = 0x1D then decide (f % 8 ≠ 7)
  else if op = 0x28 then decide (f ≤ 1)
  else if op = 0x3F then decide (f ≤ 3)
  else (decide (0x02 ≤ op) && decide (op ≤ 0x0C)) || (decide (0x10 ≤ op) && decide (op ≤ 0x1E)) ||
    (decide (0x20 ≤ op) && decide (op ≤ 0x27)) || (decide (0x30 ≤ op) && decide (op ≤ 0x39)) ||
    (decide (0x3C ≤ op) && decide (op ≤ 0x3E))

/-! ### Retiring and waiting -/

/-- Retire the instruction of a context with a next PC. One at or above 2^32 is a fetch fault (R268). -/
def State.advanceTo (s : State) (n : Nat) (t : DWord) : State :=
  let c := s.ctx n
  let s := s.setCtx n { c with pc := t.setWidth 32, retired := c.retired + 1 }
  if t.toNat < 2 ^ 32 then s else s.exception n excFetch (t.setWidth 32)

/-- PC + 4. -/
def Context.next (c : Context) : DWord := c.pc.setWidth 64 + 4

/-- Retire the instruction of a context with PC + 4. -/
def State.advance (s : State) (n : Nat) : State := s.advanceTo n (s.ctx n).next

/-- Write a general register of a context. -/
def State.putG (s : State) (n : Nat) (r : BitVec 5) (v : DWord) : State := s.setCtx n ((s.ctx n).setG r v)

/-- Write a k register of a context. -/
def State.putK (s : State) (n : Nat) (r : BitVec 4) (v : Word) : State :=
  let c := s.ctx n
  s.setCtx n { c with k := c.k.set r.toFin.val v }

/-- Write rd and retire. -/
def State.result (s : State) (n : Nat) (r : BitVec 5) (v : DWord) : State := (s.putG n r v).advance n

/-- A RUNNING context becomes WAITING, and its core switches (R246). -/
def State.waitFor (s : State) (n : Nat) (w : WaitFor) : State :=
  let c := s.ctx n
  if c.state != .running then s else (s.setCtx n { c with state := .waiting, wait := w }).switchFrom n

/-- An access that misses L2 makes the context wait (R246). -/
def State.l2Wait (s : State) (n : Nat) (l2 : L2Access) : State :=
  match l2 with | .hit => s | .miss => s.waitFor n .memory

/-! ### Issue -/

/-- What refuses the fetch of an instruction (R267, R268): the exception's cause and TVAL, recorded by Strainer. -/
def State.fetchRefusal (s : State) (c : Context) : Option (BitVec 5 × Option (StrRefusal × Nat)) :=
  match s.ctxTranslate c permX c.pc.toNat with
  | none => some (excFetch, none)
  | some p =>
    match s.str.firstRefusal false c.attr true permX p 4 with
    | some r => some (excStrainer, some (r.2, r.1))
    | none => none

/-- The line of recipe memory that a context's PC lies in. -/
def State.fetchLine (s : State) (c : Context) : Option Nat := (s.ctxTranslate c permX c.pc.toNat).map fun p => p / 64

/-- The fetch misses L2 (R246). -/
def State.fetchMisses (s : State) (c : Context) : Bool :=
  c.iline != s.fetchLine c && (match s.fetchLine c with | some l => Config.l2Miss s.now l | none => false)

/-- A core issues an instruction of a context: only of the RUNNING one (R246). `mine` says that the word is one of the
command's instruction; a word of another listed instruction is none of this command's and leaves the state as it is. The
word is fetched, by which the context may wait, to issue it again when the line is there; then it is checked for its format
and its level (R248, R249). -/
def State.issue (s : State) (n : Nat) (w : Word) (mine legal level : Bool) (f : Context → State) : State :=
  let c := s.ctx n
  if c.state != .running || (!mine && zListed w) then s
  else match s.fetchRefusal c with
    | some (e, none) => s.exception n e c.pc
    | some (e, some r) => (s.captureRefusal false c.attr permX r.2 r.1).exception n e (BitVec.ofNat 32 r.2)
    | none =>
      if s.fetchMisses c then (s.setCtx n { c with iline := s.fetchLine c }).waitFor n .memory
      else if !mine || !legal then s.exception n excIllegal w
      else if !level then s.exception n excPriv w
      else f c

/-- The word has an OP. -/
def isOp (w : Word) (op : BitVec 6) : Bool := zOp w == op

/-- The word is of the ALU group with a function. -/
def isAlu (w : Word) (f : Nat) : Bool := isOp w 0x01 && (zFunc w).toNat % 64 == f

/-! ### Memory access (R251) -/

/-- An access to recipe memory that is refused: the exception. -/
structure MemFault where
  cause : BitVec 5
  tval : Word
  strained : Option (BitVec 3 × Nat × StrRefusal)

/-- Check an access of `n` bytes at a virtual address: range, alignment, translation, Strainer. The physical address, or the
exception. An AMO needs W of translation (R284), R and W of Strainer (R344). DESIGN CHOICE: the fault of an AMO whose page gives R
and not W, or neither, is the store's (assumption 100). -/
def State.access (s : State) (c : Context) (ea : DWord) (n : Nat) (rd wr : Bool) : Except MemFault Nat :=
  let cause := if wr then excStore else excLoad
  let a := ea.toNat
  let tval : Word := ea.setWidth 32
  if 2 ^ 32 ≤ a then .error ⟨cause, tval, none⟩
  else if a % n ≠ 0 then .error ⟨excMisalign, tval, none⟩
  else
    let need : BitVec 3 := (if rd then permR else 0) ||| (if wr then permW else 0)
    match s.ctxTranslate c (if wr then permW else permR) a with
    | none => .error ⟨cause, tval, none⟩
    | some p =>
      match s.str.firstRefusal false c.attr true need p n with
        | some r => .error ⟨excStrainer, BitVec.ofNat 32 r.1, some (need, r.1, r.2)⟩
        | none => .ok p

/-- Raise the exception of a refused access. -/
def State.memFault (s : State) (n : Nat) (f : MemFault) : State :=
  match f.strained with
  | some x => (s.captureRefusal false (s.ctx n).attr x.1 x.2.1 x.2.2).exception n f.cause f.tval
  | none => s.exception n f.cause f.tval

/-- Bytes of a value. -/
def dwBytes (n : Nat) (v : DWord) : Bytes := leNat n v.toNat

/-- Add stores to a context's own, not yet visible (R253). -/
def State.buffer (s : State) (n : Nat) (p : Nat) (bs : Bytes) : State :=
  let c := s.ctx n
  s.setCtx n { c with stores := c.stores ++ (List.range bs.length).zipWith (fun i b => (p + i, b)) bs }

/-- The store of the bytes that Strainer allows, when it refuses others (R251, R350). -/
def State.bufferAllowed (s : State) (n : Nat) (p : Nat) (bs : Bytes) : State :=
  let c := s.ctx n
  let ok (i : Nat) : Bool := s.str.byteOk false c.attr true permW (p + i)
  let cells : List (Nat × Byte) := (List.range bs.length).zipWith (fun i b => (p + i, b)) bs
  s.setCtx n { c with stores := c.stores ++ cells.filter fun e => ok (e.1 - p) }

/-- A load: `n` bytes at rs1 + sext(imm16), passed on as a number. -/
def State.load (s : State) (n : Nat) (w : Word) (width : Nat) (l2 : L2Access) (put : State → DWord → State) : State :=
  let c := s.ctx n
  match s.access c (c.greg (zRs1 w) + zSext w) width true false with
  | .error f => s.memFault n f
  | .ok p => ((put s (BitVec.ofNat 64 (ofLE (s.ctxRead c p width)))).advance n).l2Wait n l2

/-- A store of `n` bytes at rs1 + sext(imm16). -/
def State.store (s : State) (n : Nat) (w : Word) (width : Nat) (l2 : L2Access) (v : DWord) : State :=
  let c := s.ctx n
  let ea := c.greg (zRs1 w) + zSext w
  match s.access c ea width false true with
  | .error f =>
    let s := match f.strained, s.ctxTranslate c permW ea.toNat with
      | some _, some p => s.bufferAllowed n p (dwBytes width v)
      | _, _ => s
    s.memFault n f
  | .ok p => ((s.buffer n p (dwBytes width v)).advance n).l2Wait n l2

/-! ### AMO (R252) -/

/-- Width of an AMO. -/
def amoWidth (w : Word) : Nat := if (zFunc w).getLsbD 3 then 8 else 4

/-- A result of an AMO: 4 B are sign-extended. -/
def amoResult (w : Word) (v : Nat) : DWord :=
  if (zFunc w).getLsbD 3 then BitVec.ofNat 64 v else (BitVec.ofNat 32 v).signExtend 64

/-- The word is an AMO with an operation. -/
def isAmo (w : Word) (k : Nat) : Bool := isOp w 0x1D && (zFunc w).toNat % 8 == k

/-- FUNC[10:4] is zero. -/
def amoLegal (w : Word) : Bool := decide ((zFunc w).toNat < 16)

/-- An AMO at L2: the context's earlier stores become visible, then the old value and the new one (R252, R253). `f` gives
what is stored, if anything, and what rd becomes. -/
def State.amo (s : State) (n : Nat) (w : Word) (l2 : L2Access)
    (f : Context → Nat → DWord → Option DWord × DWord) (after : Context → Nat → Context) : State :=
  let c := s.ctx n
  let width := amoWidth w
  match s.access c (c.greg (zRs1 w)) width true true with
  | .error e => s.memFault n e
  | .ok p =>
    let s := s.flushStores n
    let c := s.ctx n
    let old := amoResult w (ofLE (memRead s.worlds.recipe p width))
    let x := f c p old
    let s := match x.1 with
      | some v => s.recipeWrite (some n) p (dwBytes width v)
      | none => s
    let s := s.setCtx n (after (s.ctx n) p)
    ((s.putG n (zRd w) x.2).advance n).l2Wait n l2

/-- The context's link watch is armed on the line of an address (R252). -/
def State.armed (s : State) (c : Context) (p : Nat) : Bool :=
  match c.watch with
  | some x => x.1 == p / 64 && decide (s.now < x.2 + 512)
  | none => false

/-- Three-way comparison (R250): −1, 0 or +1. -/
def threeWay (lt eq : Bool) : DWord := if lt then BitVec.allOnes 64 else if eq then 0 else 1

end Sys2Proof.Machine
end

