-- ==== Sys2Proof/Machine/ZenogAlu.lean ====
section
/-! DEFINITION. The meanings of Zenog's arithmetic, immediate, branch, k-move and system instructions (R249, R250). -/

namespace Sys2Proof.Machine

/-- An instruction of the ALU group (R250): FUNC[10:6] is zero. -/
def State.alu (s : State) (n : BitVec 7) (w : Word) (func : Nat) (f : DWord → DWord → DWord) : State :=
  s.issue n.toNat w (isAlu w func) (decide ((zFunc w).toNat < 64)) true fun c =>
    s.result n.toNat (zRd w) (f (c.greg (zRs1 w)) (c.greg (zRs2 w)))

/-- The count of a shift: rs2[5:0]. -/
def shiftCount (b : DWord) : Nat := b.toNat % 64

/-- CMPS of Table 9.3. -/
def cmpSigned (a b : DWord) : DWord := threeWay (a.slt b) (a == b)

/-- CMPU of Table 9.3. -/
def cmpUnsigned (a b : DWord) : DWord := threeWay (a.ult b) (a == b)

/-- ADD. -/
def execAdd (ctx : BitVec 7) (w : Word) (s : State) : Out := s.whilePowered fun s => s.alu ctx w 0x00 fun a b => a + b

/-- SUB. -/
def execSub (ctx : BitVec 7) (w : Word) (s : State) : Out := s.whilePowered fun s => s.alu ctx w 0x01 fun a b => a - b

/-- AND. -/
def execAnd (ctx : BitVec 7) (w : Word) (s : State) : Out := s.whilePowered fun s => s.alu ctx w 0x02 fun a b => a &&& b

/-- OR. -/
def execOr (ctx : BitVec 7) (w : Word) (s : State) : Out := s.whilePowered fun s => s.alu ctx w 0x03 fun a b => a ||| b

/-- XOR. -/
def execXor (ctx : BitVec 7) (w : Word) (s : State) : Out := s.whilePowered fun s => s.alu ctx w 0x04 fun a b => a ^^^ b

/-- SLL. -/
def execSll (ctx : BitVec 7) (w : Word) (s : State) : Out :=
  s.whilePowered fun s => s.alu ctx w 0x05 fun a b => a <<< shiftCount b

/-- SRL. -/
def execSrl (ctx : BitVec 7) (w : Word) (s : State) : Out :=
  s.whilePowered fun s => s.alu ctx w 0x06 fun a b => a >>> shiftCount b

/-- SRA. -/
def execSra (ctx : BitVec 7) (w : Word) (s : State) : Out :=
  s.whilePowered fun s => s.alu ctx w 0x07 fun a b => a.sshiftRight (shiftCount b)

/-- CMPS. -/
def execCmps (ctx : BitVec 7) (w : Word) (s : State) : Out := s.whilePowered fun s => s.alu ctx w 0x08 cmpSigned

/-- CMPU. -/
def execCmpu (ctx : BitVec 7) (w : Word) (s : State) : Out := s.whilePowered fun s => s.alu ctx w 0x09 cmpUnsigned

/-- MUL: the low 64 bits. -/
def execMul (ctx : BitVec 7) (w : Word) (s : State) : Out := s.whilePowered fun s => s.alu ctx w 0x0A fun a b => a * b

/-- MULH: the high 64 bits of the unsigned product. -/
def execMulh (ctx : BitVec 7) (w : Word) (s : State) : Out :=
  s.whilePowered fun s => s.alu ctx w 0x0B fun a b => BitVec.ofNat 64 (a.toNat * b.toNat / 2 ^ 64)

/-- QUOU: zero for a zero divisor. -/
def execQuou (ctx : BitVec 7) (w : Word) (s : State) : Out :=
  s.whilePowered fun s => s.alu ctx w 0x0C fun a b => if b = 0 then 0 else BitVec.ofNat 64 (a.toNat / b.toNat)

/-- MODU: zero for a zero divisor. -/
def execModu (ctx : BitVec 7) (w : Word) (s : State) : Out :=
  s.whilePowered fun s => s.alu ctx w 0x0D fun a b => if b = 0 then 0 else BitVec.ofNat 64 (a.toNat % b.toNat)

/-- MINU. -/
def execMinu (ctx : BitVec 7) (w : Word) (s : State) : Out :=
  s.whilePowered fun s => s.alu ctx w 0x0E fun a b => if a.ult b then a else b

/-- MAXU. -/
def execMaxu (ctx : BitVec 7) (w : Word) (s : State) : Out :=
  s.whilePowered fun s => s.alu ctx w 0x0F fun a b => if a.ult b then b else a

/-! ### Immediates -/

/-- An instruction of format I that writes rd from rs1 and the immediate. -/
def State.immediate (s : State) (n : BitVec 7) (w : Word) (op : BitVec 6) (legal : Bool) (f : DWord → DWord) : State :=
  s.issue n.toNat w (isOp w op) legal true fun c => s.result n.toNat (zRd w) (f (c.greg (zRs1 w)))

/-- A shift's count: imm16[5:0]; the rest is zero. -/
def immCount (w : Word) : Nat := (zImm w).toNat % 64
def immCountLegal (w : Word) : Bool := decide ((zImm w).toNat < 64)

/-- ADDI. -/
def execAddi (ctx : BitVec 7) (w : Word) (s : State) : Out :=
  s.whilePowered fun s => s.immediate ctx w 0x02 true fun a => a + zSext w

/-- ANDI. -/
def execAndi (ctx : BitVec 7) (w : Word) (s : State) : Out :=
  s.whilePowered fun s => s.immediate ctx w 0x03 true fun a => a &&& zZext w

/-- ORI. -/
def execOri (ctx : BitVec 7) (w : Word) (s : State) : Out :=
  s.whilePowered fun s => s.immediate ctx w 0x04 true fun a => a ||| zZext w

/-- XORI. -/
def execXori (ctx : BitVec 7) (w : Word) (s : State) : Out :=
  s.whilePowered fun s => s.immediate ctx w 0x05 true fun a => a ^^^ zZext w

/-- CMPI. -/
def execCmpi (ctx : BitVec 7) (w : Word) (s : State) : Out :=
  s.whilePowered fun s => s.immediate ctx w 0x06 true fun a => cmpSigned a (zSext w)

/-- CMPIU. -/
def execCmpiu (ctx : BitVec 7) (w : Word) (s : State) : Out :=
  s.whilePowered fun s => s.immediate ctx w 0x07 true fun a => cmpUnsigned a (zSext w)

/-- SLLI. -/
def execSlli (ctx : BitVec 7) (w : Word) (s : State) : Out :=
  s.whilePowered fun s => s.immediate ctx w 0x08 (immCountLegal w) fun a => a <<< immCount w

/-- SRLI. -/
def execSrli (ctx : BitVec 7) (w : Word) (s : State) : Out :=
  s.whilePowered fun s => s.immediate ctx w 0x09 (immCountLegal w) fun a => a >>> immCount w

/-- SRAI. -/
def execSrai (ctx : BitVec 7) (w : Word) (s : State) : Out :=
  s.whilePowered fun s => s.immediate ctx w 0x0A (immCountLegal w) fun a => a.sshiftRight (immCount w)

/-- IMMH: the rs1 field is zero. -/
def execImmh (ctx : BitVec 7) (w : Word) (s : State) : Out :=
  s.whilePowered fun s => s.immediate ctx w 0x0B (zRs1 w == 0) fun _ => (zImm w ++ 0#16).signExtend 64

/-- SHORI. -/
def execShori (ctx : BitVec 7) (w : Word) (s : State) : Out :=
  s.whilePowered fun s => s.immediate ctx w 0x0C true fun a => (a <<< 16) ||| zZext w

/-! ### Branches and jumps -/

/-- A branch: rs1 and rs2 of format B, an offset in words. -/
def State.branch (s : State) (n : BitVec 7) (w : Word) (op : BitVec 6) (f : DWord → DWord → Bool) : State :=
  s.issue n.toNat w (isOp w op) true true fun c =>
    if f (c.greg (zRd w)) (c.greg (zRs1 w)) then s.advanceTo n.toNat (c.pc.setWidth 64 + 4 * zSext w)
    else s.advance n.toNat

/-- BEQ. -/
def execBeq (ctx : BitVec 7) (w : Word) (s : State) : Out :=
  s.whilePowered fun s => s.branch ctx w 0x20 fun a b => a == b

/-- BNE. -/
def execBne (ctx : BitVec 7) (w : Word) (s : State) : Out :=
  s.whilePowered fun s => s.branch ctx w 0x21 fun a b => a != b

/-- BLT. -/
def execBlt (ctx : BitVec 7) (w : Word) (s : State) : Out :=
  s.whilePowered fun s => s.branch ctx w 0x22 fun a b => a.slt b

/-- BGE. -/
def execBge (ctx : BitVec 7) (w : Word) (s : State) : Out :=
  s.whilePowered fun s => s.branch ctx w 0x23 fun a b => !a.slt b

/-- BLTU. -/
def execBltu (ctx : BitVec 7) (w : Word) (s : State) : Out :=
  s.whilePowered fun s => s.branch ctx w 0x24 fun a b => a.ult b

/-- BGEU. -/
def execBgeu (ctx : BitVec 7) (w : Word) (s : State) : Out :=
  s.whilePowered fun s => s.branch ctx w 0x25 fun a b => !a.ult b

/-- JAL: rd ← PC + 4, then the jump. -/
def execJal (ctx : BitVec 7) (w : Word) (s : State) : Out :=
  s.whilePowered fun s => s.issue ctx.toNat w (isOp w 0x26) true true fun c =>
    (s.putG ctx.toNat (zRd w) c.next).advanceTo ctx.toNat (c.pc.setWidth 64 + 4 * (zOff21 w).signExtend 64)

/-- JALR: the target is taken from rs1 before rd is written; it must be a multiple of 4 (R268). -/
def execJalr (ctx : BitVec 7) (w : Word) (s : State) : Out :=
  s.whilePowered fun s => s.issue ctx.toNat w (isOp w 0x27) true true fun c =>
    let t := c.greg (zRs1 w) + zSext w
    if t.extractLsb' 0 2 ≠ 0 then s.exception ctx.toNat excMisalign (t.setWidth 32)
    else (s.putG ctx.toNat (zRd w) c.next).advanceTo ctx.toNat t

/-! ### k moves -/

/-- The word is of the KMOV group with a function. -/
def isKmov (w : Word) (f : BitVec 11) : Bool := isOp w 0x28 && zFunc w == f

/-- KFROMG. -/
def execKfromg (ctx : BitVec 7) (w : Word) (s : State) : Out :=
  s.whilePowered fun s =>
    s.issue ctx.toNat w (isKmov w 0) (zRs2 w == 0 && !(zRd w).getLsbD 4) true fun c =>
      (s.putK ctx.toNat (kField (zRd w)) ((c.greg (zRs1 w)).setWidth 32)).advance ctx.toNat

/-- KTOG. -/
def execKtog (ctx : BitVec 7) (w : Word) (s : State) : Out :=
  s.whilePowered fun s =>
    s.issue ctx.toNat w (isKmov w 1) (zRs2 w == 0 && !(zRs1 w).getLsbD 4) true fun c =>
      s.result ctx.toNat (zRd w) (c.k[(kField (zRs1 w)).toFin.val].setWidth 64)

/-! ### The system group -/

/-- The word is of the SYS group with a function. -/
def isSys (w : Word) (f : BitVec 11) : Bool := isOp w 0x3F && zFunc w == f

/-- The register fields of a word of format R are zero. -/
def noRegs (w : Word) : Bool := zRd w == 0 && zRs1 w == 0 && zRs2 w == 0

/-- NOP. -/
def execNop (ctx : BitVec 7) (w : Word) (s : State) : Out :=
  s.whilePowered fun s => s.issue ctx.toNat w (isSys w 0) (noRegs w) true fun _ => s.advance ctx.toNat

/-- YIELD: the context stays READY and the core switches. -/
def execYield (ctx : BitVec 7) (w : Word) (s : State) : Out :=
  s.whilePowered fun s => s.issue ctx.toNat w (isSys w 1) (noRegs w) true fun _ =>
    let s := s.advance ctx.toNat
    let c := s.ctx ctx.toNat
    if c.state != .running then s
    else (s.setCtx ctx.toNat { c with state := .ready }).switchFrom ctx.toNat

/-- HALT. -/
def execHalt (ctx : BitVec 7) (w : Word) (s : State) : Out :=
  s.whilePowered fun s => s.issue ctx.toNat w (isSys w 2) (noRegs w) true fun _ =>
    let s := s.advance ctx.toNat
    let c := s.ctx ctx.toNat
    if c.state != .running then s
    else (s.setCtx ctx.toNat { c with state := .halted }).switchFrom ctx.toNat

/-- BRK raises BREAK. -/
def execBrk (ctx : BitVec 7) (w : Word) (s : State) : Out :=
  s.whilePowered fun s => s.issue ctx.toNat w (isSys w 3) (noRegs w) true fun _ => s.exception ctx.toNat excBreak 0

end Sys2Proof.Machine
end

