-- ==== Sys2Proof/Machine/ZenogMemory.lean ====
section
/-! DEFINITION. The meanings of Zenog's loads, stores, AMOs and FENCE (R251 to R253). -/

namespace Sys2Proof.Machine

/-- A load instruction into a general register. -/
def State.loadG (s : State) (n : BitVec 7) (w : Word) (op : BitVec 6) (width : Nat) (l2 : L2Access)
    (ext : DWord → DWord) : State :=
  s.issue n.toNat w (isOp w op) true true fun _ =>
    s.load n.toNat w width l2 fun t v => t.putG n.toNat (zRd w) (ext v)

/-- LB. -/
def execLb (ctx : BitVec 7) (w : Word) (l2 : L2Access) (s : State) : Out :=
  s.whilePowered fun s => s.loadG ctx w 0x10 1 l2 fun v => (v.setWidth 8).signExtend 64

/-- LBU. -/
def execLbu (ctx : BitVec 7) (w : Word) (l2 : L2Access) (s : State) : Out :=
  s.whilePowered fun s => s.loadG ctx w 0x11 1 l2 id

/-- LH. -/
def execLh (ctx : BitVec 7) (w : Word) (l2 : L2Access) (s : State) : Out :=
  s.whilePowered fun s => s.loadG ctx w 0x12 2 l2 fun v => (v.setWidth 16).signExtend 64

/-- LHU. -/
def execLhu (ctx : BitVec 7) (w : Word) (l2 : L2Access) (s : State) : Out :=
  s.whilePowered fun s => s.loadG ctx w 0x13 2 l2 id

/-- LW. -/
def execLw (ctx : BitVec 7) (w : Word) (l2 : L2Access) (s : State) : Out :=
  s.whilePowered fun s => s.loadG ctx w 0x14 4 l2 fun v => (v.setWidth 32).signExtend 64

/-- LWU. -/
def execLwu (ctx : BitVec 7) (w : Word) (l2 : L2Access) (s : State) : Out :=
  s.whilePowered fun s => s.loadG ctx w 0x15 4 l2 id

/-- LD. -/
def execLd (ctx : BitVec 7) (w : Word) (l2 : L2Access) (s : State) : Out :=
  s.whilePowered fun s => s.loadG ctx w 0x16 8 l2 id

/-- KLD. -/
def execKld (ctx : BitVec 7) (w : Word) (l2 : L2Access) (s : State) : Out :=
  s.whilePowered fun s => s.issue ctx.toNat w (isOp w 0x17) (!(zRd w).getLsbD 4) true fun _ =>
    s.load ctx.toNat w 4 l2 fun t v => t.putK ctx.toNat (kField (zRd w)) (v.setWidth 32)

/-- A store instruction from a general register: rs2 is the first field of format S. -/
def State.storeG (s : State) (n : BitVec 7) (w : Word) (op : BitVec 6) (width : Nat) (l2 : L2Access) : State :=
  s.issue n.toNat w (isOp w op) true true fun c => s.store n.toNat w width l2 (c.greg (zRd w))

/-- SB. -/
def execSb (ctx : BitVec 7) (w : Word) (l2 : L2Access) (s : State) : Out := s.whilePowered fun s => s.storeG ctx w 0x18 1 l2

/-- SH. -/
def execSh (ctx : BitVec 7) (w : Word) (l2 : L2Access) (s : State) : Out := s.whilePowered fun s => s.storeG ctx w 0x19 2 l2

/-- SW. -/
def execSw (ctx : BitVec 7) (w : Word) (l2 : L2Access) (s : State) : Out := s.whilePowered fun s => s.storeG ctx w 0x1A 4 l2

/-- SD. -/
def execSd (ctx : BitVec 7) (w : Word) (l2 : L2Access) (s : State) : Out := s.whilePowered fun s => s.storeG ctx w 0x1B 8 l2

/-- KST. -/
def execKst (ctx : BitVec 7) (w : Word) (l2 : L2Access) (s : State) : Out :=
  s.whilePowered fun s => s.issue ctx.toNat w (isOp w 0x1C) (!(zRd w).getLsbD 4) true fun c =>
    s.store ctx.toNat w 4 l2 (c.k[(kField (zRd w)).toFin.val].setWidth 64)

/-! ### AMO -/

/-- LINK: the value, and the link watch on its line. It has no rs2. -/
def execLink (ctx : BitVec 7) (w : Word) (l2 : L2Access) (s : State) : Out :=
  s.whilePowered fun s => s.issue ctx.toNat w (isAmo w 0) (amoLegal w && zRs2 w == 0) true fun _ =>
    s.amo ctx.toNat w l2 (fun _ _ old => (none, old)) fun c p => { c with watch := some (p / 64, s.now) }

/-- CLAIM: stores only if the watch is armed on the line, and disarms it. -/
def execClaim (ctx : BitVec 7) (w : Word) (l2 : L2Access) (s : State) : Out :=
  s.whilePowered fun s => s.issue ctx.toNat w (isAmo w 1) (amoLegal w) true fun _ =>
    s.amo ctx.toNat w l2
      (fun c p _ => if s.armed c p then (some (c.greg (zRs2 w)), 1) else (none, 0)) fun c _ => { c with watch := none }

/-- A fetch operation: the new value from the old and rs2; the old value in rd. -/
def State.fetchOp (s : State) (n : BitVec 7) (w : Word) (k : Nat) (l2 : L2Access) (f : DWord → DWord → DWord) : State :=
  s.issue n.toNat w (isAmo w k) (amoLegal w) true fun _ =>
    s.amo n.toNat w l2 (fun c _ old => (some (f old (c.greg (zRs2 w))), old)) fun c _ => c

/-- XCHG. -/
def execXchg (ctx : BitVec 7) (w : Word) (l2 : L2Access) (s : State) : Out :=
  s.whilePowered fun s => s.fetchOp ctx w 2 l2 fun _ b => b

/-- FADD. -/
def execFadd (ctx : BitVec 7) (w : Word) (l2 : L2Access) (s : State) : Out :=
  s.whilePowered fun s => s.fetchOp ctx w 3 l2 fun a b => a + b

/-- FAND. -/
def execFand (ctx : BitVec 7) (w : Word) (l2 : L2Access) (s : State) : Out :=
  s.whilePowered fun s => s.fetchOp ctx w 4 l2 fun a b => a &&& b

/-- FOR. -/
def execAmoFor (ctx : BitVec 7) (w : Word) (l2 : L2Access) (s : State) : Out :=
  s.whilePowered fun s => s.fetchOp ctx w 5 l2 fun a b => a ||| b

/-- CAS: the incoming rd is compared at the operation's width. -/
def execCas (ctx : BitVec 7) (w : Word) (l2 : L2Access) (s : State) : Out :=
  s.whilePowered fun s => s.issue ctx.toNat w (isAmo w 6) (amoLegal w) true fun _ =>
    s.amo ctx.toNat w l2
      (fun c _ old =>
        let want := amoResult w ((c.greg (zRd w)).toNat % 256 ^ amoWidth w)
        (if old = want then some (c.greg (zRs2 w)) else none, old)) fun c _ => c

/-- 512 cycles after the LINK the watch is disarmed (R252). -/
def execLinkWatchExpiry (ctx : BitVec 7) (s : State) : Out :=
  s.whilePowered fun s =>
    let c := s.ctx ctx.toNat
    s.setCtx ctx.toNat { c with watch := none }

/-- FENCE: every earlier store of the context is visible at L2. All fields are zero. -/
def execFence (ctx : BitVec 7) (w : Word) (s : State) : Out :=
  s.whilePowered fun s => s.issue ctx.toNat w (isOp w 0x1E) (w.setWidth 26 == 0#26) true fun _ =>
    (s.flushStores ctx.toNat).advance ctx.toNat

end Sys2Proof.Machine
end

