-- ==== Sys2Proof/Machine/ZenogQueue.lean ====
section
/-! DEFINITION. The meanings of Zenog's job-queue, timeline and event instructions, and of a wake (R246, R259 to R266). -/

namespace Sys2Proof.Machine

/-! ### Posting (R259, R260) -/

/-- Where the completion of an entry goes. -/
def queueOrigin (n : Nat) (q : BitVec 2) (i : Word) : Origin := .queue (BitVec.ofNat 7 n) q i

/-- A queue of a context. -/
def Context.queue (c : Context) (q : BitVec 2) : Queue := c.queues[q.toFin.val]

/-- Change a queue of a context. -/
def State.setQueue (s : State) (n : Nat) (q : BitVec 2) (x : Queue) : State :=
  let c := s.ctx n
  s.setCtx n { c with queues := c.queues.set q.toFin.val x }

/-- An open chain ends with a verdict, its completion carrying an index (R259): its copies leave the cache. -/
def State.breakChain (s : State) (n : Nat) (q : BitVec 2) (i : Word) (v : Verdict) : State :=
  let c := s.ctx n
  let s := s.setCtx n { c with dcache := c.dcache.filter fun e => !(e.q == q && e.job.isNone) }
  let s := s.setQueue n q { (s.ctx n).queue q with openAt := none }
  s.complete (queueOrigin n q i) v false 0

/-- MALFORMED, RESERVED_NONZERO. -/
abbrev vMalformedHeader : Verdict := verdict St.malformed 0x21

/-- The chain that a LAST entry closes becomes a job (R259, R329). One of whose copies was dropped by JQINV is read again when it
starts, and is checked then (R261). -/
def State.closeChain (s : State) (n : Nat) (q : BitVec 2) (i : Word) (host : Bytes) : State :=
  let c := s.ctx n
  let mine := c.dcache.filter fun e => e.q == q && e.job.isNone
  let bodies := mine.map fun e => e.copy.getD []
  let u := c.submission n q i (bodies.headD []) host
  match (if mine.all fun e => e.copy.isSome then u.withChain ((bodies.drop 1).map entryBody) else .ok u) with
  | .error v => s.breakChain n q i v
  | .ok u =>
    let s := s.setCtx n { c with
      dcache := c.dcache.map fun e => if e.q == q && e.job.isNone then { e with job := some i } else e }
    let s := s.setQueue n q { (s.ctx n).queue q with openAt := none }
    s.submit (octet 0 u.block) u

/-- One entry is posted: TAIL passes it, its header is checked, it joins a chain, and a chain that it closes becomes a
job. `host` holds the host octets of the jobs still to come. -/
def State.postEntry (s : State) (n : Nat) (q : BitVec 2) (raw : Bytes) (host : List Bytes) : State × List Bytes :=
  let qu := (s.ctx n).queue q
  let i := qu.tail
  let s := s.setQueue n q { qu with tail := i + 1 }
  let opened := qu.openAt.isSome
  if entryBad raw then
    let s := if opened then s.breakChain n q (i - 1) vMalformedHeader else s
    (s.complete (queueOrigin n q i) vMalformedHeader false 0, host)
  else if !entryFirst raw && !opened then (s.complete (queueOrigin n q i) vMalformedHeader false 0, host)
  else
    let s := if entryFirst raw && opened then s.breakChain n q (i - 1) vMalformedHeader else s
    let c := s.ctx n
    let e : CachedEntry := { q := q, index := i, job := none, copy := some (substituteK c.k raw), k := c.k }
    let s := s.setCtx n { c with dcache := c.dcache ++ [e] }
    let s := if entryFirst raw then s.setQueue n q { (s.ctx n).queue q with openAt := some i } else s
    let from_ := ((s.ctx n).queue q).openAt.getD i
    if !entryFirst raw && (fragmentsOf (entryBody raw)).isNone then (s.breakChain n q i vBadFragment, host)
    else if entryLast raw then (s.closeChain n q i (host.headD []), host.drop 1)
    else if (i - from_).toNat = 31 then (s.breakChain n q i vMalformedHeader, host)
    else (s, host)

/-- Post the entries from TAIL on, as many as are left. An entry whose read misses L2 is read again after the wait
(R246). -/
def State.postAll (s : State) (n : Nat) (q : BitVec 2) (host : List Bytes) : Nat → State
  | 0 => s.advance n
  | k + 1 =>
    let c := s.ctx n
    let qu := c.queue q
    if c.state != .running then s
    else if 64 ≤ c.cached then s.waitFor n .dcache
    else
      let va := qu.slotAt qu.tail
      match s.ctxTranslate c permR va with
      | none => s.exception n excLoad (BitVec.ofNat 32 va)
      | some p =>
        match s.str.firstRefusal false c.attr true permR p 64 with
        | some r =>
          (s.captureRefusal false c.attr permR r.1 r.2).exception n excStrainer (BitVec.ofNat 32 r.1)
        | none =>
          if c.dline != some (p / 64) && Config.l2Miss s.now (p / 64) then
            (s.setCtx n { c with dline := some (p / 64) }).waitFor n .memory
          else
            let x := s.postEntry n q (memRead s.worlds.recipe p 64) host
            x.1.postAll n q x.2 k

/-- q of format X: a queue number. -/
def zQueue (w : Word) : BitVec 2 := (zQ w).extractLsb' 0 2

/-- q is from 0 to 3, and SEL is zero. -/
def zQueueLegal (w : Word) : Bool := decide ((zQ w).toNat < 4) && zSel w == 0

/-- JQPOST (R260): the context's earlier stores become visible, then the entries from TAIL to rs1 − 1 are read. -/
def execJqpost (ctx : BitVec 7) (w : Word) (host : List Bytes) (s : State) : Out :=
  s.whilePowered fun s => s.issue ctx.toNat w (isOp w 0x34) (zQueueLegal w && zRd w == 0) true fun c =>
    let qu := c.queue (zQueue w)
    let rs1 : Word := (c.greg (zRs1 w)).setWidth 32
    let size := 2 ^ qu.sizeLog2.toNat
    if !qu.enable then s.exception ctx.toNat excJqConfig ((zQ w).setWidth 32)
    else if size < (rs1 - qu.tail).toNat ∨ size < (rs1 - qu.chead).toNat then s.exception ctx.toNat excJqOverrun rs1
    else (s.flushStores ctx.toNat).postAll ctx.toNat (zQueue w) host (rs1 - qu.tail).toNat

/-- The job of an entry has begun although its copy is still held: it has not reached that entry of its chain, or it is a command
that runs on no engine and waits for its draw. -/
def State.jobBegun (s : State) (n : Nat) (q : BitVec 2) (e : CachedEntry) : Bool :=
  match e.job with
  | none => false
  | some i => s.eng.jobs.any fun j => j.sub.origin == queueOrigin n q i &&
      (j.begun || j.stage == .running || (j.stage == .entropy && engineless j.sub.op))

/-- JQINV (R261): 1 if the entry is posted and its job has not started; its copy is dropped. -/
def execJqinv (ctx : BitVec 7) (w : Word) (s : State) : Out :=
  s.whilePowered fun s => s.issue ctx.toNat w (isOp w 0x35) (zQueueLegal w) true fun c =>
    let q := zQueue w
    let i : Word := (c.greg (zRs1 w)).setWidth 32
    if !(c.queue q).enable then s.exception ctx.toNat excJqConfig ((zQ w).setWidth 32)
    else
      let hit (e : CachedEntry) : Bool := e.q == q && e.index == i && !s.jobBegun ctx.toNat q e
      if c.dcache.any hit then
        let d := c.dcache.map fun e => if hit e then { e with copy := none, k := c.k } else e
        (s.setCtx ctx.toNat { c with dcache := d }).result ctx.toNat (zRd w) 1
      else s.result ctx.toNat (zRd w) 0

/-- The condition of JQWAIT (R263). -/
def jqReady (cdone target : Word) : Bool :=
  let d := (cdone - target).toNat
  decide (1 ≤ d) && decide (d ≤ 2 ^ 31)

/-- JQWAIT (R263). -/
def execJqwait (ctx : BitVec 7) (w : Word) (s : State) : Out :=
  s.whilePowered fun s => s.issue ctx.toNat w (isOp w 0x36) (zQueueLegal w) true fun c =>
    let qu := c.queue (zQueue w)
    let t : Word := (c.greg (zRs1 w)).setWidth 32
    if !qu.enable then s.exception ctx.toNat excJqConfig ((zQ w).setWidth 32)
    else if jqReady qu.cdone t then s.result ctx.toNat (zRd w) (qu.cdone.setWidth 64)
    else (s.advance ctx.toNat).waitFor ctx.toNat (.jqwait (zRd w) (zQueue w) t)

/-! ### Time and events -/

/-- TLREAD (R264). -/
def execTlread (ctx : BitVec 7) (w : Word) (s : State) : Out :=
  s.whilePowered fun s =>
    s.issue ctx.toNat w (isOp w 0x37) (zRs1 w == 0 && (w.setWidth 16 : BitVec 16) == 0) true fun _ =>
      s.result ctx.toNat (zRd w) s.tl.ns

/-- The calendar entry of a TLWAIT (R207, R265): an N context's is of its slice, another's takes a reserved place. -/
def wakeEntry (c : Context) (n atUs : Nat) : CalEntry :=
  { atUs := BitVec.ofNat 64 atUs, period := 0, kind := kindWake
    slice := match c.level with | .n => c.slice.setWidth 8 | _ => 0xFF
    late := false, arg := BitVec.ofNat 32 n, tag := 0
    level := match c.level with | .s => 1 | .h => 2 | .n => 3
    due := none }

/-- TLWAIT (R207, R265). A target that has passed returns at once. In Start-up and Erased only S places an entry (Table
16.2). -/
def execTlwait (ctx : BitVec 7) (w : Word) (s : State) : Out :=
  s.whilePowered fun s =>
    s.issue ctx.toNat w (isOp w 0x38) ((w.setWidth 16 : BitVec 16) == 0) true fun c =>
      let n := ctx.toNat
      let t := c.greg (zRs1 w)
      let atUs := ceilUs t.toNat
      let closed := c.level != .s && (s.modes.mode == Mode.startup || s.modes.mode == Mode.erased)
      if t.toNat ≤ s.tl.ns.toNat then s.result n (zRd w) 0
      else if decide (2 ^ 54 ≤ atUs) || closed then s.result n (zRd w) 3
      else match s.calAdd false (wakeEntry c n atUs) with
        | .error _ => s.result n (zRd w) 3
        | .ok r => (r.2.advance n).waitFor n (.tlwait (zRd w))

/-- Give an event to EVWAIT's two registers (R266). -/
def Context.takeEvent (c : Context) (rd rs2 : BitVec 5) (e : Event) : Context :=
  (c.setG rd (e.tag ++ e.arg)).setG rs2 ((e.kind.setWidth 32 : Word) ++ e.index)

/-- EVWAIT (R266). -/
def execEvwait (ctx : BitVec 7) (w : Word) (s : State) : Out :=
  s.whilePowered fun s =>
    s.issue ctx.toNat w (isOp w 0x39) (zRs1 w == 0 && decide ((zFunc w).toNat < 2)) true fun c =>
      let n := ctx.toNat
      let q := sparseGet EventQueue.empty s.worlds.queues c.queueKey
      match q.events with
      | e :: es =>
        let q := { q with events := es }
        let s := { s with worlds := { s.worlds with
          queues := sparseSet EventQueue.empty s.worlds.queues c.queueKey q } }
        (s.setCtx n (c.takeEvent (zRd w) (zRs2 w) e)).advance n
      | [] =>
        if (zFunc w).getLsbD 0 then (s.setCtx n ((c.setG (zRd w) 0).setG (zRs2 w) 0)).advance n
        else (s.advance n).waitFor n (.evwait (zRd w) (zRs2 w))

/-- The condition of a WAITING context is satisfied (R246): an access has its answer, the cache has room, or a queue has
completed what JQWAIT named. TLWAIT and EVWAIT end with their entry or event. -/
def execContextWake (ctx : BitVec 7) (s : State) : Out :=
  s.whilePowered fun s =>
    let n := ctx.toNat
    let c := s.ctx n
    if c.state != .waiting then s
    else match c.wait with
      | .memory => s.wake n false
      | .special => s.wake n false
      | .dcache => if c.cached < 64 then s.wake n false else s
      | .jqwait rd q t =>
        let d := (c.queue q).cdone
        if jqReady d t then (s.putG n rd (d.setWidth 64)).wake n false else s
      | _ => s

end Sys2Proof.Machine
end

