-- ==== Sys2Proof/Machine/ContextOps.lean ====
section
/-! DEFINITION. Starting, resuming and resetting contexts; gateway calls (R269, R279, R283, R291 to R293). -/

namespace Sys2Proof.Machine

/-- The level a context was started at: a gate call keeps it in its frame. -/
def Context.startLevel (c : Context) : Level := match c.gate with | some f => f.level | none => c.level

/-- A level may control a context (R269): S all, H those of level N. -/
def mayControl (by_ : Level) (c : Context) : Bool :=
  match by_ with
  | .s => true
  | .h => c.startLevel == .n
  | .n => false

/-- Start a context at its PC with registers cleared, its level's map bound (R269, R283). -/
def State.startCtx (s : State) (n : Nat) (level : Level) (sl : BitVec 6) : State :=
  let s := s.flushStores n
  let c := s.ctx n
  let s := s.setCtx n { c with
    state := .ready, wait := .none, g := Vector.replicate 32 0, k := Vector.replicate 16 0, level := level,
    slice := (if level = .n then sl else 0), map := s.mapFor level sl, scratch0 := 0, scratch1 := 0, retired := 0,
    gate := none, resetHeld := false, iline := none, dline := none }
  s.switchFrom n

/-- START (R269, R279, R283): ignored out of IDLE, HALTED and FAULTED, for context 0 at another level than S, with an
empty map, and at N and H in Start-up and Erased (Table 16.2). -/
def State.ctxStart (s : State) (n : Nat) : State :=
  let c := s.ctx n
  let ok := c.state == .idle || c.state == .halted || c.state == .faulted
  if !ok || (n == 0 && c.ctlLevel != .s) || (s.mapFor c.ctlLevel c.ctlSlice).isEmpty then s
  else if c.ctlLevel != .s && (s.modes.mode == Mode.startup || s.modes.mode == Mode.erased) then s
  else s.startCtx n c.ctlLevel c.ctlSlice

/-- RESUME (R269): from FAULTED, registers kept. -/
def State.ctxResume (s : State) (n : Nat) : State :=
  let c := s.ctx n
  if c.state != .faulted then s else (s.setCtx n { c with state := .ready, wait := .none }).switchFrom n

/-- The jobs of a context's queues end with ABORTED_QUIESCE (R263, R269): those that have not started at once, the others at their
next boundary. Each writes its completion. -/
def State.abortQueues (s : State) (n : Nat) : State :=
  let mine (j : Job) : Bool := match j.sub.origin with | .queue k _ _ => k.toNat == n | _ => false
  let waiting := (s.eng.jobs.filter fun j => mine j && !j.started && j.stage != .running).map Job.id
  let s := waiting.foldl (fun t id => t.finish id vAborted 0) s
  let jobs := s.eng.jobs.map fun j => if mine j then { j with ending := some vAborted } else j
  { s with eng := { s.eng with jobs := jobs } }

/-- A queue that is disabled: its registers stay. -/
def Queue.disabled (x : Queue) : Queue := { x with enable := false, openAt := none }

/-- Return a context to IDLE (R269): registers cleared, queues disabled, cache and watch cleared, its wait ended. -/
def State.resetCtx (s : State) (n : Nat) : State :=
  let s := (s.abortQueues n).flushStores n
  let c := s.ctx n
  let s := s.setCtx n { c with
    state := .idle, wait := .none, g := Vector.replicate 32 0, k := Vector.replicate 16 0,
    queues := c.queues.map Queue.disabled, dcache := [], watch := none, gate := none, resetHeld := false }
  ((s.calRemove fun e => e.kind == kindWake && e.arg.toNat == n).settle).switchFrom n

/-- RESET (R269): in a gate call it takes effect at the GRET (R293). -/
def State.ctxReset (s : State) (n : Nat) : State :=
  let c := s.ctx n
  if c.gate.isSome then s.setCtx n { c with resetHeld := true } else s.resetCtx n

/-- The level of a context may write the context control registers (R269); from N the write is SR_DENIED. -/
def State.ctxControl (s : State) (n : Nat) (f : State → Nat → State) : State :=
  let c := s.ctx n
  if c.state != .running then s
  else if c.level = .n then s.exception n excSrDenied (0xFC1 : Word)
  else
    let t := c.sel.toNat
    if mayControl c.level (s.ctx t) then f s t else s

/-- CORE_CTX_CTL.CMD 1, for the context that CORE_CTX_SEL of the issuing context names. -/
def execCtxStart (ctx : BitVec 7) (s : State) : Out :=
  s.whilePowered fun s => s.ctxControl ctx.toNat State.ctxStart

/-- CORE_CTX_CTL.CMD 2. -/
def execCtxResume (ctx : BitVec 7) (s : State) : Out :=
  s.whilePowered fun s => s.ctxControl ctx.toNat State.ctxResume

/-- CORE_CTX_CTL.CMD 3. -/
def execCtxReset (ctx : BitVec 7) (s : State) : Out :=
  s.whilePowered fun s => s.ctxControl ctx.toNat State.ctxReset

/-! ### Gateway calls -/

/-- SVC_UNAVAILABLE as GATE writes it to rd. -/
abbrev gateUnavailable : DWord := 0x0502

/-- The physical address that map 65 gives for reading or fetching (R291, R292). -/
def State.kernelAt (s : State) (need : BitVec 3) (va : Nat) : Option Nat :=
  s.translate .s 0 (s.mapFor .s 0) need va

/-- The TARGET of a gateway entry that admits a level and points at a GPAD (R291 steps 2 to 4, R292). -/
def State.gateTarget (s : State) (level : Level) (index : Nat) : Option Nat :=
  if s.worlds.gateCnt.toNat ≤ index then none
  else match s.kernelAt permR (s.worlds.gateBase.toNat + 8 * index) with
    | none => none
    | some p =>
      let e : DWord := BitVec.ofNat 64 (ofLE (memRead s.worlds.recipe p 8))
      let target := (e.setWidth 32 : Word).toNat
      let allowed := match level with | .n => e.getLsbD 33 | .h => e.getLsbD 34 | .s => false
      if e.extractLsb' 35 29 ≠ 0 || !e.getLsbD 32 || !allowed || target % 4 ≠ 0 then none
      else match s.kernelAt permX target with
        | none => none
        | some p => if ofLE (memRead s.worlds.recipe p 4) = 0xF4000000 then some target else none

/-- GATE (R291). -/
def execGate (ctx : BitVec 7) (w : Word) (s : State) : Out :=
  s.whilePowered fun s => s.issue ctx.toNat w (isOp w 0x3C) (zRs1 w == 0) ((s.ctx ctx.toNat).level != .s) fun c =>
    let n := ctx.toNat
    if s.worlds.kstate != .running then s.result n (zRd w) gateUnavailable
    else match s.gateTarget c.level (zImm w).toNat with
      | none => s.exception n excGate ((zImm w).setWidth 32)
      | some t =>
        let s := s.flushStores n
        let c := s.ctx n
        let f : GateFrame := { pc := c.next.setWidth 32, level := c.level, rd := zRd w, map := c.map }
        let s := s.setCtx n { c with
          gate := some f, level := .s, map := s.mapFor .s 0, pc := BitVec.ofNat 32 (t + 4), ranFrom := s.now,
          retired := c.retired + 1 }
        s.worldSwitch n

/-- GPAD: a marker; otherwise it acts as NOP (R293). All fields are zero. -/
def execGpad (ctx : BitVec 7) (w : Word) (s : State) : Out :=
  s.whilePowered fun s =>
    s.issue ctx.toNat w (isOp w 0x3D) (w.setWidth 26 == 0#26) ((s.ctx ctx.toNat).level == .s) fun _ =>
      s.advance ctx.toNat

/-- Return a context from a gate call with a value for the caller's rd: the caller's level and map come back, the world
switch runs, it continues at the return PC, and a held reset takes effect (R293). -/
def State.gateReturn (s : State) (n : Nat) (f : GateFrame) (v : DWord) : State :=
  let s := s.flushStores n
  let c := (s.ctx n).setG f.rd v
  let s := s.setCtx n { c with gate := none, level := f.level, map := f.map, pc := f.pc, retired := c.retired + 1 }
  let s := s.worldSwitch n
  if c.resetHeld then s.resetCtx n else s

/-- GRET (R293): without a gate frame it raises ILLEGAL. -/
def execGret (ctx : BitVec 7) (w : Word) (s : State) : Out :=
  s.whilePowered fun s =>
    s.issue ctx.toNat w (isOp w 0x3E) (w.setWidth 26 == 0#26) ((s.ctx ctx.toNat).level == .s) fun c =>
      match c.gate with
      | none => s.exception ctx.toNat excIllegal w
      | some f => s.gateReturn ctx.toNat f (c.greg 1)

end Sys2Proof.Machine
end

