-- ==== Sys2Proof/Machine/WorldOps.lean ====
section
/-! DEFINITION. Recipe images and their admission; the kernel loader; the steps of a secure-world restart (R270 to R275,
R285, R299 to R306, R336). -/

namespace Sys2Proof.Machine

/-! ### Segments of images (R271, R300) -/

/-- A segment descriptor. -/
structure ImgSeg where
  vbase : Nat
  off : Nat
  flen : Nat
  mlen : Nat
  perm : BitVec 3
  top : Bool
  deriving DecidableEq

/-- Read the descriptors that follow a 64 B header. -/
def imgSegs (img : Bytes) (n : Nat) : List ImgSeg :=
  (List.range n).map fun i =>
    let o := 64 + 16 * i
    let w : Word := fieldLE 32 (o + 12) 4 img
    { vbase := ofLE (slice o 4 img), off := ofLE (slice (o + 4) 4 img), flen := ofLE (slice (o + 8) 4 img)
      mlen := (w.extractLsb' 0 28).toNat, perm := w.extractLsb' 28 3, top := w.getLsbD 31 }

/-- Two segments overlap in virtual space. -/
def ImgSeg.overlaps (a b : ImgSeg) : Bool := decide (a.vbase < b.vbase + b.mlen) && decide (b.vbase < a.vbase + a.mlen)

/-- No two of a list overlap. -/
def disjoint : List ImgSeg → Bool
  | [] => true
  | g :: gs => !(gs.any fun h => g.overlaps h) && disjoint gs

/-- The segments are well-formed (R271). -/
def segsOk (segs : List ImgSeg) (total entry : Nat) : Bool :=
  segs.all (fun g => !g.top && g.vbase % 4096 == 0 && decide (g.flen ≤ g.mlen) &&
    !(g.perm.getLsbD 1 && g.perm.getLsbD 2) && decide (64 + 16 * segs.length ≤ g.off || g.flen = 0) &&
    decide (g.off + g.flen ≤ total) && decide (g.vbase + g.mlen ≤ 2 ^ 32)) &&
  disjoint segs &&
  segs.any fun g => g.perm.getLsbD 2 && decide (g.vbase ≤ entry) && decide (entry < g.vbase + g.mlen)

/-- The map segment of a descriptor placed at an output base. -/
def ImgSeg.mapped (g : ImgSeg) (obase : Nat) : MapSeg :=
  { vbase := BitVec.ofNat 32 g.vbase, len := BitVec.ofNat 28 g.mlen, obase := BitVec.ofNat 32 obase, perm := g.perm }

/-- Bytes of a segment in memory: its payload, zero-filled. -/
def ImgSeg.bytes (g : ImgSeg) (img : Bytes) : Bytes := fit g.mlen (slice g.off g.flen img)

/-! ### Recipe images (R270, R272) -/

/-- The header of a recipe image is well-formed, and the declared length is its own (Tables 9.11, 9.12). -/
def imgHeaderOk (img : Bytes) (declared : Nat) : Bool :=
  let alg := octet 8 img
  let nseg := (octet 9 img).toNat
  let total := ofLE (slice 0x18 4 img)
  let siglen := ofLE (slice 0x1C 4 img)
  slice 0 4 img == [0x5A#8, 0x4E#8, 0x47#8, 0x52#8] && slice 4 2 img == [1#8, 0#8] &&
  ((alg == 0x21 && siglen == 96) || (alg == 0x49 && siglen == 3309)) && decide (1 ≤ nseg) && decide (nseg ≤ 8) &&
  zeroRange 0x0A 0x0C img && zeroRange 0x28 0x40 img && decide (64 + 16 * nseg ≤ total) &&
  decide (total + siglen = declared)

/-- An admission key verifies an image's signature over M (R272). -/
def State.keyVerifies (s : State) (alg : Byte) (m sig : Bytes) (h : Word) : Bool :=
  h != 0 &&
  match s.checkUse .s h opVerify with
  | .error _ => false
  | .ok e =>
    e.type == alg &&
    match (s.keySecret .s h false).1 with
    | none => false
    | some k =>
      if alg = 0x49 then dsaVerify 0x49 (publicKeyOf 0x49 k) (dsaMessage (some 1) (ascii "SH6496 RECIPE") m) sig
      else p384.accepts (publicKeyOf 0x21 k) m sig

/-! ### Pages and placement (R285) -/

/-- Round up to a page. -/
def upPage (n : Nat) : Nat := (n + pageSize - 1) / pageSize * pageSize

/-- Where each segment is placed, from a base on, and where the last one ends. -/
def placeSegs : List ImgSeg → Nat → List (ImgSeg × Nat) × Nat
  | [], a => ([], a)
  | g :: gs, a =>
    let r := placeSegs gs (upPage a + g.mlen)
    ((g, upPage a) :: r.1, r.2)

/-- Physical page of a page that an admission names: through stage 2 for a slice, above the watermark for the manager. -/
def State.namedPage (s : State) (a : Admission) (page : Nat) : Option Nat :=
  if a.target = 0xFF then
    if s.worlds.wmark.toNat ≤ page ∧ page < 256 then some page else none
  else
    let e := s.s2 (a.target.setWidth 6) page
    if page < 64 && e.valid && e.w then some e.ppn.toNat else none

/-- The pages an admission names: base, 64 KiB aligned, and a count. -/
def Admission.named (a : Admission) : List Nat :=
  if a.base.toNat % pageSize ≠ 0 then []
  else (List.range (min 256 a.pages.toNat)).map fun i => a.base.toNat / pageSize + i

/-- A placement fits the named pages, and every page it touches can be written. -/
def State.placementOk (s : State) (a : Admission) (segs : List ImgSeg) : Bool :=
  let r := placeSegs segs a.base.toNat
  let stop := a.base.toNat + a.pages.toNat * pageSize
  let touched := r.1.flatMap fun x =>
    (List.range ((upPage (x.2 + x.1.mlen) - x.2) / pageSize)).map fun i => x.2 / pageSize + i
  a.base.toNat % pageSize == 0 && decide (r.2 ≤ stop) && touched.all fun p => (s.namedPage a p).isSome

/-- Zero the named pages that exist. -/
def State.zeroNamed (s : State) (a : Admission) : State :=
  (a.named.filterMap (s.namedPage a)).foldl
    (fun t p => { t with worlds := { t.worlds with
      recipe := memZero t.worlds.recipe (p * pageSize) ((p + 1) * pageSize) } }) s

/-- Write a segment's bytes page by page from its placement. -/
def State.fillPages (s : State) (a : Admission) (bs : Bytes) (at_ : Nat) : State :=
  (List.range ((bs.length + pageSize - 1) / pageSize)).foldl
    (fun t i =>
      match t.namedPage a (at_ / pageSize + i) with
      | some p => t.recipeWrite none (p * pageSize) ((bs.drop (i * pageSize)).take pageSize)
      | none => t) s

/-! ### Admission (R273 to R275) -/

/-- The staging area's physical base (R336). -/
def State.stagingBase (s : State) : Nat := s.worlds.admBase.toNat * pageSize

/-- The verdict of an image that has arrived (Table 9.12). -/
def State.judgeImage (s : State) (a : Admission) (img m : Bytes) : Verdict :=
  let level := octet 6 img
  let o := (octet 7 img).toNat
  let total := ofLE (slice 0x18 4 img)
  let segs := imgSegs img (octet 9 img).toNat
  let keys := (s.auth o).admitKeys.toList.filter fun h => h != 0
  if !imgHeaderOk img a.length then verdict St.malformed 0x25
  else if 1 < level.toNat || (level == 1) != (a.target == 0xFF) then verdict St.attrDenied 0x19
  else if !segsOk segs total (ofLE (slice 0x0C 4 img)) then verdict St.malformed 0x82
  else if (s.owner o).state != .live || keys.isEmpty then verdict St.attrDenied 0x81
  else if !keys.any fun h => s.keyVerifies (octet 8 img) m (img.drop total) h then verdict St.malformed 0x24
  else if !s.placementOk a segs then verdict St.attrDenied 0x80
  else Verdict.ok

/-- The payload of an ADMISSION record (R275). -/
def admissionPayload (a : Admission) (img : Bytes) (v : Verdict) (m : Bytes) : Bytes :=
  [a.target, octet 6 img, octet 7 img, octet 8 img] ++ be 2 v.status ++ zeros 2 ++
  be 8 (fieldLE 64 0x10 8 img : DWord) ++ be 8 (fieldLE 64 0x20 8 img : DWord) ++ m

/-- An ADMISSION record. -/
def admissionRec (a : Admission) (payload : Bytes) : LogRec :=
  { type := 0x0041, severity := sevAudit, slice := a.target, payload := payload }

/-- Give ADMIT its status and result: in g1 and g2 of the context that waits (R293, R295). -/
def State.answerService (s : State) (n : Nat) (v : Verdict) (g2 : DWord) : State :=
  let c := s.ctx n
  s.setCtx n ((c.setG 1 (BitVec.ofNat 64 v.arg)).setG 2 g2)

/-- Admission ends once its record is accepted (R273 steps 7 and 8, R336): the staging area is zeroed. -/
def State.endAdmission (s : State) : State :=
  match s.worlds.admission with
  | none => s
  | some a =>
    match a.decided with
    | none => s
    | some (v, payload) =>
      match s.logNow 1 (admissionRec a payload) with
      | none => s
      | some (seq, t) =>
        let b := t.stagingBase
        let t := { t with worlds := { t.worlds with
          admission := none, recipe := memZero t.worlds.recipe b (b + 8 * pageSize)
          admitted := if v.status = St.ok then sparseSet [] t.worlds.admitted (if a.target = 0xFF then 64 else a.target.toNat)
              (payload.drop 24)
            else t.worlds.admitted } }
        let n := a.caller.toNat
        let t := t.answerService n v (if v.status = St.ok then seq &&& 0xFFFFFFFF else 0)
        if (t.ctx n).state == .waiting then t.wake n false else t

/-- The admission's own tap closes; a TAP job's closes with its job (R95, R273 step 3). A digest that is complete has made its
last calls. -/
def State.closeAdmissionTap (s : State) (short : Bool) : State :=
  let x := s.tapOf 1
  if x.job.isSome then s
  else (if short || x.parked then s else s.addCalls x.engine.toNat (x.endCalls 48)).freeTap 1

/-- Decide an admission: the tap closes, an image that passes is loaded, any other leaves the pages zeroed (R273). -/
def State.decideAdmission (s : State) (a : Admission) (short : Bool) : State :=
  let s := s.closeAdmissionTap short
  let staged := memRead s.worlds.recipe s.stagingBase a.length
  let img := if short then [] else staged
  let total := ofLE (slice 0x18 4 img)
  let m := if short then zeros 48 else sha384 (a.seen.take total)
  let v := if short then verdict St.lengthShort 0 else s.judgeImage a img m
  let s := s.zeroNamed a
  let segs := imgSegs img (octet 9 img).toNat
  let s :=
    if v.status ≠ St.ok then s
    else
      let placed := (placeSegs segs a.base.toNat).1
      let s := placed.foldl (fun t x => t.fillPages a (x.1.bytes img) x.2) s
      let i := if a.target = 0xFF then 64 else a.target.toNat
      let map := (placed.filter fun x => x.1.mlen != 0).map fun x => x.1.mapped x.2
      { s with worlds := { s.worlds with
        maps := sparseSet [] s.worlds.maps i map } }
  let a := { a with decided := some (v, admissionPayload a img v m) }
  ({ s with worlds := { s.worlds with admission := some a } }).endAdmission

/-- Of `n` octets of an image, those that tap 1 has room for: what it takes must fit its buffer, and what lies beyond the declared
length of a TAP job passes without it (R96). -/
def State.admissionRoom (s : State) (n : Nat) : Nat :=
  let want := s.tapWants 1 n
  let room := tapSize - (s.tapOf 1).buffer.length
  if want ≤ room then n else room

/-- An image is complete, and its tap's engine is there to end the digest. -/
def State.admissionDue (s : State) (a : Admission) : Bool :=
  a.decided.isNone && decide (a.length ≤ a.seen.length) && !(s.tapOf 1).parked

/-- Octets of an image pass: they go to staging and past tap 1, which closes at the declared length (R273 steps 2 and 3, R336). -/
def State.admissionPass (s : State) (a : Admission) (off : Nat) (bs : Bytes) : State :=
  let a := { a with seen := a.seen ++ bs }
  let s := s.recipeWrite none (s.stagingBase + off) bs
  let s := ({ s with worlds := { s.worlds with admission := some a } }).tapFeed 1 bs
  if s.admissionDue a then s.decideAdmission a false else s

/-- Octets that a write brings to the write part of a slice's buffer; what lies beyond it is dropped (R335). -/
def State.writePartBytes (s : State) (n off : Nat) (bs : Bytes) : State :=
  let x := s.slc n
  s.setSlc n { x with wbuf := memWrite x.wbuf off (bs.take (x.writePart - off)) }

/-- Octets arrive at an offset of the held write half. They pass as far as tap 1 has room; the rest waits behind them, in the order
of its arrival (R96). What follows the image's last octet once admission has ended goes to the write part (R337); while its
record still waits to be accepted it is not performed (R273 step 3). -/
def State.admissionBytes (s : State) (off : Nat) (bs : Bytes) : State :=
  match s.worlds.admission with
  | none => s
  | some a =>
    if a.decided.isSome then s
    else if !a.waiting.isEmpty then
      { s with worlds := { s.worlds with admission := some { a with waiting := a.waiting ++ [(off, bs)] } } }
    else
      let image := (bs.take (a.length - a.seen.length)).take (8 * pageSize - off)
      let n := s.admissionRoom image.length
      let t := s.admissionPass a off (image.take n)
      if n < image.length then
        match t.worlds.admission with
        | none => t
        | some b => { t with worlds := { t.worlds with admission := some { b with waiting := [(off + n, bs.drop n)] } } }
      else if t.worlds.admission.isNone then t.writePartBytes a.carrier.toNat (off + n) (bs.drop n)
      else t

/-- The writes that an admission has held back arrive in their order, as far as tap 1 now has room for them (R96). -/
def State.admissionReplay : List (Nat × Bytes) → BitVec 6 → State → State
  | [], _, s => s
  | (off, bs) :: ws, carrier, s =>
    match s.worlds.admission with
    | none => State.admissionReplay ws carrier (s.writePartBytes carrier.toNat off bs)
    | some a =>
      if a.waiting.isEmpty then State.admissionReplay ws carrier (s.admissionBytes off bs)
      else { s with worlds := { s.worlds with admission := some { a with waiting := a.waiting ++ (off, bs) :: ws } } }

/-- Tap 1 has made room, or an engine serves it again: the image goes on. -/
def State.admissionResume (s : State) : State :=
  match s.worlds.admission with
  | none => s
  | some a =>
    let b := { a with waiting := [] }
    let t : State := { s with worlds := { s.worlds with admission := some b } }
    if s.admissionDue a then State.admissionReplay a.waiting a.carrier (t.decideAdmission b false)
    else State.admissionReplay a.waiting a.carrier t

/-! ### The kernel loader (R299 to R303) -/

/-- Longest kernel image: 6 MiB. -/
def kernelMax : Nat := 0x600000

/-- A kernel image obeys R300. -/
def kernelOk (img : Bytes) : Bool :=
  let nseg := (octet 6 img).toNat
  let pages := (octet 7 img).toNat
  let total := ofLE (slice 0x0C 4 img)
  let gva := ofLE (slice 0x18 4 img)
  let gcnt := ofLE (slice 0x1C 2 img)
  let segs := imgSegs img nseg
  slice 0 4 img == [0x53#8, 0x48#8, 0x4B#8, 0x4E#8] && slice 4 2 img == [1#8, 0#8] && zeroRange 0x1E 0x40 img &&
  decide (1 ≤ nseg) && decide (nseg ≤ 8) && decide (1 ≤ pages) && decide (64 + 16 * nseg ≤ total) &&
  decide (total ≤ kernelMax) && segsOk segs total (ofLE (slice 0x08 4 img)) &&
  segs.all (fun g => decide (g.vbase + g.mlen ≤ pages * pageSize)) &&
  gva % 8 == 0 && decide (1 ≤ gcnt) && decide (gcnt ≤ 1024) &&
  segs.any fun g => g.perm.getLsbD 0 && !g.perm.getLsbD 1 && decide (g.vbase ≤ gva) &&
    decide (gva + 8 * gcnt ≤ g.vbase + g.mlen)

/-- The active fuse slot (R301). -/
def Fuses.active (f : Fuses) : Nat := f.kernel.length - 1

/-- A KERNEL_LOAD record (Table 15.3). -/
def State.recordLoad (s : State) (m : Bytes) (fallback restart : Bool) (outcome : Byte) : State :=
  s.pushLog 1 false {
    type := 0x0040, severity := sevAudit, slice := devSlice
    payload := m ++ [BitVec.ofNat 8 s.fuses.active, if fallback then 1#8 else 0#8, if restart then 1#8 else 0#8, outcome] }

/-- An image streams from BOOT past tap 0, which a pool engine serves with SHA-384 over TOTAL_LEN bytes (R302 steps 2 and 3). -/
def State.loaderTap (s : State) (total : Nat) : State :=
  match s.freeCompanion [] with
  | none => s
  | some n =>
    let t := (s.holdTap 0 n none [] (Slot.start 0x02 0 false [] [] 0)).addCalls n (total / 128 + finishCalls 0x02 48 (total % 128))
    (t.setTap 0 { t.tapOf 0 with bytes := BitVec.ofNat 64 total }).freeTap 0

/-- One attempt of the loader (R302 steps 2 to 6): its outcome, 0 accepted, 1 NOT_EQUAL, 2 FORMAT. -/
def State.tryKernel (s : State) (img : Bytes) (fallback restart : Bool) : State × Bool :=
  let refuse (s : State) (m : Bytes) (cause : BitVec 2) : State × Bool :=
    let s := s.zeroSecure
    let s := { s with worlds := { s.worlds with lcause := cause } }
    (s.recordLoad m fallback restart (cause.setWidth 8), false)
  if !kernelOk img then refuse s (zeros 48) 2
  else
    let total := ofLE (slice 0x0C 4 img)
    let segs := imgSegs img (octet 6 img).toNat
    let s := segs.foldl (fun t g => t.recipeWrite none g.vbase (g.bytes img)) (s.loaderTap total)
    let m := sha384 (fit total img)
    let s := { s with worlds := { s.worlds with kmeas := m } }
    let eq := s.fuses.kernel.getLast? == some m
    let s := s.countCompare eq
    if !eq then refuse s m 1
    else
      let map := (segs.filter fun g => g.mlen != 0).map fun g => g.mapped g.vbase
      let w := { s.worlds with
        maps := sparseSet [] s.worlds.maps 65 map, gateBase := fieldLE 32 0x18 4 img
        gateCnt := fieldLE 11 0x1C 2 img, kversion := fieldLE 64 0x10 8 img
        wmarkMin := BitVec.ofNat 9 (octet 7 img).toNat, fallback := fallback }
      let s := { s with worlds := w, modes := { s.modes with kernelStarted := true } }
      let c := s.ctx 0
      let s := s.setCtx 0 { c with pc := fieldLE 32 0x08 4 img &&& 0xFFFFFFFC#32 }
      ((s.startCtx 0 .s 0).recordLoad m fallback restart 0, true)

/-- The loader runs (R302, R303): on what BOOT holds, as the boot header, the primary image and the fallback image. -/
def State.loadKernel (s : State) (images : List Bytes) (restart : Bool) : State :=
  let boot := images.getD 0 []
  let bootOk := slice 0 4 boot == [0x53#8, 0x48#8, 0x42#8, 0x54#8] && slice 4 2 boot == [1#8, 0#8] &&
    zeroRange 6 8 boot && zeroRange 0x10 0x20 boot
  let hasFallback := !zeroRange 0x0C 0x10 boot
  let primary := if bootOk then images.getD 1 [] else []
  let fallback := if bootOk then images.getD 2 [] else []
  let a := s.tryKernel primary false restart
  let b := if a.2 then a else if !bootOk || hasFallback then a.1.tryKernel fallback true restart else a
  if b.2 then b.1
  else
    let s : State := { b.1 with worlds := { b.1.worlds with kstate := .failed } }
    let s := if s.modes.mode = .startup then { s with modes := { s.modes with steps := s.modes.steps ||| 16 } } else s
    s.raiseFatal causeKernelLoad 0

/-! ### Restart (R306) -/

/-- Step 2: S contexts go to IDLE, gate calls return SVC_UNAVAILABLE. -/
def State.stopSecure (s : State) : State :=
  let mine := s.worlds.ctxs.map Prod.fst
  mine.foldl (fun t n =>
    let c := t.ctx n
    match c.gate with
    | some f =>
      let t := t.gateReturn n f gateUnavailable
      let d := t.ctx n
      if d.state == .waiting || d.state == .faulted || d.state == .halted then
        (t.setCtx n { d with state := .ready, wait := .none }).switchFrom n
      else t
    | none => if c.level = .s && c.state != .idle then t.resetCtx n else t) s

/-- Step 3: S-issued jobs end without a completion, open taps close, the admission and the ceremony in progress end. -/
def State.stopServices (s : State) : State :=
  let gone := (s.eng.jobs.filter fun j => j.sub.issuer == .s && !j.own && !j.started && j.stage != .running).map Job.id
  let jobs := s.eng.jobs.map fun j =>
    if j.sub.issuer == .s && !j.own then
      { j with sub := { j.sub with origin := .device }, ending := some vAborted } else j
  let s := { s with eng := { s.eng with jobs := jobs } }
  let s := gone.foldl (fun t id => t.finish id vAborted 0) s
  let s := ((s.freeTap 0).freeTap 1).freeTap 2
  let taps := (s.eng.jobs.filter fun j => j.sub.issuer == .s && j.sub.op == 0x45).map Job.id
  let s := taps.foldl (fun t id => t.finish id vAborted 0) s
  let s := match s.worlds.admission with
    | none => s
    | some a =>
      let s := s.zeroNamed a
      let v := verdict St.svcUnavailable 0
      let payload := match a.decided with
        | some (d, p) => if d.status = St.ok then p.take 4 ++ be 2 v.status ++ p.drop 6 else p
        | none => admissionPayload a [] v (zeros 48)
      let s := s.pushLog 1 false (admissionRec a payload)
      { s with worlds := { s.worlds with admission := none } }
  let s := (s.endCeremony 1).strRestart
  { s with cus := { s.cus with requests := [] } }

/-- The S event queue is cleared; what it has dropped since the device reset stays counted (R257, R306 step 4). -/
def State.clearEvents (s : State) (i : Nat) : State :=
  let q := sparseGet EventQueue.empty s.worlds.queues i
  { s with worlds := { s.worlds with queues := sparseSet EventQueue.empty s.worlds.queues i { q with events := [] } } }

/-- Steps 2 to 4 of a restart. -/
def State.stopWorld (s : State) : State := s.stopServices.stopSecure.zeroSecure.clearEvents 65

/-- The interrupt status registers with a secure source (Table 10.5). -/
def secureStatus : List (Nat × Nat) := [
  (intCp, 0x01), (intBn, 0x02), (intCld, 0x03), (intTl, 0x04), (intCal, 0x04), (intStr, 0x10), (intCus, 0x11),
  (intTmp, 0x12), (intStk, 0x13), (intAud, 0x14), (intMod, 0x15), (intPwr, 0x16)]

/-- Every secure source whose status and enable bits overlap is posted once (R306 step 6). -/
def State.postSecure (s : State) : State :=
  secureStatus.foldl (fun t e => if t.reg e.1 &&& t.reg (e.1 + 4) != 0 then t.postSource e.2 else t) s

end Sys2Proof.Machine
end

