-- ==== Sys2Proof/Machine/WorldCommands.lean ====
section
/-! DEFINITION. The meanings of the gateway services of Table 10.4, of the loader, the watchdog, the restart and the
memory-protection registers (R273 to R308). -/

namespace Sys2Proof.Machine

/-! ### Gateway services (R293, R295) -/

/-- The kernel serves a call in a context: one inside a gate call of a level that the service admits, or, for a service
that the kernel runs itself, a context of the kernel. -/
def State.service (s : State) (n : Nat) (allow : Level → Bool) (f : Context → State) : State :=
  let c := s.ctx n
  if c.state == .running && c.level == .s && allow c.startLevel then f c else s

/-- VERSION. -/
def execVersion (ctx : BitVec 7) (s : State) : Out :=
  s.whilePowered fun s => s.service ctx.toNat (fun l => l != .s) fun _ =>
    let s := s.answerService ctx.toNat Verdict.ok s.worlds.kversion
    s.putG ctx.toNat 3 (BitVec.ofNat 64 s.fuses.active)

/-- The refusal that an ADMIT request meets before any byte arrives (Table 9.12, Table 10.4). -/
def State.admitRefusal (s : State) (c : Context) : Option Verdict :=
  let target := c.greg 2
  let manager := target == 0xFF
  let carrier := c.greg 7
  let live (x : DWord) : Bool := decide (x.toNat < 64) &&
    ((s.slc x.toNat).state == .active || (s.slc x.toNat).state == .quiesced)
  if s.worlds.restarting then some (verdict St.svcUnavailable 0)
  else if manager && c.startLevel == .n then some vLevel
  else if s.modes.mode == Mode.startup || s.modes.mode == Mode.erased then some modeRefusal
  else if !manager && decide (64 ≤ target.toNat) then some vBadParam
  else if manager && !live carrier then some vBadParam
  else if 524288 < (c.greg 3).toNat then some (verdict St.malformed 0x25)
  else none

/-- Tap 1 opens for an admission with SHA-384 on a free pool engine (R273 step 1). A tap that a TAP job of the secure world has
opened serves it as it is (R95). None: no engine is free. -/
def State.admissionTap (s : State) : Option State :=
  if s.tapBusy 1 then some s
  else (s.freeCompanion []).map fun e => s.holdTap 1 e none [] (Slot.start 0x02 0 false [] [] 0)

/-- Who may call ADMIT: H, or the kernel itself (R273, Table 10.4). A caller at level N meets only the refusal that Table 9.12
gives its manager image. -/
def mayAdmit (manager : Bool) (l : Level) : Bool := l != .n || manager

/-- ADMIT: the request is checked, tap 1 opens, the caller waits until admission ends, and the bytes that the host has
written at offset 0 of the write half arrive (R273, R295). A second admission waits for the first, and for a free
engine. -/
def execAdmitImage (ctx : BitVec 7) (stream : Bytes) (s : State) : Out :=
  s.whilePowered fun s => s.service ctx.toNat (mayAdmit ((s.ctx ctx.toNat).greg 2 == 0xFF)) fun c =>
    let n := ctx.toNat
    let manager := c.greg 2 == 0xFF
    let a : Admission := {
      caller := ctx, target := (c.greg 2).setWidth 8, length := (c.greg 3).toNat, base := c.greg 4, pages := c.greg 5
      deadline := c.greg 6, carrier := if manager then (c.greg 7).setWidth 6 else (c.greg 2).setWidth 6
      seen := [], waiting := [], decided := none }
    match s.admitRefusal c with
    | some v =>
      match s.logNow 1 (admissionRec a (admissionPayload a [] v (zeros 48))) with
      | some r => (if 64 ≤ (c.greg 2).toNat ∧ !manager then r.2 else r.2.zeroNamed a).answerService n v 0
      | none => s
    | none =>
      match s.admissionTap with
      | none => s
      | some t =>
        if s.worlds.admission.isSome || s.modes.mode == Mode.dormant then s
        else
          let t := { t with worlds := { t.worlds with admission := some a } }
          (t.waitFor n .admission).admissionBytes 0 stream

/-- The manager's deadline passes before L bytes have arrived (R274). -/
def execAdmissionDeadline (s : State) : Out :=
  s.whilePowered fun s =>
    match s.worlds.admission with
    | some a => if a.decided.isNone && decide (a.deadline.toNat ≤ s.tl.ns.toNat) then s.decideAdmission a true else s
    | none => s

/-- The status of PORT (Table 10.4). -/
def State.portRefusal (s : State) (port orphan on : DWord) : Option Verdict :=
  let o := s.market orphan.toNat
  if 16 ≤ port.toNat ∨ 131072 ≤ orphan.toNat ∨ 2 ≤ on.toNat then some vBadParam
  else if (s.reg 0x0D00A4).getLsbD 0 && (s.port port.toNat).orphan.toNat != orphan.toNat then
    some (verdict St.attrDenied 0xA3)
  else if !(o.orphan && o.state == .open_) then some (verdict St.attrDenied 0x7D)
  else none

/-- PORT: MK_PORT_ORPHAN and MK_PORT_CTL.ENABLE are written for the manager. -/
def execPortService (ctx : BitVec 7) (s : State) : Out :=
  s.whilePowered fun s => s.service ctx.toNat (fun l => l == .h) fun c =>
    let n := ctx.toNat
    match s.portRefusal (c.greg 2) (c.greg 3) (c.greg 4) with
    | some v => s.answerService n v (c.greg 2)
    | none =>
      let p := (c.greg 2).toNat
      let s := s.setPort p { s.port p with orphan := (c.greg 3).setWidth 17, enable := (c.greg 4).getLsbD 0 }
      s.answerService n Verdict.ok (c.greg 2)

/-! ### Loader, watchdog, restart -/

/-- The loader runs in Start-up, once the erase has ended and a pool engine is free for its tap (R96, R302, R446 step 7). -/
def execKernelLoad (images : List Bytes) (s : State) : Out :=
  s.whilePowered fun s =>
    if s.modes.mode = .startup ∧ s.modes.steps.getLsbD 0 ∧ s.worlds.kstate = .absent ∧ (s.freeCompanion []).isSome then
      ({ s with worlds := { s.worlds with kstate := .loading } }).loadKernel images false
    else s

/-- KICK is written (R304). -/
def State.swKick (s : State) : State := { s with worlds := { s.worlds with kickAt := s.now } }

/-- READY is written (R304, R306 step 6): a start or a restart ends. While steps 2 to 5 of a restart are still due no kernel has
started that could set it. -/
def State.swReady (s : State) : State :=
  if s.worlds.restartDue || (s.worlds.kstate != .loading && s.worlds.kstate != .restarting) then s
  else
    let again := s.worlds.restarting
    let w := { s.worlds with kstate := .running, restarting := false, armed := true, kickAt := s.now }
    let m := if s.modes.mode = .startup then { s.modes with steps := s.modes.steps ||| 16 } else s.modes
    let t := ({ s with worlds := w, modes := m }).noteConditions s
    if again then t.postSecure else t

/-- MOD_SW_CTL is written by S with KICK. -/
def execSwCtlKick (who : Accessor) (value : Word) (s : State) : Out :=
  s.whilePowered fun s => s.writeBy who.isS who 0x000108 fun s => if value.getLsbD 0 then s.swKick else s

/-- MOD_SW_CTL is written by S with READY. -/
def execSwCtlReady (who : Accessor) (value : Word) (s : State) : Out :=
  s.whilePowered fun s => s.writeBy who.isS who 0x000108 fun s => if value.getLsbD 1 then s.swReady else s

/-- MOD_SW_CTL is written by S with RESTART (R305). -/
def execSwCtlRestart (who : Accessor) (value : Word) (s : State) : Out :=
  s.whilePowered fun s => s.writeBy who.isS who 0x000108 fun s => if value.getLsbD 2 then s.triggerRestart 3 else s

/-- ECLK cycles of the secure watchdog: 5 ms. -/
def watchdogCycles : Nat := 7500000

/-- What the secure watchdog watches for (R304): no KICK for 5 ms, or a context RUNNING at level S for 5 ms. -/
def State.watchdogDue (s : State) : Bool :=
  s.worlds.armed && (decide (s.worlds.kickAt + watchdogCycles ≤ s.now) ||
    s.worlds.ctxs.any fun e => e.2.state == .running && e.2.level == .s && decide (e.2.ranFrom + watchdogCycles ≤ s.now))

/-- The secure watchdog fires (R304). -/
def execWatchdogExpiry (s : State) : Out :=
  s.whilePowered fun s => if s.watchdogDue then s.triggerRestart 1 else s

/-- Steps 2 to 5 of a restart (R306). The loader waits for a pool engine for its tap (R96). -/
def execSecureWorldRestart (images : List Bytes) (s : State) : Out :=
  s.whilePowered fun s =>
    if s.worlds.restartDue then
      let t := s.stopWorld
      if (t.freeCompanion []).isNone then t
      else ({ t with worlds := { t.worlds with restartDue := false } }).loadKernel images true
    else s

/-- READY has not been set within 50 ms of T0 (R306). -/
def execRestartReadyTimeout (s : State) : Out :=
  s.whilePowered fun s =>
    if s.worlds.restarting && s.worlds.kstate != .failed then s.raiseFatal causeSwReady 0 else s

/-! ### The watermark and stage 2 -/

/-- A write of MOD_WMARK (R280). -/
def State.writeWmark (s : State) (value : Word) : State :=
  let p := (value.extractLsb' 0 9).toNat
  let ok := s.modes.mode == .startup && !s.worlds.wmarkLock && decide (1 ≤ p) && decide (p ≤ 256) &&
    decide (s.worlds.wmarkMin.toNat ≤ p)
  { s with worlds := { s.worlds with
    wmark := if ok then BitVec.ofNat 9 p else s.worlds.wmark
    wmarkLock := s.worlds.wmarkLock || value.getLsbD 31 } }

/-- MOD_WMARK is written by S. -/
def execModWmarkWrite (who : Accessor) (value : Word) (s : State) : Out :=
  s.whilePowered fun s => s.writeBy who.isS who 0x000100 fun s => s.writeWmark value

/-- The entry that SLC_S2_ENT spells. -/
def S2Entry.ofWord (v : Word) : S2Entry :=
  { ppn := v.setWidth 8, r := v.getLsbD 8, w := v.getLsbD 9, x := v.getLsbD 10, valid := v.getLsbD 15 }

/-- What refuses a stage-2 write: ERR of R287, 0 for none. -/
def State.s2Refusal (s : State) (slice : BitVec 6) (e : S2Entry) : BitVec 3 :=
  let shares (f : S2Entry) : Bool := f.valid && f.ppn == e.ppn && (e.w || f.w)
  let others := s.worlds.s2.any (fun x => x.1 / 64 != slice.toNat && shares x.2) ||
    s.worlds.s2Pending.any fun c => c.slice != slice && shares c.entry
  if e.valid && decide (e.ppn.toNat < s.worlds.wmark.toNat) then 1
  else if e.valid && others then 2
  else if s.worlds.s2Pending.any fun c => c.slice == slice then 3
  else 0

/-- A write of SLC_S2_ENT (R287, R288): checked, then applied, or pending where it changes a VALID entry. -/
def State.writeS2 (s : State) (value : Word) : State :=
  let sel := s.reg 0x020180
  let slice : BitVec 6 := sel.setWidth 6
  let page : BitVec 6 := sel.extractLsb' 8 6
  let e := S2Entry.ofWord value
  let err := s.s2Refusal slice e
  if err ≠ 0 then
    ({ s with worlds := { s.worlds with s2Err := err } }).logSlice 1 21 2 sevNotice (slice.setWidth 8) slice.toNat 0 0
  else
    let i := slice.toNat * 64 + page.toNat
    let old := sparseGet S2Entry.none s.worlds.s2 i
    if old.valid && old != e then
      { s with worlds := { s.worlds with s2Pending := s.worlds.s2Pending ++ [⟨slice, page, e⟩] } }
    else { s with worlds := { s.worlds with s2 := sparseSet S2Entry.none s.worlds.s2 i e } }

/-- SLC_S2_ENT is written by S and H. -/
def execSlcS2EntWrite (who : Accessor) (value : Word) (s : State) : Out :=
  s.whilePowered fun s => s.writeBy who.isSH who 0x020184 fun s => s.writeS2 value

/-- What used the old entry of a page still does (R288): a job that translated an address in the page at its start, or a store of
an N context of the slice that is not yet at L2. -/
def State.s2InUse (s : State) (slice page : BitVec 6) : Bool :=
  let old := sparseGet S2Entry.none s.worlds.s2 (slice.toNat * 64 + page.toNat)
  (s.eng.jobs.any fun j => j.sub.issuer == .n slice && (j.sub.reach.getD []).any fun x => x.page == some page.toNat) ||
  s.worlds.ctxs.any fun e => e.2.level == .n && e.2.slice == slice &&
    e.2.stores.any fun x => x.1 / pageSize == old.ppn.toNat

/-- The accesses and jobs that used the old entry have finished, and the new value applies (R288). -/
def execS2ChangeComplete (slice page : BitVec 6) (s : State) : Out :=
  s.whilePowered fun s =>
    match s.worlds.s2Pending.find? fun c => c.slice == slice && c.page == page with
    | none => s
    | some c =>
      if s.s2InUse slice page then s else
      let i := slice.toNat * 64 + page.toNat
      { s with worlds := { s.worlds with
        s2 := sparseSet S2Entry.none s.worlds.s2 i c.entry, s2Pending := s.worlds.s2Pending.erase c } }

end Sys2Proof.Machine
end

