-- ==== Sys2Proof/Machine/TapCommands.lean ====
section
/-! DEFINITION. The meanings of a tap's close and of the end of a digest, cipher or tap segment (R95, R96, R107, R108). -/

namespace Sys2Proof.Machine

/-- The tap closes: its declared length has passed, or the stream has ended before. What has been read from BOOT comes with the
command. A parked tap closes when an engine serves it again (R182). -/
def execTapClose (tap : BitVec 2) (stream : Bytes) (s : State) : Out :=
  s.whilePowered fun s =>
    let t := tap.toNat
    match (if t < 3 && !(s.tapOf t).parked then (s.tapOf t).job else none) with
    | none => s
    | some id =>
      let u := match s.job id with
        | none => (s.freeTap t).deferredCuts.powerDone
        | some j => (if t = 0 then s.tapFeed 0 stream else s).closeTap t j
      if t = 1 then u.admissionResume else u

/-- A digest or cipher segment ends (R107, R108). A tap segment makes room for what the tap's buffer has held up (R96). -/
def execSegmentBoundary (cls : EngClass) (engine : Byte) (_used : Nat) (s : State) : Out :=
  s.whilePowered fun s =>
    let n := engine.toNat
    if cls == .pool || cls == .cipher then
      let t := s.endSegment cls n
      match (s.engine cls n).running, (s.engine cls n).tap with
      | none, some x => (t.tapCheck x.toNat).admissionResume
      | _, _ => t
    else s

end Sys2Proof.Machine
end

