-- ==== Sys2Proof/Machine/RingOps.lean ====
section
/-! DEFINITION. Host rings: the fetcher's copies, ownership, chains, doorbells, enabling and disabling (R322 to R333). -/

namespace Sys2Proof.Machine

/-- Entries from SQ_HEAD that the tail covers. -/
def Ring.covered (g : Ring) : Nat := (g.tail - g.head).toNat

/-- Entries from SQ_HEAD that the fetcher holds: the open chain's, then the copies behind it. -/
def Ring.held (g : Ring) : Nat := g.chain.length + g.fetched.length

/-- The ownership mark of a copy is set (R325): PHASE is 1 on the first pass, inverted at each wrap. -/
def Ring.owned (g : Ring) (e : FetchedEntry) : Bool :=
  (octet 15 e.body).getLsbD 0 != e.index.getLsbD g.sqLog2.toNat

/-- The fetcher serves a ring: enabled, running, of an ACTIVE slice, in a mode whose rings work (R319, R322, R326,
Table 16.2). -/
def State.ringServed (s : State) (n r : Nat) : Bool :=
  let g := s.ring n r
  g.enable && g.state == .running && (s.slc n).state == .active && s.modeAllows .h .open_

/-- Drop what the fetcher holds of every ring of a slice (R319): nothing is consumed. -/
def State.dropFetched (s : State) (n : Nat) : State :=
  let x := s.slc n
  s.setSlc n { x with
    rings := sparseMap Ring.reset (fun _ g => { g with chain := [], fetched := [], waitCq := false }) x.rings }

/-! ### The decision on one entry (R330, Table 11.7) -/

/-- Where an entry leads: the completions it draws, the chain that it starts, the chain that stays open, and the entries
consumed. -/
structure EntryStep where
  outs : List (Word × Verdict)
  start : Option (List FetchedEntry)
  keep : List FetchedEntry
  take : Nat
  deriving DecidableEq, Repr

/-- The first rule of Table 11.7 that applies to an owned entry behind an open chain. -/
def entryStep (chain : List FetchedEntry) (e : FetchedEntry) : EntryStep :=
  let fl := octet 0 e.body
  let n := chain.length + 1
  let broken : List (Word × Verdict) :=
    match chain.getLast? with | some l => [(l.index, verdict St.chainBroken 0x92)] | none => []
  let bad (v : Verdict) : EntryStep := { outs := [(e.index, v)], start := none, keep := [], take := n }
  if !zeroRange 1 15 e.body || (octet 15 e.body) &&& 0xFE != 0 || fl &&& 0xF8 != 0 then
    { bad (verdict St.malformed 0x21) with outs := broken ++ [(e.index, verdict St.malformed 0x21)] }
  else if fl.getLsbD 0 then
    if fl.getLsbD 2 then { bad vBadFragment with outs := broken ++ [(e.index, vBadFragment)] }
    else if fl.getLsbD 1 then { outs := broken, start := some [e], keep := [], take := n }
    else { outs := broken, start := none, keep := [e], take := chain.length }
  else if chain.isEmpty then bad (verdict St.chainBroken 0x93)
  else if !fl.getLsbD 1 && decide (32 ≤ n) then bad (verdict St.chainBroken 0x94)
  else if !fl.getLsbD 2 || (fragmentsOf (entryBody e.body)).isNone then bad vBadFragment
  else if fl.getLsbD 1 then { outs := [], start := some (chain ++ [e]), keep := [], take := n }
  else { outs := [], start := none, keep := chain ++ [e], take := 0 }

/-- The submission of a ring's job (R324, R329): the block of its first entry, the ring's slice as the issuer. -/
def ringSubmission (n r : Nat) (es : List FetchedEntry) : Submission :=
  let last : Word := match es.getLast? with | some e => e.index | none => 0
  { issuer := .slice (BitVec.ofNat 6 n), charge := some (BitVec.ofNat 6 n),
    origin := .ring (BitVec.ofNat 6 n) (BitVec.ofNat 4 r) last,
    block := entryBody (match es with | e :: _ => e.body | [] => []), source := [],
    host := (es.map FetchedEntry.host).flatten }

/-- A job of a ring is consumed: it takes a completion slot (R327). -/
def State.consume (s : State) (n r : Nat) : State :=
  let g := s.ring n r
  s.setRing n r { g with inFlight := g.inFlight + 1 }

/-- A completion of Table 11.7: it takes no count and starts no engine. -/
def State.ringFail (s : State) (n r : Nat) (o : Word × Verdict) : State :=
  (s.consume n r).complete (.ring (BitVec.ofNat 6 n) (BitVec.ofNat 4 r) o.1) o.2 false 0

/-- Start a well-formed chain: it is submitted under its opcode (R329). -/
def State.ringStart (s : State) (n r : Nat) (es : List FetchedEntry) : State :=
  let u := ringSubmission n r es
  match u.withChain ((es.drop 1).map fun e => entryBody e.body) with
  | .error v => (s.consume n r).complete u.origin v false 0
  | .ok u => (s.consume n r).submit u.op u

/-- All the home queues of a ring's slice are full for the jobs of a chain (R165). -/
def State.startWaits (s : State) (n r : Nat) (st : Option (List FetchedEntry)) : Bool :=
  match st with
  | none => false
  | some es => let op := (ringSubmission n r es).op; !engineless op && s.homeFull (opClass op) n

/-- Take an entry's step: the entries are consumed, the completions written in order, the chain started. A ring that stops
on the way starts nothing. -/
def State.takeStep (s : State) (n r : Nat) (rest : List FetchedEntry) (p : EntryStep) : State :=
  let g := s.ring n r
  let s := s.setRing n r { g with
    head := g.head + BitVec.ofNat 32 p.take, chain := p.keep, fetched := rest, waitCq := false }
  let s := p.outs.foldl (fun t o => t.ringFail n r o) s
  match p.start with
  | some es => if (s.ring n r).state == .running then s.ringStart n r es else s
  | none => s

/-- Serve the front copy of a ring, if it can be used (R325, R327): the tail covers it, its mark is set, a completion slot
is free for each completion, and its class has room. None: the ring waits. -/
def State.ringStep (s : State) (n r : Nat) : Option State :=
  let g := s.ring n r
  match g.fetched with
  | [] => .none
  | e :: rest =>
    if !s.ringServed n r || decide (g.covered ≤ g.chain.length) || !g.owned e then none
    else
      let p := entryStep g.chain e
      if s.startWaits n r p.start then none
      else if g.slots < max 1 (p.outs.length + (if p.start.isSome then 1 else 0)) then
        some (s.setRing n r { g with waitCq := true })
      else some (s.takeStep n r rest p)

/-- One turn of a ring (R327): one entry, or one whole chain as far as its entries are there. The flag says that it moved on. -/
def State.ringTurn (s : State) (n r : Nat) : Nat → State × Bool
  | 0 => (s, false)
  | k + 1 =>
    match s.ringStep n r with
    | none => (s, false)
    | some t =>
      if (t.ring n r).waitCq then (t, false)
      else if (t.ring n r).chain.isEmpty then (t.setSlc n { t.slc n with lastRing := BitVec.ofNat 4 r }, true)
      else ((t.ringTurn n r k).1, true)

/-- The turn of a slice: the first ring that moves on, of a list. -/
def State.sliceTurn (n : Nat) : List Nat → State → State × Bool
  | [], s => (s, false)
  | r :: rs, s =>
    let x := s.ringTurn n r (s.ring n r).fetched.length
    if x.2 then x else State.sliceTurn n rs x.1

/-- The rings of a slice from the one after the last served on (R327). -/
def Slice.ringOrder (x : Slice) : List Nat := (List.range 16).map fun i => (x.lastRing.toNat + 1 + i) % 16

/-- A slice has copies that its rings hold. -/
def State.hasCopies (s : State) (n : Nat) : Bool := (s.slc n).rings.any fun e => !e.2.fetched.isEmpty

/-- One turn of every slice in the rotated slice order (R167, R327). -/
def State.serveRound (s : State) : State × Bool :=
  (((List.range 64).map fun i => (s.whisk.frame.toNat + i) % 64).filter s.hasCopies).foldl (fun acc n =>
    let x := State.sliceTurn n (acc.1.slc n).ringOrder acc.1
    (x.1, acc.2 || x.2)) (s, false)

/-- Turns for as long as a ring moves on. -/
def State.serveFuel : Nat → State → State
  | 0, s => s
  | k + 1, s => let x := s.serveRound; if x.2 then State.serveFuel k x.1 else x.1

/-- Serve every ring that holds copies. -/
def State.serveAll (s : State) : State :=
  s.serveFuel ((s.host.slices.flatMap fun e => e.2.rings.map fun g => g.2.fetched.length).sum)

/-- Serve the rings after an event of one, which alone can have made one of them move on. -/
def State.serve (s : State) (n r : Nat) : State := if (s.ring n r).fetched.isEmpty then s else s.serveAll

/-! ### What the fetcher reads -/

/-- The fetch window (R325): up to 8 entries beyond the tail, never more than SQ SIZE beyond the head. -/
def Ring.window (g : Ring) : Nat := min (g.covered + 8) g.sqSize

/-- The address of a submission slot (R322). -/
def Ring.slotAt (g : Ring) (i : Word) : DWord := g.sq + BitVec.ofNat 64 (64 * (i.toNat % g.sqSize))

/-- A copy of the next entry arrives (R325). -/
def State.fetchEntry (s : State) (n r : Nat) (entry host : Bytes) : State :=
  let g := s.ring n r
  if !s.ringServed n r || !s.host.linkUp || decide (g.window ≤ g.held) then s
  else
    let i := g.head + BitVec.ofNat 32 g.held
    let e : FetchedEntry := { index := i, body := fit 64 entry, host := host }
    ((s.setRing n r { g with fetched := g.fetched ++ [e] }).atsUse (s.ringPasid n r) (g.slotAt i) 64).serve n r

/-- Replace the first copy that the tail covers and whose mark is not set. -/
def replaceUnowned (g : Ring) (body host : Bytes) : Nat → List FetchedEntry → List FetchedEntry
  | _, [] => []
  | k, e :: es =>
    if k < g.covered && !g.owned e then { e with body := body, host := host } :: es
    else e :: replaceUnowned g body host (k + 1) es

/-- Index of the first copy that the tail covers and whose mark is not set, which is fetched again. -/
def Ring.unownedAt (g : Ring) : Word :=
  match (g.fetched.take (g.covered - g.chain.length)).find? fun e => !g.owned e with
  | some e => e.index
  | none => g.head + BitVec.ofNat 32 g.held

/-- An entry under the tail whose mark was not set is fetched again (R325). -/
def State.refetchEntry (s : State) (n r : Nat) (entry host : Bytes) : State :=
  let g := s.ring n r
  if !s.ringServed n r || !s.host.linkUp then s
  else
    let l := replaceUnowned g (fit 64 entry) host g.chain.length g.fetched
    ((s.setRing n r { g with fetched := l }).atsUse (s.ringPasid n r) (g.slotAt g.unownedAt) 64).serve n r

/-- The front entry's mark is still not set 1 ms after the tail covered it (R325): it is consumed with NOT_OWNED, and a
chain that was open is broken. -/
def State.notOwned (s : State) (n r : Nat) : State :=
  let g := s.ring n r
  match g.fetched with
  | [] => s
  | e :: rest =>
    if !s.ringServed n r || decide (g.covered ≤ g.chain.length) || g.owned e then s
    else
      let broken : List (Word × Verdict) :=
        match g.chain.getLast? with | some l => [(l.index, verdict St.chainBroken 0x92)] | none => []
      let outs := broken ++ [(e.index, verdict St.malformed 0x90)]
      if g.slots < outs.length then s.setRing n r { g with waitCq := true }
      else
        let p : EntryStep := { outs := outs, start := none, keep := [], take := g.chain.length + 1 }
        (s.takeStep n r rest p).serve n r

/-! ### The ring's registers -/

/-- A doorbell that is not accepted (R323). -/
def State.badDoorbell (s : State) (n r : Nat) : State :=
  let g := s.ring n r
  (s.setRing n r { g with badDoorbell := true }).pgErr n 3

/-- RNG_SQ_TAIL is written (R323). -/
def State.writeTail (s : State) (n r : Nat) (v : Word) : State :=
  let g := s.ring n r
  if (v - g.tail).toNat ≤ g.sqSize ∧ (v - g.head).toNat ≤ g.sqSize then
    (s.setRing n r { g with tail := v }).serve n r
  else s.badDoorbell n r

/-- RNG_CQ_HEAD is written (R323). -/
def State.writeCqHead (s : State) (n r : Nat) (v : Word) : State :=
  let g := s.ring n r
  if (v - g.cqHead).toNat ≤ g.cqSize ∧ (g.cqTail - v).toNat ≤ g.cqSize then
    (s.setRing n r { g with cqHead := v, waitCq := false }).serve n r
  else s.badDoorbell n r

/-- Jobs of a ring that were started before it was disabled or reset complete into no ring (assumption 41). -/
def State.orphanRing (s : State) (n : Nat) (which : Nat → Bool) : State :=
  let mine (j : Job) : Bool :=
    match j.sub.origin with | .ring m r _ => m.toNat == n && which r.toNat | _ => false
  let jobs := s.eng.jobs.map fun j => if mine j then { j with sub := { j.sub with origin := .device } } else j
  { s with eng := { s.eng with jobs := jobs } }

/-- ENABLE is set (R322). -/
def State.enableRing (s : State) (n r : Nat) : State :=
  let g := s.ring n r
  if g.enable then s
  else if 4 ≤ g.sqLog2.toNat ∧ g.sqLog2.toNat ≤ g.cqLog2.toNat ∧ g.cqLog2.toNat ≤ 16 ∧
      ((s.slc n).pasid g.pasidIdx.toNat).isSome then
    (s.orphanRing n fun k => k == r).setRing n r { g with
      enable := true, state := .running, tail := 0, head := 0, cqHead := 0, cqTail := 0, sealDrop := 0, chain := [],
      fetched := [], inFlight := 0, unsignalled := 0, waitCq := false }
  else s.setRing n r { g with badCfg := true }

/-- ENABLE is cleared (R322, Table 11.10): fetching stops, an open chain is not started. -/
def State.disableRing (s : State) (n r : Nat) : State :=
  let g := s.ring n r
  if !g.enable then s
  else s.setRing n r { g with
    enable := false, chain := [], fetched := [], waitCq := false,
    state := if g.state == .stopped || g.inFlight == 0 then .disabled else g.state }

/-- COAL_US µs have passed since the first completion not yet signalled (R333). -/
def State.coalesce (s : State) (n r : Nat) : State :=
  let g := s.ring n r
  if g.irqEn && g.coalUs != 0 && g.unsignalled != 0 then s.signalRing n r else s

end Sys2Proof.Machine
end

