-- ==== Sys2Proof/Machine/SliceOps.lean ====
section
/-! DEFINITION. The slice lifecycle: SLC_CTL, quiesce, reset, removal, the binding table (R315 to R321). -/

namespace Sys2Proof.Machine

/-- A job belongs to a slice's rings or to N contexts bound to it (R319). -/
def Job.ofSlice (j : Job) (n : Nat) : Bool := j.sub.issuer.slice? == some (BitVec.ofNat 6 n)

/-- Record a refused SLC_CTL command (R339); a bit of SLC_ERR names it. -/
def State.ctlRefused (s : State) (n bit : Nat) : State :=
  (s.slcErr n bit).logSlice 6 2 2 sevAudit (BitVec.ofNat 8 n) n 0 bit

/-- QUIESCE takes effect in ACTIVE (R319 steps 1 and 2): copies are dropped, jobs that have not started end. -/
def State.quiesceSlice (s : State) (n : Nat) : State :=
  let s := (s.moveSlice n .quiescing).dropFetched n
  let gone := (s.eng.jobs.filter fun j =>
    j.ofSlice n && j.seal_.isNone && !j.started && j.stage != .running).map Job.id
  (gone.foldl (fun t id => t.finish id vAborted 0) s).settle

/-- Clearing QUIESCE stops the drain (R319): the jobs that it was to end at their boundaries go on, but for those whose queue a
RESET has disabled (R269). -/
def State.resumeJobs (s : State) (n : Nat) : State :=
  let reset (j : Job) : Bool := match j.sub.origin with | .queue k q _ => !((s.ctx k.toNat).queue q).enable | _ => false
  let jobs := s.eng.jobs.map fun j =>
    if j.ofSlice n && j.ending == some vAborted && !reset j then { j with ending := none } else j
  { s with eng := { s.eng with jobs := jobs } }

/-- A write of SLC_CTL.QUIESCE (R318, R319). -/
def State.writeQuiesce (s : State) (n : Nat) (q : Bool) : State :=
  let x := s.slc n
  let t := s.setSlc n { x with quiesce := q }
  if q && x.state == .active then t.quiesceSlice n
  else if !q && (x.state == .quiescing || x.state == .quiesced) then
    (((t.setSlc n { t.slc n with d3 := false }).moveSlice n .active).resumeJobs n).settle
  else t

/-- ACTIVATE (R318): a slice in FREE with a VALID PASID, in a mode whose rings work, becomes ACTIVE; with QUIESCE set it
quiesces at once. In any other state, and without a VALID PASID, ENABLE_UNBOUND is set. -/
def State.activate (s : State) (n : Nat) : State :=
  let x := s.slc n
  if x.state != .free then s.ctlRefused n 2
  else if !s.modeAllows .h .open_ then s.logSlice 6 2 2 sevAudit (BitVec.ofNat 8 n) n 0 6
  else if x.bound.isEmpty then s.ctlRefused n 2
  else
    let s := s.moveSlice n .active
    if x.quiesce then s.quiesceSlice n else s

/-- Whisk's counters of a slice (Table 11.4); the balance stays. -/
def Account.cleared (a : Account) : Account :=
  { a with owned := 0, borrowed := 0, preempt := 0, waitNs := 0, since := none }

/-- A slice's channel is cleared with its pending reseed, and asks to be instantiated from a verified block (R152, R153). -/
def State.restartChannel (s : State) (n : Nat) : State :=
  let mine (r : Request) : Bool := match r.want with | .slice x _ _ => r.job.isNone && x.toNat == n | _ => false
  let s := { s with cld := { s.cld with waiting := s.cld.waiting.filter fun r => !mine r } }
  (s.setChannel n Channel.reset).await (.slice (BitVec.ofNat 6 n) 0 true) none

/-- The left column of Table 11.4 (R320). -/
def State.clearSlice (s : State) (n : Nat) : State :=
  let x := s.slc n
  let s := s.orphanRing n fun _ => true
  let s := s.setSlc n { x with
    rings := [], wbuf := [], rbuf := [], wStream := false, rStream := false, wPtr := 0, rPtr := 0, pgErr := 0, pgFlt := 0,
    se := x.se + 1 }
  let s := (s.keySliceReset n).noteKeys
  let slots := s.eng.slots.filter fun e => e.1 / 16 != n
  let s := { s with eng := { s.eng with slots := slots } }
  let s := (s.restartChannel n).calSliceReset n
  let mine := (s.worlds.ctxs.filter fun e => e.2.startLevel == .n && e.2.slice.toNat == n).map Prod.fst
  let s := mine.foldl State.ctxReset s
  let s := s.closeMarkets fun m => m.slice.toNat == n
  { s with whisk := { s.whisk with
    busy := sparseSet 0#32 s.whisk.busy n 0#32
    accounts := sparseMap Account.reset (fun k a => if k % 64 == n then a.cleared else a) s.whisk.accounts } }

/-- RESET (R320). -/
def State.resetSlice (s : State) (n : Nat) : State :=
  if (s.slc n).state != .quiesced then s.ctlRefused n 0
  else (s.moveSlice n .resetting).clearSlice n

/-- REMOVE (R321): a reset, then the binding table and the stage-2 table are invalidated and the secure world is asked to
clear the map. The spec gives the request no encoding: its KIND is free (assumption 42). -/
def State.removeSlice (s : State) (n : Nat) : State :=
  if (s.slc n).state != .quiesced then s.ctlRefused n 1
  else
    let s := (s.moveSlice n .removing).clearSlice n
    let s := s.setSlc n { s.slc n with binds := [] }
    let w := { s.worlds with
      s2 := s.worlds.s2.filter fun e => e.1 / 64 != n
      s2Pending := s.worlds.s2Pending.filter fun c => c.slice.toNat != n }
    let f := ({ s with worlds := w }).freeValue 8
    f.2.postEvent 65 { kind := f.1, arg := BitVec.ofNat 32 n, tag := 0, index := 0 }

/-- A write of SLC_CTL (R318): the QUIESCE part, then at most one command. -/
def State.sliceCtl (s : State) (n : Nat) (value : Word) : State :=
  let s := s.writeQuiesce n (value.getLsbD 1)
  match value.getLsbD 0, value.getLsbD 2, value.getLsbD 3 with
  | false, false, false => s
  | true, false, false => s.activate n
  | false, true, false => s.resetSlice n
  | false, false, true => s.removeSlice n
  | _, _, _ => s.ctlRefused n 5

/-- The slice that SLC_SEL names (Table 11.16). -/
def State.slcSel (s : State) : Nat := (s.reg 0x020000).toNat % 64

/-- The bits of SLC_INT_STS and SLC_EVT that a lifecycle event of a slice sets (Table 11.16). -/
def State.sliceEvent (s : State) (n bit : Nat) : State := (s.setSliceBit 0x020058 n).raise intSlc bit

/-- Ladle writes that were dropped during RESETTING are reported when the reset ends (R320). -/
def State.reportDrops (s : State) (n : Nat) : State :=
  let x := s.slc n
  if x.resetDrop then (s.setSlc n { x with resetDrop := false }).pgErr n 2 else s

/-- The drain of a slice is complete (R319 step 4). -/
def State.sliceDrained (s : State) (n : Nat) : State :=
  if (s.slc n).state != .quiescing || s.eng.jobs.any (fun j => j.ofSlice n && j.seal_.isNone) then s
  else (s.moveSlice n .quiesced).sliceEvent n 0

/-- Running jobs of a slice that still drains end at their next boundary (R319 step 3). -/
def State.drainTimeout (s : State) (n : Nat) : State :=
  if (s.slc n).state != .quiescing then s
  else
    let jobs := s.eng.jobs.map fun j => if j.ofSlice n && j.seal_.isNone then { j with ending := some vAborted } else j
    { s with eng := { s.eng with jobs := jobs } }

/-- A slice reset ends (R320). -/
def State.resetEnds (s : State) (n : Nat) : State :=
  if (s.slc n).state != .resetting then s
  else ((s.moveSlice n .quiesced).reportDrops n).sliceEvent n 1

/-- The secure world has cleared the slice's map, and the removal ends (R282, R321). -/
def State.removalEnds (s : State) (n : Nat) : State :=
  if (s.slc n).state != .removing || s.worlds.restarting then s
  else
    let w := { s.worlds with
      maps := sparseSet [] s.worlds.maps n [], admitted := sparseSet [] s.worlds.admitted n [] }
    ((({ s with worlds := w }).moveSlice n .free).reportDrops n).sliceEvent n 2

/-! ### Bindings (R316, R317) -/

/-- An enabled ring of a slice names a binding entry. -/
def Slice.names (x : Slice) (i : Nat) : Bool := x.rings.any fun e => e.2.enable && e.2.pasidIdx.toNat == i

/-- A PASID is VALID in the table of a slice other than `n`, or is the manager's. -/
def State.pasidTaken (s : State) (n : Nat) (p : BitVec 20) : Bool :=
  p == s.host.mgrPasid || s.host.slices.any fun e => e.1 != n && e.2.bound.any fun b => b.2 == p

/-- A write of SLC_PASID_ENT for the entry that SLC_SEL and SLC_PASID_SEL name (R316). -/
def State.writeBinding (s : State) (value : Word) : State :=
  let n := s.slcSel
  let i := (s.reg 0x020010).toNat % 16
  let x := s.slc n
  let e := value &&& 0x800FFFFF#32
  if e.getLsbD 31 && s.pasidTaken n (e.setWidth 20) then s.slcErr n 3
  else if (x.names i && e != sparseGet 0#32 x.binds i) || !(x.state == .free || x.state == .quiesced) then s.slcErr n 4
  else s.setSlc n { x with binds := sparseSet 0#32 x.binds i e }

/-- A write of SLC_MGR_PASID (R317): LOCK fixes it. -/
def State.writeManager (s : State) (value : Word) : State :=
  if s.host.mgrLock then s
  else { s with host := { s.host with
    mgrPasid := value.setWidth 20, untagged := value.getLsbD 30, mgrLock := value.getLsbD 31 } }

/-! ### The Ladle (R334) -/

/-- A write of LDL_SPLIT for the slice that LDL_SEL names: a change zeroes the buffer. -/
def State.writeSplit (s : State) (value : Word) : State :=
  let n := (s.reg 0x040000).toNat % 64
  let x := s.slc n
  let v := value.setWidth 5
  if 16 < v.toNat || v == x.split || !(x.state == .free || x.state == .quiesced) then s
  else s.setSlc n { x with split := v, wbuf := [], rbuf := [] }

end Sys2Proof.Machine
end

