-- ==== Sys2Proof/Machine/HostCommands.lean ====
section
/-! DEFINITION. The meanings of the host link's events and of the slice, ring and Ladle commands (R309 to R337, R451, R474). -/

namespace Sys2Proof.Machine

/-! ### Failures of the device's own requests (R313) -/

/-- An image command carries the manager's PASID (R67, R312); another job, that of its ring. -/
def State.jobPasid (s : State) (j : Job) : Option (BitVec 20) :=
  if isKtOp j.sub.op then some s.host.mgrPasid
  else s.originPasid j.sub.origin

/-- The slice and the PASID on whose behalf a request was made (Table 11.16). -/
def State.dmaFor (s : State) (c : DmaCause) : Option (BitVec 6) × Option (BitVec 20) :=
  match c with
  | .job id => match s.job id with
    | some j => (if isKtOp j.sub.op then .none else j.sub.slice?, s.jobPasid j)
    | .none => (.none, .none)
  | .fetch n r => (some n, s.ringPasid n.toNat r.toNat)
  | .refetch n r => (some n, s.ringPasid n.toNat r.toNat)
  | .completion n r => (some n, s.ringPasid n.toNat r.toNat)
  | .sealBuffer n r => (some n, s.ringPasid n.toNat r.toNat)

/-- The INDEX of the completion that a write carries, at octet 4 (Table 11.8). -/
def HostWrite.index (w : HostWrite) : Word := fieldLE 32 4 4 w.data

/-- A completion write failed (R326): the completion is lost, CQ_TAIL has not advanced, and the ring stops at its INDEX. So does
one whose ENABLE was cleared and whose last completion it was. -/
def State.completionLost (s : State) (n : BitVec 6) (r : Nat) : State :=
  let g := s.ring n.toNat r
  let slot := g.cq + BitVec.ofNat 64 (16 * ((g.cqTail - 1).toNat % g.cqSize))
  match s.host.dma.reverse.find? fun w => w.slice == some n && w.addr == slot && w.data.length == 16 with
  | none => s
  | some w =>
    if g.state == .stopped then s
    else
      let s := { s with host := { s.host with dma := (s.host.dma.reverse.erase w).reverse } }
      (s.setRing n.toNat r { g with cqTail := g.cqTail - 1 }).stopRing n.toNat r w.index 5

/-- What a failed request does to its job or ring (R313, R326). -/
def State.dmaFails (s : State) (c : DmaCause) : State :=
  match c with
  | .job id => (s.finish id (verdict St.accessFault 0x95) 0).settle
  | .fetch n r =>
    let g := s.ring n.toNat r.toNat
    if g.state != .running then s
    else s.stopRing n.toNat r.toNat (g.head + BitVec.ofNat 32 g.held) 4
  | .refetch n r =>
    let g := s.ring n.toNat r.toNat
    if g.state != .running then s else s.stopRing n.toNat r.toNat g.unownedAt 4
  | .completion n r => s.completionLost n r.toNat
  | .sealBuffer _ _ => s

/-- UR, CA or poisoned data, or a translation refused (`ats`). -/
def execDmaFailure (cause : DmaCause) (addr : BitVec 64) (write ats : Bool) (s : State) : Out :=
  s.whilePowered fun s =>
    let w := s.dmaFor cause
    (s.hostFault (if ats then 6 else 4) addr w.2 write false w.1).dmaFails cause

/-- No completion within 50 ms. -/
def execDmaTimeout (cause : DmaCause) (addr : BitVec 64) (write : Bool) (s : State) : Out :=
  s.whilePowered fun s =>
    let w := s.dmaFor cause
    (s.hostFault 5 addr w.2 write false w.1).dmaFails cause

/-- A segment in progress has made requests to host memory, or will. -/
def State.usesHost (s : State) (g : Segment) : Bool :=
  match s.job g.job with
  | some j => j.sub.source.any (fun f => f.space == 1) || (s.destOf j.sub).1 == 1
  | none => false

/-- An invalidation request (R312, R337): the translations are dropped, and the Invalidate Completion is sent once the segments
that are in progress with requests to host memory have ended. DESIGN CHOICE: the command names no range, so that it invalidates all
of them (assumption 104). -/
def execAtsInvalidation (s : State) : Out :=
  s.whilePowered fun s =>
    if !s.host.atsEn then s
    else
      let mark (e : Engine) : Engine :=
        { e with running := e.running.map fun g => if s.usesHost g then { g with awaited := true } else g }
      let t : State := { s with
        host := { s.host with ats := [], atsDue := s.host.atsDue + 1 }
        eng := { s.eng with table := sparseMap Engine.reset (fun _ e => mark e) s.eng.table } }
      t.atsDone

/-! ### Power states, resets and training of the link -/

/-- QUIESCE is set on every ACTIVE slice; `d3` sets SLC_PG_STS.D3 on them (R315, R451). -/
def State.quiesceActive (s : State) (d3 : Bool) : State :=
  ((s.host.slices.filter fun e => e.2.state == .active).map Prod.fst).foldl (fun t n =>
    let t := t.writeQuiesce n true
    if d3 then t.setSlc n { t.slc n with d3 := true } else t) s

/-- The function enters D3hot (R315). -/
def State.enterD3 (s : State) : State :=
  if s.host.d3hot then s else ({ s with host := { s.host with d3hot := true } }).quiesceActive true

/-- The function returns to D0 (R315). -/
def State.leaveD3 (s : State) : State := { s with host := { s.host with d3hot := false } }

/-- D3hot is entered. -/
def execD3hotEntry (s : State) : Out := s.whilePowered State.enterD3

/-- D0 is returned to. -/
def execD0Return (s : State) : Out := s.whilePowered State.leaveD3

/-- The link resets (R451): configuration space, MSI-X and ATS as after reset, the jobs whose requests are discarded end,
and the ACTIVE slices quiesce. -/
def execLinkReset (discarded : List Nat) (s : State) : Out :=
  s.whilePowered fun s =>
    let h := { s.host with
      config := [], atsEn := false, ats := [], pasidEn := false, msixEn := false, funcMask := false, d3hot := false, linkUp := false,
      speed := 0, width := 0, pba := [],
      msix := sparseMap MsixEntry.reset (fun _ e => { e with masked := true }) s.host.msix }
    let s := discarded.foldl (fun t id => t.finish id (verdict St.accessFault 0x95) 0) { s with host := h }
    s.settle.quiesceActive false

/-- The link finishes training (R314). -/
def execHostLinkUp (speed : BitVec 4) (width : BitVec 5) (s : State) : Out :=
  s.whilePowered fun s =>
    ({ s with host := { s.host with linkUp := true, speed := speed, width := width } }).serveAll

/-! ### Configuration space (R309, R474) -/

/-- The value of the first range of a list that holds an offset: where it starts, its octets. -/
def inRanges (o : Nat) : List (Nat × Bytes) → Option Byte
  | [] => none
  | r :: rs => if r.1 ≤ o ∧ o < r.1 + r.2.length then some (octet (o - r.1) r.2) else inRanges o rs

/-- Offset of AER, the first of the extended capabilities. -/
abbrev capAer : Nat := 0x100

/-- Header of an extended capability: its ID, version 1, where the next stands (assumption 40). -/
def extHeader (id next : Nat) : Bytes := leNat 4 (id + 0x10000 + next * 0x100000)

/-- What Table 11.1 fixes of configuration space, at the places of the base specification (assumption 40): the identity, with the
Vendor ID that the device identity reports; a Type 0 header of one function; the BARs' types and sizes, with no BAR4, BAR5 and
expansion ROM; and of the capabilities, which are only those implemented, the IDs in their list, the MSI-X table's size, its
offset and the PBA's, the payload size, the link, the completion timeout, PASID's and ATS's. -/
def configFixed : List (Nat × Bytes) :=
  let pm := Config.capPm.toNat
  let pcie := Config.capPcie.toNat
  let msix := Config.capMsix.toNat
  let ats := Config.capAts.toNat
  let pasid := Config.capPasid.toNat
  [(0x00, [(Config.deviceIdent >>> 16).setWidth 8, (Config.deviceIdent >>> 24).setWidth 8, 0x96, 0x64]),
   (0x08, [0xB0, 0x00, 0x80, 0x10]), (0x0E, [0x00]),
   (0x10, [0x04, 0x00, 0x00]), (0x18, [0x0C, 0x00, 0x00]), (0x20, zeros 8), (0x30, zeros 4),
   (0x34, [BitVec.ofNat 8 pm]), (pm, [0x01, BitVec.ofNat 8 pcie]), (pcie, [0x10, BitVec.ofNat 8 msix]),
   (msix, [0x11, 0x00, 0xFF]), (msix + 4, leNat 4 0x00200000), (msix + 8, leNat 4 0x00208000),
   (capAer, extHeader 0x0001 ats), (ats, extHeader 0x000F pasid), (ats + 4, [0x20, 0x00]), (pasid, extHeader 0x001B 0),
   (pasid + 4, [0x00, 0x14])]

/-- Bits that read as Table 11.1 has them in octets whose other bits it leaves: the mask of the bits, and their value. -/
def configBits (o : Nat) : Byte × Byte :=
  let pm := Config.capPm.toNat
  let pcie := Config.capPcie.toNat
  let bits : List (Nat × Byte × Byte) := [
    (0x1B, 0x03, 0x00),                  -- BAR2: 64 MiB
    (Config.capMsix.toNat + 3, 0x07, 0x07),  -- MSI-X: table size 2,047 + 1
    (pm + 3, 0x06, 0x00),                -- no D1 and D2
    (pcie + 4, 0x07, 0x05),              -- Max Payload Size supported: 4,096 B
    (pcie + 7, 0x10, 0x00),              -- no FLR
    (pcie + 9, 0x80, 0x00),              -- nor its control bit
    (pcie + 0x0C, 0xFF, 0x05), (pcie + 0x0D, 0x0F, 0x01),  -- 32 GT/s, ×16, no ASPM
    (pcie + 0x10, 0x03, 0x00),           -- nor its control bits
    (pcie + 0x24, 0x1F, 0x00),           -- Completion Timeout: one range, no disabling
    (pcie + 0x25, 0x08, 0x00),           -- no LTR
    (pcie + 0x26, 0x03, 0x03),           -- 10-bit Tag Completer and Requester
    (pcie + 0x28, 0x1F, 0x00), (pcie + 0x29, 0x04, 0x00),  -- the control bits of these
    (Config.capPasid.toNat + 6, 0x06, 0x00)] -- PASID: no Execute Permission, no Privileged Mode
  match bits.find? fun b => b.1 == o with
  | some b => b.2
  | none => (0, 0)

/-- The reset value of a byte of configuration space, and the bits that a request can write. The address bits of the BARs, which
Table 11.1 gives sizes, are zero after reset and can be written. -/
def configReset (o : Nat) : Byte := if (0x13 ≤ o ∧ o < 0x18) ∨ (0x1B ≤ o ∧ o < 0x20) then 0 else Config.pciReset o
def configMask (o : Nat) : Byte :=
  (if (0x13 ≤ o ∧ o < 0x18) ∨ (0x1B ≤ o ∧ o < 0x20) then 0xFF else Config.pciMask o) &&& ~~~(configBits o).1

/-- AER's two status registers, at their octets (R313). -/
def State.aerByte (s : State) (o : Nat) : Option Byte :=
  inRanges o [(capAer + 4, le 4 s.host.aerUe), (capAer + 0x10, le 4 s.host.aerCe)]

/-- A byte of configuration space. -/
def State.configByte (s : State) (o : Nat) : Byte :=
  match inRanges o configFixed, s.aerByte o with
  | some b, _ => b
  | none, some b => b
  | none, none =>
    let x := configBits o
    ((configReset o ^^^ memByte s.host.config o) &&& ~~~x.1) ||| x.2

/-- Write a byte of configuration space: the bits that a request can write. A 1 clears a bit of AER's status; a power state that
the function does not have is not taken. -/
def State.writeConfig (s : State) (o : Nat) (b : Byte) : State :=
  if (inRanges o configFixed).isSome then s
  else if (s.aerByte o).isSome then
    let clear (base : Nat) (w : Word) : Word := if base ≤ o ∧ o < base + 4 then w &&& ~~~(b.setWidth 32 <<< (8 * (o - base))) else w
    { s with host := { s.host with aerUe := clear (capAer + 4) s.host.aerUe, aerCe := clear (capAer + 0x10) s.host.aerCe } }
  else
    let b := if o = Config.capPm.toNat + 4 && (b &&& 3 == 1 || b &&& 3 == 2) then (b &&& 0xFC) ||| (s.configByte o &&& 3) else b
    let v := (s.configByte o &&& ~~~configMask o) ||| (b &&& configMask o)
    { s with host := { s.host with config := memSetByte s.host.config o (v ^^^ configReset o) } }

/-- Send the message of every vector that is pending and no longer masked (R314). -/
def State.sendPending (s : State) : State :=
  if !s.host.msixEn || s.host.funcMask then s
  else
    let open_ (v : Nat) : Bool := !(sparseGet MsixEntry.reset s.host.msix v).masked
    { s with host := { s.host with
      msgs := s.host.msgs ++ s.host.pba.filter open_, pba := s.host.pba.filter fun v => !open_ v } }

/-- The enables that a write of configuration space changes: MSI-X Enable and Function Mask, ATS Enable, PASID Enable,
the power state. -/
def State.configEffect (s : State) (offset : BitVec 12) (v : Word) : State :=
  if offset = Config.capMsix then
    ({ s with host := { s.host with msixEn := v.getLsbD 31, funcMask := v.getLsbD 30 } }).sendPending
  else if offset = Config.capAts + 4 then { s with host := { s.host with
    atsEn := v.getLsbD 31, ats := if v.getLsbD 31 then s.host.ats else [] } }
  else if offset = Config.capPasid + 4 then { s with host := { s.host with pasidEn := v.getLsbD 16 } }
  else if offset = Config.capPm + 4 then
    if v.extractLsb' 0 2 = 3#2 then s.enterD3 else if v.extractLsb' 0 2 = 0#2 then s.leaveD3 else s
  else s

/-- A configuration request (R474): Configuration Request Retry Status before the device is ready, else performed. -/
def execPcieConfigurationRequest (write : Bool) (offset : BitVec 12) (value : Word) (s : State) : Out :=
  s.whilePowered fun s =>
    if !s.host.linkUp then { s with host := { s.host with retry := true } }
    else
      let s := { s with host := { s.host with retry := false } }
      let o := offset.toNat / 4 * 4
      if write then
        let t := ((List.range 4).zip (le 4 value)).foldl (fun t e => t.writeConfig (o + e.1) e.2) s
        t.configEffect (BitVec.ofNat 12 o) value
      else { s with host := { s.host with readData := (List.range 4).map fun i => s.configByte (o + i) } }

/-! ### Bindings and the slice lifecycle -/

/-- SLC_PASID_ENT is written by S and H. -/
def execSlcPasidEntWrite (who : Accessor) (value : Word) (s : State) : Out :=
  s.whilePowered fun s => s.writeBy who.isSH who 0x020014 fun s => s.writeBinding value

/-- SLC_MGR_PASID is written by S. -/
def execSlcMgrPasidWrite (who : Accessor) (value : Word) (s : State) : Out :=
  s.whilePowered fun s => s.writeBy who.isS who 0x020020 fun s => s.writeManager value

/-- SLC_CTL is written by S and H for the slice that SLC_SEL names. -/
def State.ctlBy (s : State) (who : Accessor) (value : Word) : State :=
  s.writeBy who.isSH who 0x020004 fun s => s.sliceCtl s.slcSel value

/-- SLC_CTL is written with ACTIVATE. -/
def execSliceActivate (who : Accessor) (s : State) : Out := s.whilePowered fun s => s.ctlBy who 0x1

/-- SLC_CTL is written with QUIESCE. -/
def execSliceQuiesce (who : Accessor) (s : State) : Out := s.whilePowered fun s => s.ctlBy who 0x2

/-- SLC_CTL is written with QUIESCE clear. -/
def execSliceUnquiesce (who : Accessor) (s : State) : Out := s.whilePowered fun s => s.ctlBy who 0x0

/-- SLC_CTL is written with QUIESCE and RESET, as R318 has it. -/
def execSliceReset (who : Accessor) (s : State) : Out := s.whilePowered fun s => s.ctlBy who 0x6

/-- SLC_CTL is written with QUIESCE and REMOVE. -/
def execSliceRemove (who : Accessor) (s : State) : Out := s.whilePowered fun s => s.ctlBy who 0xA

/-- 2 ms of a quiesce have passed. -/
def execQuiesceDrainTimeout (slice : BitVec 6) (s : State) : Out := s.whilePowered fun s => s.drainTimeout slice.toNat

/-- The drain of a slice is complete. -/
def execSliceQuiesced (slice : BitVec 6) (s : State) : Out := s.whilePowered fun s => s.sliceDrained slice.toNat

/-- A slice reset ends. -/
def execSliceResetDone (slice : BitVec 6) (s : State) : Out := s.whilePowered fun s => s.resetEnds slice.toNat

/-- A removal ends. -/
def execSliceRemoved (slice : BitVec 6) (s : State) : Out := s.whilePowered fun s => s.removalEnds slice.toNat

/-! ### Rings -/

/-- The first request on a slice's page or window that was not performed since SLC_PG_ERR.ACCESS was clear (R311). -/
def State.pageFault (s : State) (n off : Nat) (bar2 write : Bool) : State :=
  let x := s.slc n
  let v : Nat := off % 0x4000000 + (if bar2 then 0x4000000 else 0) + (if write then 0x8000000 else 0)
  let s := if x.pgErr.getLsbD 0 then s else s.setSlc n { x with pgFlt := BitVec.ofNat 32 v }
  s.pgErr n 0

/-- Offset of a ring register in BAR0 (Table 11.13). -/
def ringAddr (n r reg : Nat) : Nat := 0x400000 + n * 0x10000 + 0x1000 + 0x40 * r + reg

/-- The baseline of the page and the Ladle window of a slice (Table 12.3): the manager, the slice itself, or no slice. -/
def ReqAttr.reaches (q : ReqAttr) (n : Nat) : Bool :=
  q.level == .h || (match q.slice with | some x => x.toNat == n | none => true)

/-- What keeps a host's write from a register of a slice's page (R37, R346): none, and it is performed. -/
def State.pageRefusal (s : State) (who : Accessor) (slice : BitVec 6) (addr : Nat) : Option (Nat × StrRefusal) :=
  let q := s.accessAttr who
  s.str.firstRefusal false q (q.reaches slice.toNat) permW (barCheck addr) 4

/-- A ring register is written by a host: one that the baseline, the windows and the rules let through. -/
def State.pageBy (s : State) (who : Accessor) (slice : BitVec 6) (addr : Nat) (f : State → State) : State :=
  if (s.accessAttr who).origin != .host then s
  else match s.pageRefusal who slice addr with
    | none => f s
    | some r =>
      let s := s.captureRefusal false (s.accessAttr who) permW r.1 r.2
      (s.hostFault 2 (BitVec.ofNat 64 addr) (s.pasidOf who) true true (some slice)).pageFault slice.toNat addr
        false true

/-- RNG_CFG.ENABLE is set. -/
def execRingEnable (who : Accessor) (slice : BitVec 6) (ring : BitVec 4) (s : State) : Out :=
  s.whilePowered fun s => s.pageBy who slice (ringAddr slice.toNat ring.toNat 0x10) fun s =>
    s.enableRing slice.toNat ring.toNat

/-- RNG_CFG.ENABLE is cleared. -/
def execRingDisable (who : Accessor) (slice : BitVec 6) (ring : BitVec 4) (s : State) : Out :=
  s.whilePowered fun s => s.pageBy who slice (ringAddr slice.toNat ring.toNat 0x10) fun s =>
    s.disableRing slice.toNat ring.toNat

/-- RNG_SQ_TAIL is written. -/
def execSqDoorbell (who : Accessor) (slice : BitVec 6) (ring : BitVec 4) (value : Word) (s : State) : Out :=
  s.whilePowered fun s => s.pageBy who slice (ringAddr slice.toNat ring.toNat 0x14) fun s =>
    s.writeTail slice.toNat ring.toNat value

/-- RNG_CQ_HEAD is written. -/
def execCqHeadWrite (who : Accessor) (slice : BitVec 6) (ring : BitVec 4) (value : Word) (s : State) : Out :=
  s.whilePowered fun s => s.pageBy who slice (ringAddr slice.toNat ring.toNat 0x1C) fun s =>
    s.writeCqHead slice.toNat ring.toNat value

/-- The fetcher reads an entry, and the octets that its source names in host memory. -/
def execEntryFetch (slice : BitVec 6) (ring : BitVec 4) (entry host : Bytes) (s : State) : Out :=
  s.whilePowered fun s => s.fetchEntry slice.toNat ring.toNat entry host

/-- An entry is fetched again. -/
def execEntryRefetch (slice : BitVec 6) (ring : BitVec 4) (entry host : Bytes) (s : State) : Out :=
  s.whilePowered fun s => s.refetchEntry slice.toNat ring.toNat entry host

/-- An entry is not owned 1 ms after the tail covered it. -/
def execNotOwnedTimeout (slice : BitVec 6) (ring : BitVec 4) (s : State) : Out :=
  s.whilePowered fun s => s.notOwned slice.toNat ring.toNat

/-- The coalescing time of a ring has passed. -/
def execCoalesceTimeout (slice : BitVec 6) (ring : BitVec 4) (s : State) : Out :=
  s.whilePowered fun s => s.coalesce slice.toNat ring.toNat

/-- LDL_SPLIT is written by S and H. -/
def execLdlSplitWrite (who : Accessor) (value : Word) (s : State) : Out :=
  s.whilePowered fun s => s.writeBy who.isSH who 0x040004 fun s => s.writeSplit value

end Sys2Proof.Machine
end

