-- ==== Sys2Proof/Machine/Stations.lean ====
section
/-! DEFINITION. Custodian stations: scanning, debouncing, cards, APDU exchanges, the event FIFO (R361 to R369). -/

namespace Sys2Proof.Machine

/-- Causes of CARD_FAULT (CUS_STN_STS.CAUSE). -/
abbrev faultNoAtr : BitVec 4 := 1
abbrev faultClassA : BitVec 4 := 2
abbrev faultT1 : BitVec 4 := 3
abbrev faultDropout : BitVec 4 := 4
abbrev faultCurrent : BitVec 4 := 5
abbrev faultAtr : BitVec 4 := 6

/-! ### Cards (R363 to R365) -/

/-- Activation starts at class C (Table 13.1). -/
def State.activateCard (s : State) (n : Nat) : State :=
  let t := s.stn n
  if t.card == .activating || t.card == .active then s
  else s.setStn n { t with card := .activating, classB := false, cause := 0, link := CardLink.default }

/-- What an ATR says (Table 13.1): that it offers T=1, the classes of its class indicator if it has one, TA1, and the first IFSC
and waiting-time octets of T=1. -/
structure Atr where
  one : Bool
  classes : Option (BitVec 3)
  rate : Option Byte
  ifsc : Option Byte
  waits : Option Byte
  deriving DecidableEq, Repr

/-- One group of interface octets: `i` its number, `y` the octets that it has, `p` the protocol of its last TD, if any. -/
def Atr.group (a : Atr) (i : Nat) (y p : Byte) (bs : Bytes) : Atr :=
  let ta : Option Byte := if y.getLsbD 0 then some (octet 0 bs) else none
  let tb : Option Byte := if y.getLsbD 1 then some (octet (if y.getLsbD 0 then 1 else 0) bs) else none
  let one := decide (2 < i) && p == 1
  { a with
    rate := if i = 1 then ta else a.rate
    classes := if p == 15 && ta.isSome && a.classes.isNone then ta.map fun x => x.setWidth 3 else a.classes
    ifsc := if one && a.ifsc.isNone then ta else a.ifsc
    waits := if one && a.waits.isNone then tb else a.waits }

/-- The groups of interface octets of an ATR, with the octets behind them, the historical octets and TCK, and whether TCK is
there: it is unless T=0 alone is offered. PRESUMED: the ISO/IEC 7816-3 layout (assumption 50). -/
def atrGroups : Nat → Nat → Byte → Byte → Bool → Atr → Bytes → Option (Atr × Bool × Bytes)
  | 0, _, _, _, _, _, _ => none
  | fuel + 1, i, y, p, check, a, bs =>
    let need (b : Nat) : Nat := if y.getLsbD b then 1 else 0
    let n := need 0 + need 1 + need 2
    if bs.length < n + need 3 then none
    else
      let a := a.group i y p bs
      if y.getLsbD 3 then
        let q := octet n bs &&& 0x0F
        atrGroups fuel (i + 1) (octet n bs >>> 4) q (check || q != 0) { a with one := a.one || q == 1 } (bs.drop (n + 1))
      else some (a, check, bs.drop n)

/-- What an ATR says (Table 13.1), none if it is not valid: TS, the interface octets, as many historical octets as T0 names, and
TCK, under which the octets from T0 on give 0 by exclusive or. -/
def atrOf (atr : Bytes) : Option Atr :=
  if octet 0 atr != 0x3B && octet 0 atr != 0x3F then none
  else
    let t0 := octet 1 atr
    match atrGroups 32 1 (t0 >>> 4) 0 false { one := false, classes := none, rate := none, ifsc := none, waits := none }
        (atr.drop 2) with
    | none => none
    | some (a, check, rest) =>
      let sum := (atr.drop 1).foldl (fun (x : Byte) b => x ^^^ b) 0
      if rest.length = (t0 &&& 0x0F).toNat + (if check then 1 else 0) ∧ (check = true → sum = 0) then some a else none

/-- Fi and Di that TA1 names, of those that Table 13.1 supports; PPS applies them. Any other pair leaves 372 and 1. PRESUMED:
the codes of ISO/IEC 7816-3 (assumption 50). -/
def rateOf (ta1 : Option Byte) : Nat × Nat :=
  match ta1 with
  | none => (372, 1)
  | some b =>
    let fi := match (b >>> 4).toNat with | 0 => 372 | 1 => 372 | 9 => 512 | _ => 0
    let di := match (b &&& 0x0F).toNat with | 1 => 1 | 2 => 2 | 3 => 4 | 4 => 8 | _ => 0
    if fi = 0 ∨ di = 0 then (372, 1) else (fi, di)

/-- What a station settles with a card that offers T=1 (Table 13.1): the rate by PPS, IFSD 254 by S(IFS). -/
def Atr.link (a : Atr) : CardLink :=
  { CardLink.default with
    fi := (rateOf a.rate).1, di := (rateOf a.rate).2, ifsd := 254
    ifsc := a.ifsc.getD CardLink.default.ifsc, waits := a.waits.getD CardLink.default.waits }

/-- The first attempt at class C fails: the card is held off and activated at class B; the second fails with NO_ATR. -/
def State.retryClassB (s : State) (n : Nat) : State :=
  let t := s.stn n
  if t.classB then s.cardFault n faultNoAtr else s.setStn n { t with classB := true }

/-- An ATR arrives (Table 13.1). -/
def State.atrArrives (s : State) (n : Nat) (atr : Bytes) : State :=
  let t := s.stn n
  if t.card != .activating then s
  else match atrOf atr with
    | none => s.retryClassB n
    | some a =>
      if a.classes == some 1 then s.cardFault n faultClassA
      else if !t.classB && a.classes == some 2 then s.retryClassB n
      else if !a.one then s.cardFault n faultAtr
      else (s.setStn n { t with card := .active, cause := 0, link := a.link }).dueStn n evActivated 0

/-! ### Exchanges (R364) -/

/-- Failed blocks after which the exchange still goes on: three R-blocks and one S(RESYNCH) (Table 13.1). -/
abbrev blockTries : Nat := 4

/-- A block of the exchange in progress has failed: an R-block asks for it again up to 3 times, then S(RESYNCH) goes out once; a
further failure is the card's. -/
def State.blockFails (s : State) (n : Nat) : State :=
  let t := s.stn n
  if t.link.failures < blockTries then s.setStn n { t with link := { t.link with failures := t.link.failures + 1 } }
  else s.cardFault n faultT1

/-- What a card exchange comes to (R364): the response, one that is too long, or a failed block. -/
def State.apduEnds (s : State) (n : Nat) (reply : CardReply) : State :=
  let t := s.stn n
  if !t.busy then s
  else
    let u := t.exchangeEnds
    match reply with
    | .failedBlock => s.blockFails n
    | .response bs =>
      let u := if 256 < bs.length then { u with err := true, overflow := true, rLen := 0 }
        else { u with done := true, rLen := BitVec.ofNat 9 bs.length, apduBuf := bs }
      ((s.setStn n u).raise intCus 2).dueStn n evApduDone 0

/-! ### Scanning (R362, R363, R367) -/

/-- Debounced presence after a sample: it changes when at least 8 of the last 10 samples show the other state. -/
def Station.presence (t : Station) (sample : Bool) : Station :=
  let l := (sample :: t.samples).take 10
  let other := (l.filter fun b => b != t.present).length
  { t with samples := l, present := if 8 ≤ other then !t.present else t.present }

/-- The key that a scan shows closed: none if several are. -/
def scanKey (sc : Scan) : Option (BitVec 4) :=
  match sc.keys with
  | [k] => some k
  | _ => none

/-- One scan of the keypad: its events, kind and code. -/
def Station.scanKeys (t : Station) (k : Option (BitVec 4)) : Station × List (BitVec 4 × BitVec 4) :=
  let held := t.pressed.isSome && k == t.pressed
  let open_ := if t.pressed.isNone || held then 0 else t.openScans + 1
  let count := match k with
    | none => 0
    | some c => match t.closing with
      | some (d, n) => if d = c then n + 1 else 1
      | none => 1
  let up : List (BitVec 4 × BitVec 4) := match t.pressed with
    | some c => if 3 ≤ open_ then [(evKeyUp, c)] else []
    | none => []
  let pressed := if up.isEmpty then t.pressed else none
  let down : List (BitVec 4 × BitVec 4) := match k with
    | some c => if 3 ≤ count && !held && pressed.isNone then [(evKeyDown, c)] else []
    | none => []
  ({ t with
      closing := k.map fun c => (c, min count 3), pressed := if down.isEmpty then pressed else k,
      openScans := if up.isEmpty then open_ else 0 }, down ++ up)

/-- One measurement of the touch electrode: its events. -/
def Station.scanTouch (t : Station) (v : Byte) : Station × List (BitVec 4 × BitVec 4) :=
  let toward := if t.touch then v.toNat < t.touchTh.toNat else t.touchTh.toNat < v.toNat
  let n := if toward then t.touchCount + 1 else 0
  if 4 ≤ n then
    ({ t with touchVal := v, touchCount := 0, touch := !t.touch }, [(if t.touch then evTouchOff else evTouchOn, 0)])
  else ({ t with touchVal := v, touchCount := n }, [])

/-- One scan of a station: presence, keypad, touch; a raw absent sample of an active card deactivates it (R363). The
events of the tick, those of its card included, enter in ascending KIND. -/
def State.scanStation (s : State) (n : Nat) (sc : Scan) : State :=
  let old := s.stn n
  if !old.enable then s
  else
    let drop := !sc.present && (old.card == .active || old.card == .activating)
    let s := if drop then s.deactivateCard n else s
    let t := (s.stn n).presence sc.present
    let wait := if t.present then (if drop then some 0 else t.dropout.map fun k => k + 1) else none
    let t := { t with dropout := wait }
    let cards : List (BitVec 4 × BitVec 4) :=
      if t.present == old.present then [] else [(if t.present then evCardIn else evCardOut, 0)]
    let k := t.scanKeys (scanKey sc)
    let h := k.1.scanTouch sc.touch
    let s := s.setStn n h.1
    let s := if cards.any fun e => e.1 == evCardOut then s.abortTurn n else s
    let s := if wait == some 10 then s.cardFault n faultDropout else s
    let s := if t.present && !old.present && t.auto then s.activateCard n else s
    let mine := (s.cus.due.filter fun e => e.1.toNat == n).map Prod.snd
    let all := cards ++ k.2 ++ h.2 ++ mine
    let sorted := (List.range 10).flatMap fun i => all.filter fun e => e.1.toNat == i
    let s := { s with cus := { s.cus with due := s.cus.due.filter fun e => e.1.toNat != n } }
    sorted.foldl (fun u e => u.pushStn {
      station := BitVec.ofNat 3 n, kind := e.1, key := e.2, tick := u.cus.tick, touch := h.1.touch }) s

/-- One scan tick (R362): the stations' events enter the FIFO in rotated station order. -/
def State.scanAll (s : State) (scans : List Scan) : State :=
  let s := { s with cus := { s.cus with tick := s.cus.tick + 1 } }
  let f := s.whisk.frame.toNat
  ((List.range 8).map fun i => (f + i) % 8).foldl
    (fun t n => t.scanStation n (scans.getD n { present := false, keys := [], touch := 0 })) s

/-! ### The meanings -/

/-- The 1 kHz scan tick. -/
def execScanTick (scans : List Scan) (s : State) : Out := s.whilePowered fun s => s.scanAll scans

/-- CUS_STN_CTL.ACTIVATE is written by S, or an automatic activation goes on (no accessor); the ATR, if it has come. -/
def execCardActivate (who : Option Accessor) (station : BitVec 3) (atr : Option Bytes) (s : State) : Out :=
  s.whilePowered fun s =>
    let n := station.toNat
    let go (s : State) : State := match atr with | some a => s.atrArrives n a | none => s
    match who with
    | none => go s
    | some w => s.writeBy w.isS w 0x100014 fun s => go (s.activateCard n)

/-- No valid ATR within 10 ms of RST (Table 13.1). -/
def execAtrTimeout (station : BitVec 3) (s : State) : Out :=
  s.whilePowered fun s => if (s.stn station.toNat).card == .activating then s.retryClassB station.toNat else s

/-- CUS_STN_CTL.DEACTIVATE is written by S. -/
def execCardDeactivate (who : Accessor) (station : BitVec 3) (s : State) : Out :=
  s.whilePowered fun s => s.writeBy who.isS who 0x100014 fun s => s.deactivateCard station.toNat

/-- CUS_APDU_CTL.SEND is written by S. -/
def execApduSend (who : Accessor) (station : BitVec 3) (s : State) : Out :=
  s.whilePowered fun s => s.writeBy who.isS who 0x10001C fun s => s.sendApdu station.toNat

/-- An APDU exchange ends. -/
def execApduDone (station : BitVec 3) (reply : CardReply) (s : State) : Out :=
  s.whilePowered fun s => s.apduEnds station.toNat reply

/-- Card VCC current above its limit for 1 ms (R486). -/
def execCardOvercurrent (station : BitVec 3) (s : State) : Out :=
  s.whilePowered fun s =>
    let c := (s.stn station.toNat).card
    if c == .active || c == .activating then s.cardFault station.toNat faultCurrent else s

/-- CUS_CTL.POP: the head event leaves the FIFO. -/
def State.popStn (s : State) : State := { s with cus := { s.cus with fifo := s.cus.fifo.drop 1 } }

/-- CUS_CTL is written by S with POP. -/
def execCusEvtPop (who : Accessor) (s : State) : Out :=
  s.whilePowered fun s => s.writeBy who.isS who 0x100008 State.popStn

/-- CUS_CTL is written by S with CLR_OVF. -/
def execCusClrOvf (who : Accessor) (s : State) : Out :=
  s.whilePowered fun s => s.writeBy who.isS who 0x100008 fun s => { s with cus := { s.cus with ovf := false } }

end Sys2Proof.Machine
end

