-- ==== Sys2Proof/Machine/Shares.lean ====
section
/-! DEFINITION. Threshold sharing over GF(2^8) and the values of an authority (R370 to R373). -/

namespace Sys2Proof.Machine

/-! ### The field of R372 -/

/-- The product over some low bits of the second factor, modulo x^8 + x^4 + x^3 + x + 1. -/
def gfMulBits : Nat → Byte → Byte → Byte
  | 0, _, _ => 0
  | n + 1, a, b => (if b.getLsbD 0 then a else 0) ^^^ gfMulBits n (xtime a) (b >>> 1)

/-- The product. -/
def gfMul (a b : Byte) : Byte := gfMulBits 8 a b

/-- The inverse: the 254th power. -/
def gfInv (a : Byte) : Byte := (List.range 253).foldl (fun p _ => gfMul p a) a

/-- The share at x: byte by byte, the polynomial whose coefficients are the secret's byte and the drawn bytes. -/
def shareAt (secret : Bytes) (coeffs : List Bytes) (x : Byte) : Bytes :=
  (secret :: coeffs).foldr (fun c acc => xorBytes c (acc.map (gfMul x))) (zeros 32)

/-- The weight of a point in the interpolation at 0. -/
def lagrange (xs : List Byte) (x : Byte) : Byte :=
  (xs.filter fun m => m != x).foldl (fun p m => gfMul p (gfMul m (gfInv (m ^^^ x)))) 1

/-- The interpolation of shares at 0. -/
def combineShares (pts : List (Byte × Bytes)) : Bytes :=
  pts.foldl (fun acc p => xorBytes acc (p.2.map (gfMul (lagrange (pts.map Prod.fst) p.1)))) (zeros 32)

/-! ### Authority values (Table 13.6) -/

/-- The first root of an owner (R370). -/
def State.firstRoot (s : State) (o : Nat) : Bytes := s.root ((s.owner o).roots.headD 0).toNat

/-- The authority secret A_o. -/
def State.authSecret (s : State) (o : Nat) (agen : Word) : Bytes :=
  kdf (s.firstRoot o) 0x4155544800000000 (kdfContext (BitVec.ofNat 8 o) 0x01 1 0x41 agen) 256

/-- The share wrapping key W_o. -/
def State.shareKey (s : State) (o : Nat) (agen : Word) : Bytes :=
  kdf (s.firstRoot o) 0x5348575200000000 (kdfContext (BitVec.ofNat 8 o) 0x12 1 0x53 agen) 256

/-- The card key K_card. -/
def State.cardKey (s : State) (o : Nat) (agen : Word) (serial : DWord) : Bytes :=
  kdf (s.firstRoot o) serial (kdfContext (BitVec.ofNat 8 o) 0x10 1 0x43 agen) 128

/-- The plaintext of a share blob (Table 13.7). -/
def blobPlain (o : Nat) (index m n : Byte) (agen : Word) (serial : DWord) (share : Bytes) : Bytes :=
  [BitVec.ofNat 8 o, index, m, n] ++ be 4 agen ++ be 8 serial ++ share

/-! ### Quorums -/

/-- M and N of a request, its defaults applied (R370, Table 13.10). -/
def CerRequest.quorum (r : CerRequest) : Nat × Nat :=
  let m := (octet 2 r.desc).toNat
  let n := (octet 3 r.desc).toNat
  let d : Nat × Nat := if r.subject = 0 then (3, 8) else (2, 5)
  (if m = 0 then d.1 else m, if n = 0 then d.2 else n)

/-- The authority of the running part, and its M, N and AGEN (R376, R382): the new ones for E and V. -/
def State.partQuorum (s : State) (c : Ceremony) : Nat × Nat × Nat × Word :=
  let new (o : Byte) : Nat × Nat × Nat × Word :=
    (o.toNat, c.request.quorum.1, c.request.quorum.2, (s.auth o.toNat).pendAgen)
  match c.parts with
  | .q o :: _ =>
    let a := s.auth o.toNat
    (o.toNat, a.m.toNat, a.n.toNat, a.agen)
  | .e o :: _ => new o
  | .v o :: _ => new o
  | .p2 :: _ => (0, 2, 2, 0)
  | _ => (0, 0, 0, 0)

/-- The 4 octets of a request's display code (R377). -/
def CerRequest.code (r : CerRequest) : Word := BitVec.ofNat 32 (ofBE ((sha256 r.desc).take 4))

/-- A word as 8 upper-case hexadecimal characters. -/
def hexText (w : Word) : String :=
  String.ofList ((List.range 8).map fun i =>
    let d := (w >>> (4 * (7 - i))).toNat % 16
    Char.ofNat (if d < 10 then 48 + d else 55 + d))

end Sys2Proof.Machine
end

