-- ==== Sys2Proof/Machine/Turns.lean ====
section
/-! DEFINITION. Custodian turns: the steps of Table 13.8, of enrolment and of P2, as the kernel takes them from the stations'
events (R365 to R367, R373 to R376, R382). -/

namespace Sys2Proof.Machine

/-! ### Parts -/

/-- What a station shows as a part begins (R374, R379). -/
def partText (c : Ceremony) : String × BitVec 3 :=
  match c.parts with
  | .c :: _ => (hexText c.request.code, 0)
  | .q _ :: _ => ("INSERT", 0)
  | .p2 :: _ => ("INSERT", 0)
  | .e _ :: _ => ("INSERT", 0)
  | .v _ :: _ => ("INSERT", 0)
  | _ => ("", 0)

/-- A station shows how its turn has ended, until the card is removed (Table 13.8). -/
def Station.showsEnd (t : Station) : Bool := t.present && t.lamp != 0

/-- Begin the first part of a ceremony: the combiner is empty, the stations without a turn show the part's text. -/
def State.beginPart (s : State) (c : Ceremony) : State :=
  let s := { s with cus := { s.cus with
    running := some c, combiner := [] } }
  (List.range 8).foldl (fun t n =>
    if (t.stn n).turn.isSome || (t.stn n).showsEnd then t else t.showAt n (partText c).1 (partText c).2) s

/-- The running part ends, and the next begins. -/
def State.nextPart (s : State) : State :=
  match s.cus.running with
  | none => s
  | some c => s.beginPart { c with parts := c.parts.drop 1 }

/-- The running ceremony is to end with an outcome. -/
def State.setEnding (s : State) (outcome : BitVec 3) : State :=
  match s.cus.running with
  | none => s
  | some c => { s with cus := { s.cus with combiner := [], running := some { c with ending := some outcome } } }

/-! ### Card commands (Table 13.2) -/

/-- The PIN block of R365. -/
def pinBlock (digits : List (BitVec 4)) : Bytes :=
  let nib (i : Nat) : Nat := (digits.map BitVec.toNat).getD i 15
  BitVec.ofNat 8 (0x20 + digits.length) :: (List.range 7).map fun i => BitVec.ofNat 8 (16 * nib (2 * i) + nib (2 * i + 1))

def apduSelect : Bytes := [0x00, 0xA4, 0x04, 0x0C, 0x05, 0xF0, 0x53, 0x48, 0x43, 0x44]
def apduIdentity : Bytes := [0x80, 0x10, 0x00, 0x00, 0x20]
def apduAuthenticate (challenge : Bytes) : Bytes := [0x80, 0x20, 0x00, 0x00, 0x10] ++ challenge ++ [0x10]
def apduVerifyPin (digits : List (BitVec 4)) : Bytes := [0x80, 0x22, 0x00, 0x00, 0x08] ++ pinBlock digits
def apduGetShare : Bytes := [0x80, 0x30, 0x00, 0x00, 0x38]

/-- PUT_SHARE as its buffer reads: K_card and the blob are secret and read zero (R382). -/
def apduPutShare (digits : List (BitVec 4)) : Bytes :=
  [0x80, 0x32, 0x01, 0x00, 0x50] ++ zeros 16 ++ pinBlock digits ++ zeros 56

/-- A turn goes on to a step that waits for keys. -/
def State.keyStep (s : State) (n : Nat) (u : Turn) (step : TurnStep) (text : String) (lamp : BitVec 3) : State :=
  (s.setStn n { s.stn n with turn := some { u with step := step } }).showAt n text lamp

/-! ### How a turn completes -/

/-- The text of step 8: DONE k/M with green lit. -/
def doneText (k m : Nat) : String := "DONE " ++ toString k ++ "/" ++ toString m

/-- The turn is complete: its text is shown, with green lit, and the station waits for removal (step 8). -/
def State.doneTurn (s : State) (n : Nat) (text : String) : State := (s.setTurn n none).showAt n text lampGreen

/-- What a ceremony's list holds for a part. -/
def ofPart {α : Type} (l : List (Nat × α)) (part : Nat) : List α := (l.filter fun e => e.1 == part).map Prod.snd

/-- A turn of P2 or an enrolment is complete: its SERIAL counts, and the part ends with the last (R379, R382). P2 takes two
distinct SERIALs. -/
def State.countTurn (s : State) (n : Nat) (u : Turn) : State :=
  match s.cus.running with
  | none => s
  | some c =>
    if u.kind = TurnKind.presence ∧ (ofPart c.seen u.part).contains u.serial then s.failTurn n u "DUP"
    else
      let s := s.logTurn n u "DONE"
      let k := (ofPart c.seen u.part).length + 1
      let s := (s.doneTurn n (doneText k u.n)).setCer { c with seen := c.seen ++ [(u.part, u.serial)] }
      let s := if u.kind = TurnKind.enrol then
          s.logEvent 3 16 6 sevAudit n (Config.turnArg "ENROL" u.index).toNat u.serial.toNat else s
      if c.parts.length = u.part ∧ u.n ≤ k then s.nextPart else s

/-- The session of a turn has ended (step 7): the card is deactivated. A turn that failed is over; one that fails here fails as
its step does (R366). An enrolment is complete; a share goes on to the combiner. -/
def State.closed (s : State) (n : Nat) (u : Turn) (ok : Bool) : State :=
  let s := s.deactivateCard n
  if !u.won then s.setTurn n none
  else if !ok then s.failTurn n u "CARD BAD"
  else if u.kind = TurnKind.enrol then s.countTurn n u
  else s.setTurn n (some { u with step := .filling })

/-! ### The combiner (R373, R376) -/

/-- The combiner holds M shares: it interpolates, compares with the comparator of R91, and its registers are zeroed. EQUAL ends
the part; NOT_EQUAL the ceremony, with QUORUM_FAIL. -/
def State.quorumHeld (s : State) (u : Turn) : State :=
  let eq := combineShares s.cus.combiner == s.authSecret u.owner.toNat u.agen
  let s := s.countCompare eq
  let s := { s with cus := { s.cus with combiner := [], shares := [] } }
  if eq then s.nextPart else s.setEnding 3

/-- A blob has been unwrapped for a turn whose share is next (R373, step 7): none where its integrity fails. A register takes the
share if its header is the identity's. -/
def State.shareArrives (s : State) (n : Nat) (u : Turn) (c : Ceremony) (plain? : Option Bytes) : State :=
  let plain := plain?.getD []
  let same := slice 0 1 plain == [u.owner] && octet 1 plain == u.index && slice 4 4 plain == be 4 u.agen &&
    slice 8 8 plain == be 8 u.serial
  if u.blob.length ≠ 56 || plain?.isNone || !same then s.failTurn n u "CARD BAD"
  else if (ofPart c.collected u.part).contains u.index then s.failTurn n u "DUP"
  else
    let held := s.cus.combiner ++ [(u.index, slice 16 32 plain)]
    let s := { s with cus := { s.cus with combiner := held } }
    let s := s.setCer { c with collected := c.collected ++ [(u.part, u.index)] }
    let s := (s.logTurn n u "DONE").doneTurn n (doneText held.length u.m)
    if u.m ≤ held.length then s.quorumHeld u else s

/-- A share that comes after the combiner held M is zeroed unread (R376). -/
def State.surplus (s : State) (n : Nat) (u : Turn) : State :=
  (s.logTurn n u "SURPLUS").doneTurn n (doneText u.m u.m)

/-- The device's cipher work on a blob (R373, R382): KWP under W_o, which is derived first, on the pool. DESIGN CHOICE: both are
device-class segments, and the calls of the derivation are those of one KDF block (assumption 105). -/
def State.shareWork (s : State) (n : Nat) (u : Turn) (op : Byte) (payload : Bytes) : State :=
  let id := s.eng.nextJob
  let block : Bytes := [op, 0x08] ++ zeros 14 ++ leNat 8 payload.length ++ zeros 24
  let key := s.shareKey u.owner.toNat u.agen
  let s := s.setTurn n (some { u with work := some id, result := none })
  s.submitDev { issuer := .s, charge := none, origin := .device, block := block, source := [], host := [] } fun j =>
    { j with dev := some (.share (BitVec.ofNat 3 n)), hashing := 0, deriveLeft := kdfCalls, key := key, payload := payload }

/-- A quorum turn that has reached step 7 and has neither filled a register nor failed. -/
def Turn.waitsFill (u : Turn) : Bool :=
  u.kind == .quorum && (u.step == .sharing || u.step == .filling || (u.step == .closing && u.won))

/-- No other turn of the part that reached step 7 earlier still waits (R376). -/
def State.fillsNext (s : State) (u : Turn) : Bool :=
  (List.range 8).all fun m => match (s.stn m).turn with
    | some v => !(v.waitsFill && v.part == u.part && decide (v.place < u.place))
    | none => true

/-- A turn that can go on without an event: its share is next at the combiner, or its blob is made. -/
def State.goesOn (s : State) (c : Ceremony) (u : Turn) : Bool :=
  if u.step == .filling then u.part != c.parts.length || (s.fillsNext u && u.work.isNone)
  else u.step == .wrapping && u.work.isNone

/-- The first station in rotated order whose turn can go on (R369). -/
def State.nextReady (s : State) (c : Ceremony) : Option (Nat × Turn) :=
  ((List.range 8).map fun i => (s.whisk.frame.toNat + i) % 8).findSome? fun n =>
    match (s.stn n).turn with
    | some u => if s.goesOn c u then some (n, u) else none
    | none => none

/-- A turn goes on: its blob is unwrapped, its share fills a register or is SURPLUS, or PUT_SHARE is sent with K_card and the
blob, which are secret (R382 step 5). -/
def State.takeOn (s : State) (c : Ceremony) (n : Nat) (u : Turn) : State :=
  if u.step = .wrapping then
    match u.result with
    | some (some blob) =>
      let s := s.setStn n { s.stn n with
        secret := s.cardKey u.owner.toNat u.agen u.serial ++ blob, turn := some { u with step := .putting, result := none } }
      s.sendApdu n
    | _ => s.failTurn n u "CARD ERR"
  else if u.part ≠ c.parts.length then s.surplus n u
  else match u.result with
    | some r => s.shareArrives n u c r
    | none => s.shareWork n u 0x55 u.blob

/-! ### Identity (steps 1 to 4) -/

/-- The turn with the identity that its card gave (Table 13.3). -/
def Turn.named (u : Turn) (id : Bytes) : Turn :=
  { u with
    serial := fieldBE 64 0 8 id, enrolled := octet 9 id == 1
    index := if u.kind = TurnKind.enrol then u.index else octet 11 id }

/-- What refuses a card's identity (steps 2 and 3 of Table 13.8, R379, R382): the text to show. -/
def identityRefusal (c : Ceremony) (u : Turn) (id : Bytes) : Option String :=
  let seen := (ofPart c.seen u.part).contains (fieldBE 64 0 8 id)
  match u.kind with
  | .quorum =>
    if octet 9 id != 1 || octet 10 id != u.owner || slice 16 8 id != be 8 Config.deviceSerial then some "WRONG CARD"
    else if slice 12 4 id != be 4 u.agen then some "OLD CARD"
    else if (ofPart c.collected u.part).contains (octet 11 id) then some "DUP"
    else none
  | .presence => if octet 9 id != 1 then some "WRONG CARD" else if seen then some "DUP" else none
  | .enrol => if seen then some "DUP" else none

/-- The answer to GET_IDENTITY. A quorum turn sends a challenge from NONCE: it waits while NONCE has no octets to give. -/
def State.identified (s : State) (n : Nat) (u : Turn) (c : Ceremony) (id : Bytes) : Except State State :=
  let v := u.named id
  match identityRefusal c u id with
  | some text => .ok (s.failTurn n v text)
  | none =>
    match u.kind with
    | .quorum =>
      let d := s.deviceDraw (.challenge n) .nonce 16
      match d.1 with
      | some ch => .ok (d.2.command n { v with challenge := ch } .authenticating (apduAuthenticate ch) [])
      | none => .error d.2
    | .presence => .ok (s.keyStep n v .pin "PIN" 0)
    | .enrol => .ok (if v.enrolled then s.keyStep n v .pin "PIN" 0 else s.keyStep n v .newPin "NEW PIN" 0)

/-! ### Enrolment (R382) -/

/-- The lowest INDEX that no enrolment of a turn's part has taken. -/
def freeShare (c : Ceremony) (u : Turn) : Option Byte :=
  ((List.range u.n).map fun i => BitVec.ofNat 8 (i + 1)).find? fun i => !(ofPart c.assigned u.part).contains i

/-- PUT_SHARE takes the next INDEX: its header and the new PIN block go into the buffer, and a cipher engine makes the blob from
the combiner's share. While every INDEX is taken, the turn waits. -/
def State.putShare (s : State) (n : Nat) (u : Turn) (c : Ceremony) : State :=
  match freeShare c u with
  | none => s
  | some i =>
    let share := ((s.cus.shares.find? fun e => e.1 == i).map Prod.snd).getD (zeros 32)
    let plain := blobPlain u.owner.toNat i (BitVec.ofNat 8 u.m) (BitVec.ofNat 8 u.n) u.agen u.serial share
    let s := s.setCer { c with assigned := c.assigned ++ [(u.part, i)] }
    let cmd := apduPutShare u.newPin
    let s := s.setStn n { s.stn n with apduBuf := cmd, apduLen := BitVec.ofNat 9 cmd.length }
    s.shareWork n { u with index := i, step := .wrapping } 0x54 plain

/-- The identity after PUT_SHARE shows the new OWNER, INDEX and PEND_AGEN. -/
def Turn.enrolledAs (u : Turn) (id : Bytes) : Bool :=
  octet 10 id == u.owner && octet 11 id == u.index && slice 12 4 id == be 4 u.agen

/-! ### Answers of the card -/

/-- The display code, amber lit (step 6). -/
def State.askApproval (s : State) (n : Nat) (u : Turn) (c : Ceremony) : State :=
  s.keyStep n u .approving (hexText c.request.code) lampAmber

/-- The answer to VERIFY_PIN (R366, step 5). -/
def State.pinAnswered (s : State) (n : Nat) (u : Turn) (c : Ceremony) (sw : Nat) : State :=
  if sw = 0x9000 then
    if u.kind = TurnKind.enrol then s.keyStep n { u with pin := [] } .newPin "NEW PIN" 0
    else s.askApproval n { u with pin := [] } c
  else if sw / 16 = 0x63C then
    let text := "PIN " ++ toString (sw % 16)
    (s.logTurn n u text).keyStep n { u with pin := [] } .pin text 0
  else if sw = 0x6983 then s.failTurn n u "BLOCKED"
  else s.failTurn n u "CARD ERR"

/-- An APDU exchange of a turn's card has ended (R365, R366). It waits for NONCE, and for the key-path gate where K_card is
compared (R395). A wrong status word shows the text of its step: of steps 1 and 5 CARD ERR, of the others CARD BAD (Table
13.8). -/
def State.answered (s : State) (n : Nat) (u : Turn) (c : Ceremony) : Except State State :=
  let t := s.stn n
  let r := t.apduBuf.take t.rLen.toNat
  let data := r.take (r.length - 2)
  let sw := ofBE (r.drop (r.length - 2))
  let read := t.done && decide (2 ≤ r.length)
  let ok := read && sw == 0x9000
  let bad (text : String) : Except State State := .ok (s.failTurn n u text)
  match u.step with
  | .selecting => if ok then .ok (s.command n u .identifying apduIdentity []) else bad "CARD ERR"
  | .identifying => if ok && data.length == 32 then s.identified n u c data else bad "CARD ERR"
  | .authenticating =>
    if s.tamper.gateClosed then .error s
    else
      let want := cmac (s.cardKey u.owner.toNat u.agen u.serial) (u.challenge ++ be 8 u.serial)
      if ok && data == want then .ok (s.keyStep n u .pin "PIN" 0) else bad "CARD BAD"
  | .verifying => if read then .ok (s.pinAnswered n u c sw) else bad "CARD ERR"
  | .sharing =>
    if ok then .ok (s.command n { u with won := true, blob := data } .closing apduEndSession []) else bad "CARD BAD"
  | .putting => if ok then .ok (s.command n u .rechecking apduIdentity []) else bad "CARD BAD"
  | .rechecking =>
    if ok && data.length == 32 && u.enrolledAs data then
      .ok (s.command n { u with won := true } .closing apduEndSession [])
    else bad "CARD BAD"
  | .closing => .ok (s.closed n u ok)
  | .ending => .ok (s.command n u .closing apduEndSession [])
  | _ => .ok s

/-! ### Keys (R367) -/

/-- The digit of a keypad code (Table 13.4). -/
def keyDigit (k : BitVec 4) : Option (BitVec 4) :=
  ([(0x0#4, 1#4), (0x1, 2), (0x2, 3), (0x4, 4), (0x5, 5), (0x6, 6), (0x8, 7), (0x9, 8), (0xA, 9), (0xD, 0)].find?
    fun e => e.1 == k).map Prod.snd

/-- Digits are shown as *. -/
def stars (n : Nat) : String := String.ofList (List.replicate n '*')

/-- A key in a step that enters digits: `done` takes the entry of 4 to 12 digits that ENTER without touch ends. -/
def State.pinKey (s : State) (n : Nat) (u : Turn) (e : StnEvent) (done : Turn → State) : State :=
  let entry (l : List (BitVec 4)) : State := s.keyStep n { u with pin := l } u.step (stars l.length) 0
  match keyDigit e.key with
  | some d => if u.pin.length < 12 then entry (u.pin ++ [d]) else s
  | none =>
    if e.key = 0xB then entry u.pin.dropLast
    else if e.key = 0xE && !e.touch && decide (4 ≤ u.pin.length) then done u
    else s

/-- An approval: ENTER with touch. What a turn does once its custodian has approved. A quorum turn reaches step 7 and takes its
place there (R376). -/
def State.approved (s : State) (n : Nat) (u : Turn) (c : Ceremony) : State :=
  match u.kind with
  | .quorum =>
    (s.setCer { c with places := c.places + 1 }).command n { u with place := c.places } .sharing apduGetShare []
  | .presence => s.countTurn n u
  | .enrol => s.putShare n u c

/-- A key goes down at a station with a turn. -/
def State.turnKey (s : State) (n : Nat) (u : Turn) (c : Ceremony) (e : StnEvent) : State :=
  match u.step with
  | .pin => s.pinKey n u e fun v => s.command n v .verifying (apduVerifyPin v.pin) []
  | .newPin => s.pinKey n u e fun v => s.keyStep n { v with newPin := v.pin, pin := [] } .again "AGAIN" 0
  | .again => s.pinKey n u e fun v =>
      if v.pin = v.newPin then s.askApproval n { v with pin := [] } c
      else s.keyStep n { v with newPin := [], pin := [] } .newPin "NEW PIN" 0
  | .approving =>
    if e.key = 0xE then (if e.touch then s.approved n u c else s.showAt n "TOUCH" lampAmber)
    else if e.key = 0xC then s.failTurn n u "DECLINED"
    else s
  | _ => s

/-! ### The kernel's handling of an event -/

/-- The kind of turn that a part is made of. -/
def Ceremony.turnKind (c : Ceremony) : Option TurnKind :=
  match c.parts with
  | .q _ :: _ => some .quorum
  | .v _ :: _ => some .quorum
  | .p2 :: _ => some .presence
  | .e _ :: _ => some .enrol
  | _ => none

/-- A card inserted at an idle station starts a turn (R374), which keeps the authority of its part. -/
def State.beginTurn (s : State) (n : Nat) (c : Ceremony) : State :=
  match c.turnKind with
  | none => s
  | some k =>
    let q := s.partQuorum c
    let u : Turn := {
      kind := k, step := .activating, part := c.parts.length, owner := BitVec.ofNat 8 q.1, m := q.2.1, n := q.2.2.1
      agen := q.2.2.2, serial := 0, index := 0, enrolled := false, pin := [], newPin := [], challenge := [], place := 0
      blob := [], work := none, result := none, won := false }
    if (s.stn n).card == .active then s.command n u .selecting apduSelect []
    else (s.activateCard n).setTurn n (some u)

/-- The kernel handles an event of a station while a ceremony runs. An error: the event stays at the head. -/
def State.stationEvent (s : State) (c : Ceremony) (e : StnEvent) : Except State State :=
  let n := e.station.toNat
  match (s.stn n).turn with
  | none =>
    .ok (if e.kind = evCardIn then s.beginTurn n c
      else if e.kind = evCardOut then s.showAt n (partText c).1 (partText c).2
      else s)
  | some u =>
    if e.kind = evCardOut then .ok (s.abortTurn n)
    else if e.kind = evActivated then
      .ok (if u.step = .activating then s.command n u .selecting apduSelect [] else s)
    else if e.kind = evApduDone then s.answered n u c
    else if e.kind = evKeyDown then .ok (s.turnKey n u c e)
    else .ok s

/-- An event of a station while no ceremony runs, or the running one is to end: it can only end the session of a turn that is
over (R374). -/
def State.lateEvent (s : State) (e : StnEvent) : State :=
  let n := e.station.toNat
  match (s.stn n).turn with
  | none => s
  | some u =>
    if e.kind = evCardOut then s.abortTurn n
    else if e.kind = evApduDone then
      if u.step = .closing && !u.won then s.closed n u true
      else if u.step = .ending then s.command n u .closing apduEndSession []
      else s
    else s

/-- A turn that needs no event goes on, unless the key-path gate is CLOSED (R395). -/
def State.readyTurn (s : State) : Option State :=
  match s.cus.running with
  | none => none
  | some c =>
    if c.ending.isSome || s.tamper.gateClosed then none
    else match s.nextReady c with
      | some x => some (s.takeOn c x.1 x.2)
      | none => none

/-- The kernel takes a turn on: one whose share or blob is ready, else by the head event of the FIFO (R369, R374). -/
def State.turnStep (s : State) : State :=
  match s.readyTurn with
  | some t => t
  | none =>
    match s.cus.fifo with
    | [] => s
    | e :: _ =>
      match s.cus.running with
      | none => (s.lateEvent e).popStn
      | some c =>
        if c.ending.isSome then (s.lateEvent e).popStn
        else match s.stationEvent c e with
          | .ok t => t.popStn
          | .error t => t

end Sys2Proof.Machine
end

