-- ==== Sys2Proof/Machine/Ceremonies.lean ====
section
/-! DEFINITION. Ceremony requests, their checks, parts and effects (R48, R370, R377 to R386). -/

namespace Sys2Proof.Machine

/-! ### Checks -/

/-- A ceremony is listed for the current mode (Table 13.11). -/
def State.cerMode (s : State) (cer : Byte) : Bool :=
  match s.modes.mode with
  | .commissioning => cer == 0x01 || cer == 0x02 || cer == 0x03 || cer == 0x04 || cer == 0x05 || cer == 0x06 ||
      cer == 0x07 || cer == 0x08
  | .erased => cer == 0x07
  | .recovery => cer == 0x09
  | .service => cer == 0x10 || cer == 0x11 || cer == 0x12 || cer == 0x13
  | _ => false

/-- ARG of a descriptor (Table 13.10). -/
def CerRequest.arg (r : CerRequest) : Word := fieldLE 32 8 4 r.desc

/-- A field of a descriptor that breaks Table 13.10 or 13.12, or a tamper source that R407 names. -/
def State.descBad (s : State) (r : CerRequest) : Bool :=
  let d := r.desc
  let o (i : Nat) : Nat := (octet i d).toNat
  if r.window then
    decide (4 ≤ o 1) || decide (8 ≤ o 2) || o 3 != 0 || !zeroRange 0x18 0x1C d ||
    fieldLE 32 0x14 4 d == 0 || decide (3600 < ofLE (slice 0x14 4 d))
  else
    let cer := r.cer
    let known := decide (1 ≤ cer.toNat && cer.toNat ≤ 9) || cer == 0x11 || cer == 0x12 || cer == 0x13
    let quorum (v : Nat) : Bool := v == 0 || (decide (2 ≤ v) && decide (v ≤ 15))
    let digest := cer == 0x03 || (cer == 0x09 && r.arg.getLsbD 1)
    let src := r.arg.toNat
    !known || !quorum (o 2) || !quorum (o 3) || decide (r.quorum.2 < r.quorum.1) || decide (8 < o 4) ||
    (cer == 0x05 && o 4 == 0) || (o 5 != 0 && (decide (o 5 < 16) || decide (32 < o 5))) ||
    (!digest && !zeroRange 16 64 d) || (cer == 0x09 && decide (7 < src)) ||
    (cer == 0x04 && (decide (63 < src) || (decide (10 ≤ src) && decide (src ≤ 15)) || s.fuses.profile == .sa))

/-- Roots that belong to no owner, lowest first (R44). -/
def State.freeRoots (s : State) : List (BitVec 10) :=
  ((List.range 1008).map fun i => BitVec.ofNat 10 (16 + i)).filter fun r =>
    !(s.trivet.owners.any fun e => e.2.state != .absent && e.2.roots.contains r)

/-- A region is at least a unit, lies in the table, and meets no other owner's (R47). -/
def State.regionFree (s : State) (o base units : Nat) : Bool :=
  decide (1 ≤ units) && decide (base + units ≤ 256) &&
  !(s.trivet.owners.any fun e => e.1 != o && e.2.state != .absent &&
    overlaps base units e.2.regionBase.toNat e.2.regionUnits.toNat)

/-- Every Evidence record is exported and acknowledged (Table 13.11). -/
def State.evidenceRead (s : State) : Bool :=
  let open_ (e : LogEntry) : Bool := e.record.severity == sevEvidence && !s.stk.acked e.seq
  !(s.stk.stored.any open_) && !(s.stk.side.any open_) &&
  !(s.stk.ports.toList.any fun l => l.any fun r => r.severity == sevEvidence) &&
  !(s.waitingLog.any fun w => w.2.severity == sevEvidence)

/-- Details of Table 13.15. -/
abbrev vCerBusy : Verdict := verdict St.attrDenied 0xB0
abbrev vCerMode : Verdict := verdict St.attrDenied 0xB1
abbrev vSlotsFull : Verdict := verdict St.attrDenied 0xB2
abbrev vFuseMandatory : Verdict := verdict St.attrDenied 0xB3
abbrev vOwnerState : Verdict := verdict St.attrDenied 0xB4
abbrev vWinFull : Verdict := verdict St.attrDenied 0xB5
abbrev vEvidenceUnread : Verdict := verdict St.attrDenied 0xB6
abbrev vAgenExhausted : Verdict := verdict St.attrDenied 0xB7

/-- ARG of ADMIT_KEY names a LIVE VERIFY handle of the owner, or 0. -/
def State.admitKeyOk (s : State) (r : CerRequest) : Bool :=
  r.arg == 0 || (match s.lookup r.arg with
    | some e => e.live && e.owner == r.owner && e.ops.getLsbD opVerify
    | none => false)

/-- The needs of one ceremony (Table 13.11). -/
def State.needsOf (s : State) (cer : Byte) (r : CerRequest) : Option Verdict :=
  let o := r.owner.toNat
  let live (x : Nat) : Bool := (s.owner x).state == .live
  let region := s.regionFree r.subject (octet 6 r.desc).toNat (octet 7 r.desc).toNat
  if cer = 0x01 then
    if (s.owner 0).state != .absent || !region then some vOwnerState
    else if s.trivet.flags != 0 then some vCerMode else none
  else if cer = 0x02 ∨ cer = 0x11 then
    let x := if cer = 0x02 then 0 else o
    if !live x then some vOwnerState
    else if (s.auth x).agen == BitVec.allOnes 32 then some vAgenExhausted else none
  else if cer = 0x03 then if 8 ≤ s.fuses.kernel.length then some vSlotsFull else none
  else if cer = 0x04 then if r.arg.toNat < 7 then some vFuseMandatory else none
  else if cer = 0x05 then
    if o = 0 ∨ (s.owner o).state ≠ .absent ∨ s.freeRoots.length < (octet 4 r.desc).toNat ∨ !region then some vOwnerState
    else none
  else if cer = 0x06 then if o = 0 ∨ !live o then some vOwnerState else none
  else if cer = 0x07 then if s.evidenceRead then none else some vEvidenceUnread
  else if cer = 0x08 then
    if !live 0 then some vOwnerState
    else if s.trivet.flags != 0 || s.fuses.kernel.isEmpty then some vCerMode else none
  else if cer = 0x10 then
    if !live o then some vOwnerState
    else if 16 ≤ s.cus.windows.length then some vWinFull
    else if s.timeUntrusted then some (verdict St.timeUntrusted 0) else none
  else if cer = 0x12 then if !live o || !s.admitKeyOk r then some vOwnerState else none
  else if cer = 0x13 then if o ≠ 0 ∨ !live 0 then some vOwnerState else none
  else none

/-- The needs of a request: those of its own row, and of each option that it selects. -/
def State.needs (s : State) (r : CerRequest) : Option Verdict :=
  if r.cer = 0x09 then
    let opt (b : Nat) (cer : Byte) : Option Verdict := if r.arg.getLsbD b then s.needsOf cer r else none
    orElse? (opt 0 0x02) (orElse? (opt 1 0x03) (opt 2 0x07))
  else s.needsOf r.cer r

/-! ### Requests (R377, R378, R380) -/

/-- Who calls a service (R377). -/
def Context.requester (c : Context) : Requester :=
  match c.startLevel with | .n => .n c.slice | .h => .h | .s => .s

/-- Octets that a caller holds at a virtual address, under the map of its call (R293, R377). -/
def State.callerRead (s : State) (c : Context) (va n : Nat) : Option Bytes :=
  let m := match c.gate with | some f => f.map | none => c.map
  let ps := (List.range n).map fun i => s.translate c.startLevel c.slice m permR (va + i)
  if ps.all Option.isSome then some (ps.map fun p => s.ctxByte c (p.getD 0)) else none

/-- What refuses a request. -/
def State.requestRefusal (s : State) (r : CerRequest) : Option Verdict :=
  if s.worlds.restarting then some (verdict St.svcUnavailable 0)
  else if s.descBad r then some vBadParam
  else if !s.cerMode r.cer then some vCerMode
  else match s.needs r with
    | some v => some v
    | none =>
      if 9 ≤ s.cus.requests.length + (if s.cus.running.isSome then 1 else 0) then some vCerBusy else none

/-- A request is refused: recorded at Audit; one that its mode does not list is also shown (R380). -/
def State.refuseRequest (s : State) (r : CerRequest) (v : Verdict) : State :=
  let s := s.logEvent 3 16 2 sevAudit r.cer.toNat v.arg 0
  if v = vCerMode && !s.cerMode r.cer then s.notice "REFUSED" else s

/-- A request by a level that may not make it is refused, and recorded (Table 13.9, R387). -/
def State.requestDenied (s : State) (n : Nat) : State :=
  (s.logEvent 3 16 2 sevAudit 0 vLevel.arg 0).answerService n vLevel 0

/-- A service that requests a ceremony or a window: its descriptor is read, checked and queued. -/
def State.requestBy (s : State) (n : Nat) (c : Context) (window : Bool) : State :=
  match s.callerRead c (c.greg 2).toNat (if window then 32 else 64) with
  | none => (s.logEvent 3 16 2 sevAudit 0 vBadParam.arg 0).answerService n vBadParam 0
  | some d =>
    let r : CerRequest := { id := s.cus.nextId, who := c.requester, desc := d, window := window }
    match s.requestRefusal r with
    | some v => (s.refuseRequest r v).answerService n v 0
    | none =>
      let s := { s with cus := { s.cus with requests := s.cus.requests ++ [r], nextId := s.cus.nextId + 1 } }
      let s := s.logEvent 3 16 1 sevAudit r.id.toNat 0 r.code.toNat
      (s.answerService n Verdict.ok (r.id.setWidth 64)).putG n 3 (r.code.setWidth 64)

/-- The parts of a ceremony (Table 13.11). -/
def State.partsOf (s : State) (r : CerRequest) : List Part :=
  let o := r.owner
  let cer := r.cer
  let renew (x : Byte) : List Part := [.g, .e x, .v x]
  if cer = 0x01 then .c :: renew 0 ++ [.x]
  else if cer = 0x02 then .q 0 :: renew 0 ++ [.x]
  else if cer = 0x05 then .q 0 :: renew o ++ [.x]
  else if cer = 0x07 ∧ s.modes.mode = Mode.erased then [.p2, .x]
  else if cer = 0x09 then .q 0 :: (if r.arg.getLsbD 0 then renew 0 else []) ++ [.x]
  else if cer = 0x10 ∨ cer = 0x12 then [.q o, .x]
  else if cer = 0x11 then .q o :: renew o ++ [.x]
  else [.q 0, .x]

/-- The next queued ceremony starts when none runs (R378). -/
def State.startCeremony (s : State) : State :=
  match s.cus.running, s.cus.requests with
  | none, r :: rs =>
    let c : Ceremony := {
      request := r, parts := s.partsOf r, drawn := [], generated := false, ending := none, seen := [], assigned := []
      collected := [], places := 0 }
    let s := { s with cus := { s.cus with requests := rs } }
    (s.logEvent 3 16 3 sevAudit r.id.toNat 0 r.cer.toNat).beginPart c
  | _, _ => s

/-- CER_CANCEL (R378): the running ceremony ends with ABORTED, a queued request is dropped with that outcome. -/
def State.cancelRequest (s : State) (id : Word) : Option State :=
  match s.cus.running with
  | some c =>
    if c.request.id = id then some (s.endCeremony 1) else cancelQueued
  | none => cancelQueued
where
  cancelQueued : Option State :=
    match s.cus.requests.find? fun r => r.id == id with
    | none => none
    | some r =>
      let s := { s with cus := { s.cus with requests := s.cus.requests.filter fun q => q.id != id } }
      some ((s.postEvent r.who.queueKey { kind := 0x81, arg := id, tag := 1, index := 0 }).logEvent
        3 16 4 sevAudit id.toNat 0 1)

/-! ### Generation (R381) -/

/-- The roots that G draws: 0 to 15 for owner 0, the lowest free ones for another new owner (R44, Table 13.11). -/
def State.newRoots (s : State) (r : CerRequest) : List (BitVec 10) :=
  if r.cer = 0x01 then (List.range 16).map (BitVec.ofNat 10)
  else if r.cer = 0x05 then s.freeRoots.take (octet 4 r.desc).toNat
  else []

/-- G runs: roots and record of a new owner, PEND_AGEN, coefficients and shares. It waits while KEY has no octets to give.
New roots of owner 0 release an erase sequencer that holds the array (R399). -/
def State.generateShares (s : State) (c : Ceremony) : State :=
  let r := c.request
  let o := r.subject
  let roots := s.newRoots r
  let q := r.quorum
  let d := s.deviceDraw .generation .key (32 * roots.length + 32 * (q.1 - 1))
  let t := d.2
  match d.1 with
  | none => t
  | some bs =>
    let put := (roots.zip (pieces roots.length 32 bs)).foldl
      (fun m e => sparseSet (zeros 32) m e.1.toNat e.2) t.trivet.roots
    let eraser := if r.cer = 0x01 ∧ t.trivet.eraser = .held then .idle else t.trivet.eraser
    let t := { t with trivet := { t.trivet with roots := put, eraser := eraser } }
    let t :=
      if roots = [] then t
      else
        let res := octet 5 r.desc
        let rec_ : Owner := { Owner.absent with
          roots := roots, regionBase := octet 6 r.desc, regionUnits := octet 7 r.desc
          resLog2 := if res = 0 then 24 else res.setWidth 6, birth := 1 }
        t.setOwner o rec_
    let a := t.auth o
    let pend : Word := a.agen + 1
    let t := t.setAuth o { a with pendAgen := pend }
    let coeffs := pieces (q.1 - 1) 32 (bs.drop (32 * roots.length))
    let secret := t.authSecret o pend
    let shares := (List.range q.2).map fun i =>
      (BitVec.ofNat 8 (i + 1), shareAt secret coeffs (BitVec.ofNat 8 (i + 1)))
    let t := { t with cus := { t.cus with shares := shares } }
    (t.setCer { c with drawn := roots, generated := true }).nextPart

/-! ### Effects at X (Table 13.11) -/

/-- The pending generation of an authority takes effect: AGEN ← PEND_AGEN, M and N stored; the owner's windows close. -/
def State.commitShares (s : State) (o : Nat) (r : CerRequest) : State :=
  let a := s.auth o
  let s := s.setAuth o { a with
    agen := a.pendAgen, pendAgen := 0, m := BitVec.ofNat 4 r.quorum.1, n := BitVec.ofNat 4 r.quorum.2 }
  s.closeWindows (fun w => w.owner.toNat == o) 4

/-- A new owner becomes LIVE (R44). -/
def State.ownerLive (s : State) (r : CerRequest) : State :=
  let o := r.subject
  let s := s.setOwner o { s.owner o with state := .live }
  (s.commitShares o r).logKey 14 sevAudit (BitVec.ofNat 32 o) 0 0

/-- A kernel digest is burned into the lowest free slot (R301). -/
def State.burnKernel (s : State) (r : CerRequest) : State :=
  { s with fuses := { s.fuses with kernel := s.fuses.kernel ++ [slice 16 48 r.desc] } }

/-- A source is disabled for ever, and a count in progress discarded (R407). -/
def State.burnSource (s : State) (n : Nat) : State :=
  let s := { s with fuses := { s.fuses with sources := s.fuses.sources ||| (1#64 <<< n) } }
  let x := sparseGet Source.reset s.tamper.sources n
  { s with tamper := { s.tamper with sources := sparseSet Source.reset s.tamper.sources n { x with window := [] } } }

/-- An owner is deleted in the order of R48, its sweep, which ends a DESTROY sweep of the region too, reported (R77); its
authority record is zeroed, its windows close. -/
def State.deleteOwner (s : State) (o : Nat) : State :=
  let r := s.owner o
  let s := s.setOwner o { r with state := .deleting }
  let s := (s.zeroRoots r.roots).clearOwnerCache o
  let s := s.closeWindows (fun w => w.owner.toNat == o) 4
  let s := s.mapEntries fun i e => if decide (r.first ≤ i) && decide (i < r.first + r.size) then e.freed else e
  let s := { s with keys := { s.keys with sweeps := s.keys.sweeps.filter fun w => w.owner.toNat != o } }.raise intKt 3
  (((s.setOwner o Owner.absent).setAuth o Authority.none).logKey 15 sevAudit (BitVec.ofNat 32 o) 0 0).noteKeys

/-- The sticky flags, the evidence store and the acknowledged Evidence records are cleared (R406, R416). -/
def State.clearEvidence (s : State) : State :=
  { s with
    trivet := { s.trivet with flags := 0, evidence := [], evCnt := 0, evNext := 0, erased := none }
    stk := { s.stk with evidence := s.stk.evidence.filter fun p => !s.stk.acked p.entry.seq } }

/-- A window is installed in the lowest free place (R383). -/
def State.installWindow (s : State) (r : CerRequest) : State :=
  let d := r.desc
  match (List.range 16).find? fun i => !(s.cus.windows.any fun e => e.1 == i) with
  | none => s
  | some i =>
    let budget := fieldLE 32 0x10 4 d
    let w : QWindow := {
      owner := octet 0 d, admits := (octet 1 d).setWidth 2, levels := (octet 2 d).setWidth 3, handle := fieldLE 32 4 4 d
      sliceMask := fieldLE 64 8 8 d, unlimited := budget == 0, budget := budget
      end_ := s.tl.ns + BitVec.ofNat 64 (ofLE (slice 0x14 4 d) * 1000000000), tag := fieldLE 32 0x1C 4 d, who := r.who }
    let ws := (s.cus.windows.filter fun e => e.1 < i) ++ (i, w) :: s.cus.windows.filter fun e => i < e.1
    ({ s with cus := { s.cus with windows := ws } }).logEvent 3 16 7 sevAudit i 0 w.end_.toNat

/-- An admission-key slot of an owner is set. -/
def State.setAdmitKey (s : State) (r : CerRequest) : State :=
  let o := r.owner.toNat
  let a := s.auth o
  s.setAuth o { a with admitKeys := a.admitKeys.set ((octet 12 r.desc).toNat % 4) r.arg (Nat.mod_lt _ (by decide)) }

/-- RESUME is written by a ceremony, unless it holds a value that only other happenings change (R441), and a device reset
follows; the outcome is posted first. -/
def State.resetTo (s : State) (resume : Byte) (kept : Byte → Bool) (test : SelfTest) : State :=
  let s := (s.setEnding 0).endCeremony 0
  let s := if kept s.trivet.resume then s else { s with trivet := { s.trivet with resume := resume } }
  s.enterStartup .device 0 test

/-- The X of a ceremony (R378, R379, R386): it waits out a log hold, it is refused where a check fails now, else it has its
effect. -/
def State.runX (s : State) (cer : Byte) (f : CerRequest → State → State) : State :=
  match s.cus.running with
  | none => s
  | some c =>
    let r := c.request
    if r.cer != cer || c.parts.head? != some Part.x || c.ending.isSome then s
    else if cer = 0x13 ∧ (s.stk.hold ∨ 0 < s.slotsHeld) then s.setEnding 4
    else if s.stk.hold then s.showAll "LOG HOLD" 0
    else if !s.cerMode cer || (s.needs r).isSome then s.setEnding 4
    else (f r s).setEnding 0

end Sys2Proof.Machine
end

