-- ==== Sys2Proof/Machine/CeremonyCommands.lean ====
section
/-! DEFINITION. The meanings of ceremony requests, turns, generation, the ceremonies' effects and quorum windows
(R374 to R386). -/

namespace Sys2Proof.Machine

/-! ### Gateway services (Table 13.9) -/

/-- CEREMONY, called by H. -/
def execCeremonyRequest (ctx : BitVec 7) (s : State) : Out :=
  s.whilePowered fun s => s.service ctx.toNat (fun _ => true) fun c =>
    if c.startLevel = .h then s.requestBy ctx.toNat c false else s.requestDenied ctx.toNat

/-- WINDOW, called by N and H. -/
def execWindowRequest (ctx : BitVec 7) (s : State) : Out :=
  s.whilePowered fun s => s.service ctx.toNat (fun _ => true) fun c =>
    if c.startLevel = .s then s.requestDenied ctx.toNat else s.requestBy ctx.toNat c true

/-- WINDOW_CLOSE, called by N and H: an N caller closes only the windows that it requested. -/
def execWindowClose (ctx : BitVec 7) (s : State) : Out :=
  s.whilePowered fun s => s.service ctx.toNat (fun _ => true) fun c =>
    let n := ctx.toNat
    let w := (c.greg 2).toNat
    if c.startLevel = .s then s.answerService n vLevel 0
    else if 16 ≤ w then s.answerService n vBadParam 0
    else match s.cus.windows.find? fun e => e.1 == w with
      | none => s.answerService n Verdict.ok (c.greg 2)
      | some e =>
        if c.startLevel = .n ∧ e.2.who ≠ c.requester then s.answerService n vLevel 0
        else (s.closeWindow w 2).answerService n Verdict.ok (c.greg 2)

/-- CER_CANCEL, called by H. -/
def execCerCancel (ctx : BitVec 7) (s : State) : Out :=
  s.whilePowered fun s => s.service ctx.toNat (fun _ => true) fun c =>
    let n := ctx.toNat
    let id := c.greg 2
    if c.startLevel ≠ .h then s.answerService n vLevel 0
    else match (if id.toNat < 2 ^ 32 then s.cancelRequest (id.setWidth 32) else none) with
      | some t => t.answerService n Verdict.ok id
      | none => s.answerService n vBadParam 0

/-! ### The running ceremony -/

/-- The next queued ceremony starts. -/
def execCeremonyStart (s : State) : Out := s.whilePowered State.startCeremony

/-- The kernel takes the next station event. -/
def execTurnStep (s : State) : Out := s.whilePowered State.turnStep

/-- A turn step has lasted 60 s: the turn aborts (R375). -/
def execTurnStepTimeout (station : BitVec 3) (s : State) : Out := s.whilePowered fun s => s.abortTurn station.toNat

/-- The running part is not made of turns. -/
def Ceremony.timed (c : Ceremony) : Bool := c.turnKind.isNone

/-- A step other than a turn has lasted 60 s (R378). -/
def execCeremonyStepTimeout (s : State) : Out :=
  s.whilePowered fun s =>
    match s.cus.running with
    | some c => if c.timed then s.endCeremony 2 else s
    | none => s

/-- A ceremony has lasted 30 min (R378). -/
def execCeremonyTimeout (s : State) : Out := s.whilePowered fun s => s.endCeremony 2

/-- CANCEL has been held for 3 s at a station (R378). -/
def execCancelHeld (station : BitVec 3) (s : State) : Out :=
  s.whilePowered fun s => if (s.stn station.toNat).pressed == some 0xC then s.endCeremony 1 else s

/-- The 10 s of step C end (R379). -/
def execCodeDisplayEnd (s : State) : Out :=
  s.whilePowered fun s =>
    match s.cus.running with
    | some c => if c.parts.head? = some Part.c ∧ c.ending.isNone then s.nextPart else s
    | none => s

/-- Generation runs (R381); it waits while KEY has no octets to give or the key-path gate is CLOSED (R395). -/
def execGenerationStep (s : State) : Out :=
  s.whilePowered fun s =>
    match s.cus.running with
    | some c => if c.parts.head? = some Part.g ∧ c.ending.isNone ∧ !s.tamper.gateClosed then s.generateShares c else s
    | none => s

/-- A ceremony whose outcome is settled ends (R377, R378). -/
def execCeremonyEnd (s : State) : Out :=
  s.whilePowered fun s =>
    match s.cus.running with
    | some c => match c.ending with
      | some o => s.endCeremony o
      | none => s
    | none => s

/-! ### Effects at X -/

/-- X of DA_CREATE. -/
def execDaCreate (s : State) : Out := s.whilePowered fun s => s.runX 0x01 fun r s => s.ownerLive r

/-- X of DA_RESHARE. -/
def execDaReshare (s : State) : Out := s.whilePowered fun s => s.runX 0x02 fun r s => s.commitShares 0 r

/-- X of KERNEL_ADMIT. -/
def execKernelAdmit (s : State) : Out := s.whilePowered fun s => s.runX 0x03 fun r s => s.burnKernel r

/-- X of FUSE_BURN. -/
def execFuseBurn (s : State) : Out := s.whilePowered fun s => s.runX 0x04 fun r s => s.burnSource r.arg.toNat

/-- X of OWNER_CREATE. -/
def execOwnerCreate (s : State) : Out := s.whilePowered fun s => s.runX 0x05 fun r s => s.ownerLive r

/-- X of OWNER_DELETE. -/
def execOwnerDelete (s : State) : Out := s.whilePowered fun s => s.runX 0x06 fun r s => s.deleteOwner r.owner.toNat

/-- X of EVIDENCE_CLEAR: from Erased, a device reset follows. -/
def execEvidenceClear (test : SelfTest) (s : State) : Out :=
  s.whilePowered fun s => s.runX 0x07 fun _ s =>
    let erased := s.modes.mode == Mode.erased
    let s := s.clearEvidence
    if erased then s.resetTo 0x55 (· == 0x99) test else s

/-- X of SERVICE_ENTER. -/
def execServiceEnter (s : State) : Out :=
  s.whilePowered fun s => s.runX 0x08 fun _ s =>
    ({ s with trivet := s.trivet.setResume 0x66 }).setMode .service 0

/-- X of RECOVERY_EXIT (R444). -/
def execRecoveryExit (test : SelfTest) (s : State) : Out :=
  s.whilePowered fun s => s.runX 0x09 fun r s =>
    let s := if r.arg.getLsbD 0 then s.commitShares 0 r else s
    let s := if r.arg.getLsbD 1 then s.burnKernel r else s
    let s := if r.arg.getLsbD 2 then s.clearEvidence else s
    let from_ := s.trivet.recFrom
    s.resetTo (if from_ = 0x66 ∧ s.trivet.flags ≠ 0 then 0x55 else from_) (· == 0xAA) test

/-- X of WINDOW_OPEN. -/
def execWindowOpen (s : State) : Out := s.whilePowered fun s => s.runX 0x10 fun r s => s.installWindow r

/-- X of OWNER_RESHARE. -/
def execOwnerReshare (s : State) : Out :=
  s.whilePowered fun s => s.runX 0x11 fun r s => s.commitShares r.owner.toNat r

/-- X of ADMIT_KEY. -/
def execAdmitKey (s : State) : Out := s.whilePowered fun s => s.runX 0x12 fun r s => s.setAdmitKey r

/-- X of RECOMMISSION. -/
def execRecommission (test : SelfTest) (s : State) : Out :=
  s.whilePowered fun s => s.runX 0x13 fun _ s =>
    s.resetTo 0x55 (fun v => v == 0xAA || v == 0x99) test

/-! ### Windows and notices -/

/-- A window reaches its END (R385). -/
def execWindowEnd (window : BitVec 4) (s : State) : Out := s.whilePowered fun s => s.closeWindow window.toNat 0

/-- The 5 s of a notice end: the stations show what they showed before (R378, R380). -/
def execRefusedDisplayEnd (s : State) : Out :=
  s.whilePowered fun s =>
    if s.cus.banner.isNone then s
    else
      let s := { s with cus := { s.cus with banner := none } }
      (List.range 8).foldl (fun t n => t.showAt n (t.stn n).text (t.stn n).lamp) s

end Sys2Proof.Machine
end

