-- ==== Sys2Proof/Machine/StockpotCommands.lean ====
section
/-! DEFINITION. The meanings of Stockpot's own steps: accepting a record, draining, the start of the log, its seals, freeze
and thaw (R414 to R428). -/

namespace Sys2Proof.Machine

/-! ### Accepting (R414, R420) -/

/-- Stockpot accepts a record at its turn boundary. -/
def execLogRecordAccept (s : State) : Out := s.whilePowered State.acceptNext

/-! ### Draining (R426, R428) -/

/-- What waited for the end of a hold goes on: jobs, seals, an admission's record. -/
def State.holdEnded (s old : State) : State :=
  if old.stk.hold && !s.stk.hold then s.settle.issueAll.endAdmission else s

/-- The side buffer drains. -/
def State.drain (s : State) : State := s.drainSide.holdEnded s

/-- The side buffer drains at a change of acknowledgement or after a thaw. -/
def execSideBufferDrain (s : State) : Out := s.whilePowered State.drain

/-! ### The start of the log (R422, R423) -/

/-- Accept one of Stockpot's records ahead of those that wait. -/
def State.acceptFirst (s : State) (r : LogRec) : State :=
  match s.accept r with
  | some t => t
  | none => { s with stk := { s.stk with own := s.stk.own ++ [r] } }

/-- The LOG_START record. -/
def State.logStartRec (s : State) (nonce : Bytes) : LogRec :=
  { type := 0x0001, severity := sevAudit, slice := devSlice
    payload := be 8 Config.deviceSerial ++ be 8 s.trivet.tick ++ [s.trivet.lastMode] ++ zeros 3 ++
      be 4 s.trivet.erases ++ nonce }

/-- The log begins: the boot nonce is drawn, and LOG_START takes sequence 0. It waits while Colander has no octets yet. -/
def State.beginLog (s : State) : State :=
  if s.stk.started then s
  else
    let d := s.deviceDraw .bootNonce .nonce 32
    match d.1 with
    | none => d.2
    | some nonce =>
      let t := { d.2 with aud := { d.2.aud with nonce := nonce }, stk := { d.2.stk with started := true } }
      t.acceptFirst (t.logStartRec nonce)

/-- Evidence written on VBAT goes to Stockpot once (R405), and again after a power-on reset has emptied Stockpot. -/
def State.copyEvidence (s : State) : State :=
  let due := s.trivet.evidence.filter fun e => e.2.flags.getLsbD 0 && !e.2.copied
  let mark (e : Nat × Evidence) : Nat × Evidence := (e.1, { e.2 with copied := true })
  let s := { s with trivet := { s.trivet with evidence := s.trivet.evidence.map mark } }
  due.foldl (fun t e => t.acceptFirst (evidenceRec e.2)) s

/-- The record of a seal whose signature a reset interrupted. -/
def State.flushInterrupted (s : State) : State :=
  match s.stk.interrupted with
  | none => s
  | some x => ({ s with stk := { s.stk with interrupted := none } }).acceptFirst (x.record none)

/-- The Log step of Start-up (R446): the log starts if a power-on reset cleared it, evidence and an interrupted seal follow,
and the STK_SEAL entry is placed. -/
def execLogStart (s : State) : Out :=
  s.whilePowered fun s =>
    if s.modes.mode != .startup || s.modes.steps.getLsbD 3 then s
    else
      let t := s.beginLog
      if !t.stk.started then t
      else
        let t := t.copyEvidence.flushInterrupted.placeStkSeal
        { t with modes := { t.modes with steps := t.modes.steps ||| 8 } }

/-- The signature of a Stockpot seal has ended, as `failed` says. -/
def execStkSealSigned (failed : Bool) (s : State) : Out :=
  s.whilePowered fun s => if s.stk.signed.map Option.isNone = some failed then s.stkSigned else s

/-! ### Freeze (R428) -/

/-- STK_CTL (Table 15.10). -/
def stkCtl : Nat := 0x130004

/-- FREEZE: ignored while frozen or while the side buffer holds a record (R428), but accepted while HOLD is set (R429). -/
def State.freeze (s : State) : State :=
  if s.stk.frozen || (!s.stk.side.isEmpty && !s.stk.hold) then s
  else ({ s with stk := { s.stk with frozen := true } }).acceptOwn (freezeRec true false)

/-- Thaw, after which the side buffer drains; nothing happens while not frozen. -/
def State.thawDrain (automatic : Bool) (s : State) : State := if s.stk.frozen then (s.thaw automatic).drain else s

/-- A FREEZE command of S or H. -/
def execFreeze (who : Accessor) (s : State) : Out :=
  s.whilePowered fun s => s.writeBy who.isSH who stkCtl State.freeze

/-- A THAW command of S or H: placement resumes and the side buffer drains. -/
def execThaw (who : Accessor) (s : State) : Out :=
  s.whilePowered fun s => s.writeBy who.isSH who stkCtl (State.thawDrain false)

/-- 20 ms have passed since FREEZE. -/
def execFreezeTimeout (s : State) : Out := s.whilePowered (State.thawDrain true)

end Sys2Proof.Machine
end

