-- ==== Sys2Proof/Machine/AuditOps.lean ====
section
/-! DEFINITION. The Bluex audit link: frames, export, ports, the service of regulator frames (R430 to R437, R439). -/

namespace Sys2Proof.Machine

/-! ### Configuration (Table 15.11) -/

/-- AUD_CFG and its fields. -/
def audCfg : Nat := 0x140004
def State.audEnable (s : State) : Bool := (s.reg audCfg).getLsbD 0
def State.minSev (s : State) : Nat := ((s.reg audCfg).extractLsb 2 1).toNat
def State.prefPort (s : State) : Bool := (s.reg audCfg).getLsbD 3

/-- A MAC address in two registers: byte 0 in HI [15:8] (Table 8.15). -/
def State.macAt (s : State) (a : Nat) : BitVec 48 := (s.reg (a + 4)).extractLsb 15 0 ++ s.reg a
def State.audMac (s : State) : BitVec 48 := s.macAt 0x140008
def State.peerMac (s : State) : BitVec 48 := s.macAt 0x140010

/-- The regulator's key: 97 octets of SEC1. -/
def State.regKey (s : State) : Bytes := (s.regBytes 0x140040 25).take 97

/-! ### Frames (R430, R432) -/

/-- The 24 B header of a Bluex frame. -/
def blxHeader (kind : Byte) (bodyLen : Nat) (fseq : DWord) : Bytes :=
  [1, kind] ++ beNat 2 (24 + bodyLen) ++ zeros 4 ++ be 8 Config.deviceSerial ++ be 8 fseq

/-- A device frame as it is transmitted. -/
def State.blxFrame (s : State) (kind : Byte) (body : Bytes) : Bytes :=
  let f := be 6 s.peerMac ++ be 6 s.audMac ++ [0x88, 0xB6] ++ blxHeader kind body.length s.aud.fseq ++ body
  f ++ le 4 (fcs f)

/-- Transmit a frame on a port while the link is enabled. -/
def State.sendBlx (s : State) (port : Bool) (kind : Byte) (body : Bytes) : State :=
  if !s.audEnable then s
  else
    let a := s.aud
    let f : BlxFrame := { port := port, octets := s.blxFrame kind body }
    { s with aud := { a with fseq := a.fseq + 1, tx := a.tx + 1, sent := a.sent ++ [f] } }

/-- One frame more was dropped or refused. -/
def State.blxBad (s : State) : State := { s with aud := { s.aud with rxBad := s.aud.rxBad + 1 } }

/-- A STATUS, on the active port (R433). -/
def State.sendStatus (s : State) (reqSeq : DWord) (kind : Byte) (v : Verdict) (result : DWord) : State :=
  s.sendBlx s.aud.active 0x03 (be 8 reqSeq ++ [kind, 0] ++ be 2 v.status ++ [v.detail] ++ zeros 3 ++ be 8 result)

/-- The audit key's public key; what HELLO carries without a key is open (assumption 60). -/
def State.auditPublic (s : State) : Bytes × State :=
  match s.auditNode with
  | none => s.freeBytes 65
  | some e =>
    if e.type ≠ 0x20 then s.freeBytes 65
    else match s.deriveFresh e false with
      | none => s.freeBytes 65
      | some k => (publicKeyOf 0x20 k, s)

/-- SFLAGS of HELLO. -/
def State.helloFlags (s : State) : Byte :=
  (if s.stk.hold then 1 else 0) ||| (if s.timeUntrusted then 2 else 0) ||| (if s.stk.frozen then 4 else 0) |||
  (if s.worlds.restarting then 8 else 0)

/-- A HELLO on a port (Table 15.6). -/
def State.hello (s : State) (port : Bool) : State :=
  if !s.audEnable then s
  else
    let x := s.auditPublic
    let keyGen : Word := match s.auditNode with | some e => e.generation | none => 0
    let last : DWord × State := if s.stk.nextSeq = 0 then x.2.freeValue 64 else (s.stk.nextSeq - 1, x.2)
    last.2.sendBlx port 0x01
      (s.aud.nonce ++ [s.modes.mode.code, if s.fuses.profile = Profile.sa then 1#8 else 0#8, s.helloFlags, 0] ++ be 4 keyGen ++
        be 8 s.fuses.off ++ be 8 last.1 ++ be 8 s.stk.ack ++ x.1 ++ zeros 3)

/-! ### Export (R434) -/

/-- Insert in sequence order. -/
def insertSeq (x : LogEntry) : List LogEntry → List LogEntry
  | [] => [x]
  | y :: ys => if x.seq.toNat < y.seq.toNat then x :: y :: ys else y :: insertSeq x ys

/-- The placed records from STK_EXP on, in sequence order, short of the first that waits in the side buffer. -/
def Stockpot.exportable (t : Stockpot) : List LogEntry :=
  let due := t.stored.filter fun e => decide (t.exp.toNat ≤ e.seq.toNat) &&
    (match t.side with | x :: _ => decide (e.seq.toNat < x.seq.toNat) | [] => true)
  due.foldr insertSeq []

/-- The whole records that fit into `room` octets, and the last sequence passed; records below MIN_SEV are passed over. -/
def exportTake (minSev : Nat) : Nat → List LogEntry → List LogEntry × Option DWord
  | _, [] => ([], none)
  | room, e :: es =>
    if !e.record.chained && decide (e.record.severity.toNat < minSev) then
      let x := exportTake minSev room es
      (x.1, match x.2 with | some q => some q | none => some e.seq)
    else if room < e.record.size then ([], none)
    else
      let x := exportTake minSev (room - e.record.size) es
      (e :: x.1, match x.2 with | some q => some q | none => some e.seq)

/-- Mark records as exported. -/
def Stockpot.markExported (t : Stockpot) (sent : List LogEntry) : Stockpot :=
  let mark (p : Placed) : Placed :=
    if sent.any fun e => e.seq == p.entry.seq then { p with entry := { p.entry with exported := true } } else p
  { t with ring := t.ring.map mark, evidence := t.evidence.map mark }

/-- The greater of an optional sequence and another. -/
def maxSeq (a : Option DWord) (b : DWord) : Option DWord :=
  match a with
  | some x => if x.toNat < b.toNat then some b else some x
  | none => some b

/-- The exporter sends the next DATA frame. Every exported byte passes tap 2 (R95); while the tap's buffer is full, the
export path pauses (R96). -/
def State.exportData (s : State) : State :=
  if !s.audEnable || !s.stk.started || s.eng.tap2.held != [] then s
  else
    let x := exportTake s.minSev 8192 s.stk.exportable
    match x.2 with
    | none => s
    | some passed =>
      let s := { s with stk := { (s.stk.markExported x.1) with exp := passed + 1 } }
      match x.1.getLast? with
      | none => s
      | some l =>
        let s := { s with stk := { s.stk with expMax := maxSeq s.stk.expMax l.seq } }
        let recs := (x.1.map LogEntry.bytes).flatten
        let first : DWord := match x.1 with | e :: _ => e.seq | [] => l.seq
        (s.tapFeed 2 recs).sendBlx s.aud.active 0x02 (be 8 first ++ beNat 2 x.1.length ++ zeros 6 ++ recs)

/-- Export restarts from the acknowledged sequence plus 1. -/
def State.restartExport (s : State) : State := { s with stk := { s.stk with exp := s.stk.ack + 1 } }

/-! ### Ports (R431) -/

/-- A LINK record goes out on port 7. -/
def State.logLink (s : State) (event : Byte) (port : Bool) : State := s.pushLog 7 false (linkRec event port)

/-- The active port changes. -/
def State.switchAudit (s : State) : State :=
  let a := s.aud
  let s := { s with aud := { a with active := !a.active, switches := a.switches + 1 } }
  ((s.raise intAud 2).restartExport).logLink 2 s.aud.active

/-- A port has or loses block lock. -/
def State.setAudLock (s : State) (port lock : Bool) : State :=
  if port then { s with aud := { s.aud with lockB := lock } } else { s with aud := { s.aud with lockA := lock } }

/-- The check of Table 4.9 on the regulator's key: an uncompressed point of P-384 that passes. -/
def State.regKeyOk (s : State) : Bool :=
  octet 0 s.regKey == 0x04 && (p384.decode s.regKey).2 == []

/-- ENABLE is set (R431, R432, R439). -/
def State.enableAudit (s : State) : State :=
  if s.audEnable then s
  else if !s.regKeyOk then s.raise intAud 1
  else
    let s := s.setReg audCfg (s.reg audCfg ||| 1)
    let s := { s with aud := { s.aud with active := s.prefPort } }
    (s.restartExport.hello false).hello true

/-- ENABLE is cleared (R439): the verification in progress ends, and the frames behind it are discarded and counted. -/
def State.disableAudit (s : State) : State :=
  if !s.audEnable then s
  else
    let n := s.aud.rxq.length - 1
    let mine := (s.eng.jobs.filter fun j => j.dev == some .regFrame).map Job.id
    let s := mine.foldl (fun t id => t.finish id vAborted 0) s
    { s.setReg audCfg (s.reg audCfg &&& ~~~1#32) with
      aud := { s.aud with rxq := [], checked := none, rxBad := s.aud.rxBad + BitVec.ofNat 32 n } }

/-! ### Regulator frames (R433 to R435) -/

/-- Body lengths of the regulator's kinds (Table 15.6). -/
def bodyLen (kind : Byte) : Option Nat :=
  if kind = 0x81 ∨ kind = 0x82 ∨ kind = 0x84 then some 8
  else if kind = 0x83 then some 40
  else if kind = 0x85 then some 1192
  else none

/-- R430: a received frame is accepted, from its destination address to its frame check sequence. -/
def State.acceptsBlx (s : State) (f : Bytes) : Bool :=
  s.audEnable && fcsOk f && fieldBE 16 12 2 f == 0x88B6 && fieldBE 48 0 6 f == s.audMac && decide (f.length ≤ 9018)

/-- The Bluex octets of a frame. -/
def blxOctets (f : Bytes) : Bytes := slice 14 (f.length - 18) f

/-- R433 step 1. -/
def blxFormatOk (p : Bytes) : Bool :=
  match bodyLen (octet 1 p) with
  | none => false
  | some n =>
    octet 0 p == 1 && ofBE (slice 2 2 p) == 24 + n && zeroRange 4 8 p && fieldBE 64 8 8 p == Config.deviceSerial &&
    p.length == 24 + n + 96 &&
    (if octet 1 p = 0x84 then zeroRange 24 32 p
     else if octet 1 p = 0x83 ∨ octet 1 p = 0x85 then zeroRange 28 32 p else true)

/-- The request that a well-formed frame carries. -/
def regFrame (port : Bool) (p : Bytes) : RegFrame :=
  let n := (bodyLen (octet 1 p)).getD 0
  { kind := octet 1 p, reqSeq := fieldBE 64 16 8 p, body := slice 24 n p, signature := slice (24 + n) 96 p, port := port }

/-- The block of a frame's verification: VERIFY with ECDSA P-384 and SHA-384 under EXTKEY, of so many octets. -/
def frameBlock (n : Nat) : Bytes :=
  [0x61, 0x21, 0x50, 0] ++ zeros 12 ++ leNat 8 n ++ zeros 12 ++ leNat 2 200 ++ zeros 10

/-- What the signature of a frame covers: header, body and boot nonce. -/
def State.frameSigned (s : State) (f : RegFrame) : Bytes :=
  blxHeader f.kind f.body.length f.reqSeq ++ f.body ++ s.aud.nonce

/-- The verification of the frame at the head begins, under AUD_REGKEY, as device-class work (R433 step 3). -/
def State.verifyHead (s : State) : State :=
  match s.aud.rxq with
  | [] => s
  | f :: _ =>
    let m := s.frameSigned f
    s.submitDev { issuer := .s, charge := none, origin := .device, block := frameBlock m.length, source := [], host := [] }
      fun j => { j with
        dev := some .regFrame, payload := m, key := s.regKey, aux := fit 104 s.regKey ++ fit 96 f.signature }

/-- A frame arrives (R430, R433 steps 1 and 2). -/
def State.receiveBlx (s : State) (port : Bool) (f : Bytes) : State :=
  if !s.acceptsBlx f then s.blxBad
  else
    let s := { s with aud := { s.aud with rx := s.aud.rx + 1 } }
    let p := blxOctets f
    let seq := fieldBE 64 16 8 p
    if !blxFormatOk p then s.blxBad.sendStatus seq (octet 1 p) (verdict St.malformed 0x35) 0
    else if 8 ≤ s.aud.rxq.length then s.blxBad.sendStatus seq (octet 1 p) (verdict St.attrDenied 0xC3) 0
    else
      let t := { s with aud := { s.aud with rxq := s.aud.rxq ++ [regFrame port p] } }
      if s.aud.rxq = [] then t.verifyHead else t

/-- ACK (R435). -/
def State.serveAck (s : State) (seq : DWord) : State × Verdict :=
  match s.stk.expMax with
  | none => (s, verdict St.malformed 0xC1)
  | some m =>
    if m.toNat < seq.toNat then (s, verdict St.malformed 0xC1)
    else if s.stk.acked seq then (s, Verdict.ok)
    else ({ s with stk := { s.stk with ack := seq } }, Verdict.ok)

/-- A sequence whose record is still in the log or on its way into it. -/
def Stockpot.present (t : Stockpot) (seq : DWord) : Bool := (t.find seq).isSome

/-- The oldest record present above a sequence, or the next to be assigned. -/
def Stockpot.nextPresent (t : Stockpot) (seq : DWord) : DWord :=
  ((t.stored ++ t.side).filter fun e => decide (seq.toNat < e.seq.toNat)).foldl
    (fun m e => if e.seq.toNat < m.toNat then e.seq else m) t.nextSeq

/-- RESUME (R435). -/
def State.serveResume (s : State) (seq : DWord) : State × Verdict :=
  let t := s.stk
  if t.nextSeq.toNat < seq.toNat then (s, verdict St.malformed 0xC1)
  else if seq = t.nextSeq || t.present seq then ({ s with stk := { t with exp := seq } }, Verdict.ok)
  else ({ s with stk := { t with exp := t.nextPresent seq } }, verdict St.attrDenied 0xC4)

/-- A request that its mode refuses (Table 16.2): ACK, RESUME and MEAS_REQ run from LOG_START on, PROVE_REQ and
CHECKKEY_REQ in Service and Recovery. -/
def State.requestMode (s : State) (kind : Byte) : Bool :=
  if kind = 0x83 ∨ kind = 0x85 then s.modes.mode == .service || s.modes.mode == .recovery
  else s.stk.started

/-- Step 5: ACK and RESUME are served at once; the others go to the secure world. -/
def State.serveRequest (s : State) (f : RegFrame) : State :=
  if f.kind = 0x81 ∨ f.kind = 0x82 then
    let seq := fieldBE 64 0 8 f.body
    let x := if !s.requestMode f.kind then (s, modeRefusal)
      else if f.kind = 0x81 then s.serveAck seq else s.serveResume seq
    x.1.sendStatus f.reqSeq f.kind x.2 0
  else { s with aud := { s.aud with served := s.aud.served ++ [f] } }

/-- A frame whose signature has been verified, or not, is answered or served (R433 steps 3 to 5). -/
def State.frameVerified (s : State) (f : RegFrame) (ok : Bool) : State :=
  if !ok then ((s.blxBad.raise intAud 1).logLink 3 f.port).sendStatus f.reqSeq f.kind (verdict St.malformed 0xC0) 0
  else
    let s :=
      if s.aud.peer then s
      else (({ s with aud := { s.aud with peer := true } }).raise intAud 0).logLink 1 f.port
    if f.reqSeq.toNat ≤ s.aud.reqSeq.toNat then
      s.blxBad.sendStatus f.reqSeq f.kind (verdict St.attrDenied 0xC2) 0
    else ({ s with aud := { s.aud with reqSeq := f.reqSeq } }).serveRequest f

/-- The verification of the frame at the head has ended: the frame leaves the queue, and the next one's begins. -/
def State.verifyDone (s : State) : State :=
  match s.aud.rxq, s.aud.checked with
  | f :: fs, some ok =>
    (({ s with aud := { s.aud with rxq := fs, checked := none } }).frameVerified f ok).verifyHead
  | _, _ => s

/-! ### Requests to the secure world (R436) -/

/-- The secure world can serve. -/
def State.secureServes (s : State) : Bool :=
  !s.worlds.restarting && s.worlds.kstate != .failed && s.worlds.kstate != .absent

/-- Take a request off the list. -/
def State.dropServed (s : State) (f : RegFrame) : State :=
  { s with aud := { s.aud with served := s.aud.served.erase f } }

/-- Answer a request of a kind: the verdict and the payload of its record, if it has one. The request waits while its
record must. -/
def State.serveSecure (s : State) (kind : Byte) (type : Half)
    (answer : State → RegFrame → Verdict × Option Bytes × State) : State :=
  match s.aud.served.find? fun f => f.kind == kind with
  | none => s
  | some f =>
    if !s.secureServes then (s.dropServed f).sendStatus f.reqSeq kind (verdict St.svcUnavailable 0) 0
    else
      let x := answer s f
      match x.2.1 with
      | none => (x.2.2.dropServed f).sendStatus f.reqSeq kind x.1 0
      | some payload =>
        match x.2.2.logNow 1 { type := type, severity := sevAudit, slice := devSlice, payload := payload } with
        | none => s
        | some (seq, t) => (t.dropServed f).sendStatus f.reqSeq kind x.1 seq

/-- PROVE at level S on the HANDLE with the challenge, or the first refusal. -/
def State.proveFor (s : State) (f : RegFrame) : Verdict × Bytes × State :=
  let h : Word := fieldBE 32 0 4 f.body
  let no (v : Verdict) : Verdict × Bytes × State := (v, zeros 48, s)
  if !s.requestMode f.kind then no modeRefusal
  else if s.stk.hold then no (verdict St.logHold 0)
  else if s.timeUntrusted then no (verdict St.timeUntrusted 0)
  else match s.checkUse .s h opProve with
    | .error v => no v
    | .ok _ =>
      match s.keyNow .s h true with
      | (none, _) => no (verdict St.handleInvalid 0)
      | (some kc, t) => (Verdict.ok, s.proveResponse h kc (slice 8 32 f.body), t)

/-- The answer to PROVE_REQ. -/
def State.answerProve (s : State) (f : RegFrame) : Verdict × Option Bytes × State :=
  let x := s.proveFor f
  (x.1, some (be 8 f.reqSeq ++ be 2 x.1.status ++ [x.1.detail] ++ zeros 5 ++ x.2.1), x.2.2)

/-- The measurements in force (Table 15.7). -/
def State.measurements (s : State) (reqSeq : DWord) : Bytes :=
  let m (i : Nat) : Bytes := sparseGet [] s.worlds.admitted i |> fit 48
  be 8 reqSeq ++ be 8 s.worlds.kversion ++
  [BitVec.ofNat 8 s.fuses.active, BitVec.ofNat 8 (2 ^ s.fuses.kernel.length - 1), if s.worlds.fallback then 1#8 else 0#8, 0] ++
  beNat 4 s.worlds.restarts.toNat ++ fit 48 s.worlds.kmeas ++ m 64 ++ ((List.range 64).map m).flatten

/-- The answer to MEAS_REQ. -/
def State.answerMeas (s : State) (f : RegFrame) : Verdict × Option Bytes × State :=
  if !s.requestMode f.kind then (modeRefusal, none, s) else (Verdict.ok, some (s.measurements f.reqSeq), s)

/-- An answer to the regulator stands, or waits for Colander. -/
inductive RegAnswer where
  | ready (v : Verdict) (out : Bytes) (s : State)
  | wait (s : State)

/-- The check key of HANDLE, wrapped under a key that is encapsulated to the regulator, or the first refusal. -/
def State.checkKeyFor (s : State) (f : RegFrame) : RegAnswer :=
  let h : Word := fieldBE 32 0 4 f.body
  let ek := slice 8 1184 f.body
  let no (v : Verdict) : RegAnswer := .ready v (zeros 1128) s
  if !s.requestMode f.kind then no modeRefusal
  else match s.checkUse .s h opProve with
    | .error v => no v
    | .ok _ =>
      match s.keyNow .s h true with
      | (none, _) => no (verdict St.handleInvalid 0)
      | (some kc, t) =>
        if !kemKeyOk 0x41 ek then no (verdict St.operandRange 0)
        else
          let d := t.deviceDraw .checkKey .nonce 32
          match d.1 with
          | none => .wait d.2
          | some m =>
            let k := kemEncaps 0x41 ek m
            .ready Verdict.ok (k.1 ++ kwpWrap k.2 kc) d.2

/-- The answer to CHECKKEY_REQ. -/
def checkKeyPayload (f : RegFrame) (v : Verdict) (out : Bytes) : Bytes :=
  be 8 f.reqSeq ++ slice 0 4 f.body ++ be 2 v.status ++ [v.detail, 0] ++ out

end Sys2Proof.Machine
end

