-- ==== Sys2Proof/Machine/AuditCommands.lean ====
section
/-! DEFINITION. The meanings of the audit link's commands (R181, R430 to R439). -/

namespace Sys2Proof.Machine

/-- A frame arrives on an AUDIT port. -/
def execBluexFrameReceive (port : Bool) (frame : Bytes) (s : State) : Out :=
  s.whilePowered fun s => s.receiveBlx port frame

/-- The verification of the frame at the head has ended. -/
def execBluexVerifyDone (s : State) : Out :=
  s.whilePowered fun s => if s.audEnable then s.verifyDone else s

/-- The secure world serves a PROVE_REQ. -/
def execProveReq (s : State) : Out :=
  s.whilePowered fun s => if s.tamper.gateClosed then s else s.serveSecure 0x83 0x0005 State.answerProve

/-- The secure world serves a MEAS_REQ. -/
def execMeasReq (s : State) : Out := s.whilePowered fun s => s.serveSecure 0x84 0x0006 State.answerMeas

/-- The secure world serves a CHECKKEY_REQ. -/
def execCheckkeyReq (s : State) : Out :=
  s.whilePowered fun s =>
    match s.aud.served.find? fun f => f.kind == 0x85 with
    | none => s
    | some f =>
      if s.tamper.gateClosed then s else
      match (if s.secureServes then s.checkKeyFor f else .ready Verdict.ok [] s) with
      | .wait t => t
      | .ready v out t => s.serveSecure 0x85 0x0007 fun _ g => (v, some (checkKeyPayload g v out), t)

/-- A port's second has passed, or it has gained block lock. -/
def execHelloTimer (port gained : Bool) (s : State) : Out :=
  s.whilePowered fun s => (if gained then s.setAudLock port true else s).hello port

/-- The exporter sends a DATA frame. -/
def execExportData (s : State) : Out := s.whilePowered State.exportData

/-- The acknowledgement has not advanced for AUD_ACK_TO while records are outstanding. -/
def execAckTimeout (s : State) : Out :=
  s.whilePowered fun s =>
    if s.audEnable && s.stk.exp != s.stk.ack + 1 then
      { s with aud := { s.aud with retx := s.aud.retx + 1 } }.restartExport.raise intAud 3
    else s

/-- The configuration of the link is locked. -/
def State.audLocked (s : State) : Bool := (s.reg 0x14001C).getLsbD 0

/-- S sets AUD_CFG.ENABLE. -/
def execAudEnableSet (who : Accessor) (s : State) : Out :=
  s.whilePowered fun s => s.writeBy who.isS who audCfg fun s => if s.audLocked then s else s.enableAudit

/-- S clears AUD_CFG.ENABLE. -/
def execAudEnableClear (who : Accessor) (s : State) : Out :=
  s.whilePowered fun s => s.writeBy who.isS who audCfg fun s => if s.audLocked then s else s.disableAudit

/-- Error times of a port. -/
def State.audErrs (s : State) (port : Bool) : List Nat := if port then s.aud.errsB else s.aud.errsA

/-- Set the error times of a port. -/
def State.setAudErrs (s : State) (port : Bool) (ts : List Nat) : State :=
  if port then { s with aud := { s.aud with errsB := ts } } else { s with aud := { s.aud with errsA := ts } }

/-- The traffic of the active port `port` moves to the other AUDIT port (R431), which is a failover (R187). -/
def State.moveAudit (s : State) (port : Bool) : State :=
  (s.switchAudit.raise intWsk 7).logEvent 4 5 5 sevAudit (256 + port.toNat) 0 (256 + (!port).toNat)

/-- An FCS error or an uncorrectable block (R181, R430): the frame is dropped; the 32nd in 1 s on the active port moves the
traffic to the other. -/
def execAuditFrameError (port : Bool) (s : State) : Out :=
  s.whilePowered fun s =>
    let s := s.blxBad
    if !s.audEnable then s
    else
      let ts := inWindow s.now cyclesPerSec (s.audErrs port) ++ [s.now]
      if 32 ≤ ts.length && s.aud.active == port then (s.setAudErrs port []).moveAudit port
      else s.setAudErrs port ts

/-- A port has lost block lock for 100 µs (R431). -/
def execAuditLossOfLock (port : Bool) (s : State) : Out :=
  s.whilePowered fun s =>
    let s := ((s.setAudLock port false).raise intAud 4).logLink 4 port
    if s.audEnable && s.aud.active == port then s.moveAudit port else s

end Sys2Proof.Machine
end

