-- ==== Sys2Proof/Machine/RegViews.lean ====
section
/-! DEFINITION. What each register of the 21 blocks reads as (Table 1.6 and the register tables of every chapter). A
register that no list names reads what the register file holds, zero at a reserved offset (R17). -/

namespace Sys2Proof.Machine

/-- Fields of a register: value and lowest bit. -/
def pack (fs : List (Nat × Nat)) : Word := BitVec.ofNat 32 (fs.foldl (fun v f => v + f.1 * 2 ^ f.2) 0)

/-- A number as a register. -/
def word (n : Nat) : Word := BitVec.ofNat 32 n

/-- A flag as a field. -/
def flag (b : Bool) (p : Nat) : Nat × Nat := (b.toNat, p)

/-- The two registers of a 64-bit quantity (R16). -/
def pair (a : Nat) (v : DWord) : List (Nat × Word) := [(a, v.setWidth 32), (a + 4, (v >>> 32).setWidth 32)]

/-- Consecutive registers. -/
def run (a : Nat) (ws : List Word) : List (Nat × Word) := ws.zipIdx.map fun x => (a + 4 * x.2, x.1)

/-- Times of a 60 s error window, as a field of at most `m`. -/
def State.windowCount (s : State) (m : Nat) (ts : List Nat) : Nat := min m (inWindow s.now minuteCycles ts).length

/-! ### MOD and PWR (Tables 16.11, 10.10, 16.12) -/

/-- KSTATE (Table 10.10). -/
def KState.code : KState → Nat
  | .absent => 0
  | .loading => 1
  | .running => 2
  | .restarting => 3
  | .failed => 4

/-- LAST_RESET (Table 16.11). -/
def ResetKind.code : ResetKind → Nat
  | .powerOn => 0
  | .device => 1
  | .hold => 2

/-- MOD_STATE. -/
def State.modState (s : State) : Word :=
  pack [(s.modes.mode.code.toNat, 0), (s.trivet.resume.toNat, 8), (s.trivet.recFrom.toNat, 16), flag s.stk.hold 24,
    flag s.timeUntrusted 25, flag s.worlds.restarting 26, flag s.degraded 27, (s.modes.lastReset.code, 28)]

/-- MOD_SW_STS. -/
def State.swStatus (s : State) : Word :=
  let w := s.worlds
  pack [(w.kstate.code, 0), flag w.restarting 3, (s.fuses.active, 4), flag w.fallback 7, (w.restarts.toNat, 8),
    (w.rcause.toNat, 16), (w.lcause.toNat, 18)]

/-- Watchdog time left in µs (MOD_SWD_REM). -/
def State.watchdogLeft (s : State) : Nat :=
  if s.worlds.armed then 5000 - (s.now - s.worlds.kickAt) / 1500 else 0

/-- The MOD_ block. -/
def State.modView (s : State) : List (Nat × Word) :=
  let m := s.modes
  let w := s.worlds
  [(0x000000, s.modState),
   (0x000004, pack [(s.trivet.cause.toNat, 0), (s.trivet.causeArg.toNat, 8)]),
   (0x000010, pack [(m.steps.toNat, 0), flag m.failed 7]),
   (0x000014, m.tlWait.setWidth 32), (0x000018, m.startUs),
   (0x000020, pack [(m.dgFail.toNat, 0), (m.cpFail.toNat, 8), (m.bnFail.toNat, 16), flag m.sramFail 24]),
   (0x000048, pack [flag (s.fuses.profile == .sa) 0, (0xB0, 8), ((Config.deviceIdent >>> 16).toNat, 16)]),
   (0x000100, pack [(w.wmark.toNat, 0), flag w.wmarkLock 31]), (0x000104, s.swStatus),
   (0x00010C, word s.watchdogLeft), (0x000110, w.gateBase), (0x000114, w.gateCnt.setWidth 32),
   (0x000118, word (2 ^ s.fuses.kernel.length - 1))] ++
  pair 0x000040 Config.deviceSerial ++ pair 0x000120 w.t0 ++ run 0x000130 (words 12 w.kmeas)

/-- Codes of Table 16.6. -/
def GroupPower.code : GroupPower → Nat
  | .on => 0
  | .draining => 1
  | .scrubbing => 2
  | .off => 3
  | .waking => 4

/-- A bit for each group. -/
def State.groupBits (s : State) (f : PGroup → Bool) : Word :=
  (List.range 26).foldl (fun w g => if f (s.pgroup g) then w ||| (1#32 <<< g) else w) 0

/-- Groups in a state. -/
def State.groupsIn (s : State) (f : GroupPower → Bool) : Nat :=
  ((List.range 26).filter fun g => f (s.pgroup g).state).length

/-- PWR_STS. -/
def State.powerStatus (s : State) : Word :=
  pack [(s.groupsIn (· == .on), 0), (s.groupsIn (· == .off), 5), flag s.power.pending 10,
    flag (s.groupsIn (fun p => p != .on && p != .off) != 0) 11]

/-- Jobs in the context areas of a big-number group. -/
def State.residents (s : State) (g : Nat) : Nat :=
  if g < 18 then 0
  else (((groupEngines g).2.flatMap fun n => ((s.engine .bn n).areas.toList.filterMap id).map fun j => (n, j)).eraseDups).length

/-- The PWR_ block. -/
def State.pwrView (s : State) : List (Nat × Word) :=
  let g := (s.reg 0x010028).toNat
  let p := s.pgroup g
  [(0x010000, s.powerStatus), (0x010004, s.power.epoch), (0x01001C, s.power.hold.setWidth 32),
   (0x010020, s.groupBits PGroup.deferred), (0x010024, s.groupBits PGroup.pendOn),
   (0x01002C, if g < 26 then pack [(p.state.code, 0), flag p.depth 3, (min 15 (s.residents g), 4)] else 0)]

/-! ### SLC, RNG and LDL (Tables 11.14 to 11.16, 10.11) -/

/-- RNG_CFG. -/
def Ring.cfg (g : Ring) : Word :=
  pack [(g.sqLog2.toNat, 0), (g.cqLog2.toNat, 5), (g.pasidIdx.toNat, 10), flag g.enable 14, flag g.irqEn 15,
    (g.coalN.toNat, 16), (g.coalUs.toNat, 24)]

/-- Codes of RNG_STS.STATE. -/
def RingState.code : RingState → Nat
  | .disabled => 0
  | .running => 1
  | .stopped => 2

/-- RNG_STS. -/
def Ring.sts (g : Ring) : Word :=
  pack [(g.state.code, 0), flag g.badDoorbell 2, flag g.waitCq 3, flag (!g.chain.isEmpty) 4, flag g.badCfg 5,
    (g.sealDrop.toNat, 16)]

/-- VALID stage-2 entries of a slice. -/
def State.s2Used (s : State) (n : Nat) : Nat := (s.worlds.s2.filter fun e => e.1 / 64 == n && e.2.valid).length

/-- SLC_S2_ENT of an entry. -/
def S2Entry.word (e : S2Entry) : Word := pack [(e.ppn.toNat, 0), flag e.r 8, flag e.w 9, flag e.x 10, flag e.valid 15]

/-- The SLC_ block. -/
def State.slcView (s : State) : List (Nat × Word) :=
  let n := s.slcSel
  let x := s.slc n
  let h := s.host
  let sel := s.reg 0x020180
  let t := (sel.setWidth 6 : BitVec 6).toNat
  let page := (sel.extractLsb' 8 6).toNat
  [(0x020004, pack [flag x.quiesce 1]),
   (0x020008, pack [(x.state.code, 0), flag (x.state == .quiesced) 3,
     (min 0xFFFF (s.eng.jobs.filter fun j => j.ofSlice n).length, 16)]),
   (0x02000C, x.err.setWidth 32), (0x020014, sparseGet 0#32 x.binds ((s.reg 0x020010).toNat % 16)),
   (0x020020, pack [(h.mgrPasid.toNat, 0), flag h.untagged 30, flag h.mgrLock 31]),
   (0x020030, pack [(h.speed.toNat, 0), (h.width.toNat, 4), flag h.linkUp 9, flag h.d3hot 10, flag h.atsEn 11,
     flag h.pasidEn 12]),
   (0x020184, (sparseGet S2Entry.none s.worlds.s2 (t * 64 + page)).word),
   (0x020188, pack [flag (s.worlds.s2Pending.any fun c => c.slice.toNat == t) 0, (s.worlds.s2Err.toNat, 1)]),
   (0x02018C, word (s.s2Used t))]

/-- The RNG_ block: mirrors of the selected ring. -/
def State.rngView (s : State) : List (Nat × Word) :=
  let sel := s.reg 0x030000
  let g := s.ring (sel.toNat % 64) (sel.extractLsb' 8 4).toNat
  run 0x030004 [g.cfg, g.sts, g.head, g.tail]

/-- The LDL_ block. -/
def State.ldlView (s : State) : List (Nat × Word) :=
  [(0x040004, (s.slc ((s.reg 0x040000).toNat % 64)).split.setWidth 32),
   (0x040008, s.worlds.admBase.setWidth 32),
   (0x04000C, match s.worlds.admission with | some a => pack [(1, 0), (a.carrier.toNat, 1)] | none => 0)]

/-! ### WSK (Tables 6.7 to 6.12) -/

/-- A class by its code. -/
def classOf (n : Nat) : EngClass :=
  if n = 0 then .pool else if n = 1 then .cipher else if n = 2 then .bn else .lane

/-- An engine of a class is retired. -/
def State.classDegraded (s : State) (c : EngClass) : Bool :=
  (enginesWhere c fun n => (s.engine c n).health == .retired) != []

/-- STATE of WSK_ENG_FLT. -/
def State.faultState (s : State) (c : EngClass) (n : Nat) : Nat :=
  let e := s.engine c n
  match e.health with
  | .retired => 2
  | .online =>
    if e.substFor.isSome then 3
    else if !s.groupOn c n || e.tap.isSome || e.stalled.isSome then 4
    else 0
  | _ => 1

/-- WSK_ENG_FLT. -/
def State.faultWord (s : State) (c : EngClass) (n : Nat) : Word :=
  if c.size ≤ n then 7
  else
    let e := s.engine c n
    let left := match e.health with | .quarantined t => min 1000 ((t - s.now) / 1500) | _ => 0
    pack [(s.faultState c n, 0), (s.windowCount 3 e.mism, 4), (s.windowCount 2 e.ue, 6), (s.windowCount 8 e.ce, 8),
      (e.cause.toNat, 12), (left, 16)]

/-- Q and N of a class. -/
def Share.word (x : Share) : Word := pack [(x.q.toNat, 0), (x.n.toNat, 16)]

/-- The account that WSK_SLC_SEL selects; class 3 has none. -/
def State.selectedAccount (s : State) : Account :=
  let sel := s.reg 0x050040
  let c := (sel.extractLsb' 8 2).toNat
  if c = 3 then Account.reset else s.account (classOf c) (sel.toNat % 64)

/-- Lane substitutes bound. -/
def State.substitutes (s : State) : Nat := (enginesWhere .pool fun n => (s.engine .pool n).substFor.isSome).length

/-- The WSK_ block. -/
def State.wskView (s : State) : List (Nat × Word) :=
  let w := s.whisk
  let a := s.selectedAccount
  let sel := s.reg 0x050080
  let c := classOf (sel.extractLsb' 8 2).toNat
  let e := sel.toNat % 256
  let inst := (s.reg 0x0500C0).toNat
  let m := s.sram inst
  [(0x050000, pack [flag (s.classDegraded .pool) 0, flag (s.classDegraded .lane) 1, flag (s.classDegraded .cipher) 2,
     flag (s.classDegraded .bn) 3, flag s.degraded 4, (w.frame.toNat % 64, 8), (w.frame.toNat % 16, 16),
     (s.substitutes, 24)]),
   (0x050020, w.shareDg.word), (0x050024, w.shareCp.word), (0x050028, w.shareBn.word),
   (0x050044, a.balance.setWidth 32), (0x050058, a.preempt), (0x05005C, a.waitNs),
   (0x050060, sparseGet 0#32 w.busy ((s.reg 0x050040).toNat % 64)),
   (0x050084, s.faultWord c e),
   (0x050088, match (if c = .lane then s.substitute e else none) with | some n => word (0x100 + n) | none => 0),
   (0x0500A0, w.urgIdle), (0x0500A4, w.urgIns), (0x0500A8, w.urgBusy),
   (0x0500C4, if 9 ≤ inst then 0 else pack [(m.spares.toNat, 0), (m.ce.toNat, 16)])] ++
  pair 0x050010 w.frame ++ pair 0x050030 w.devCyc ++ pair 0x050048 a.owned ++ pair 0x050050 a.borrowed

/-! ### KT (Tables 2.15 to 2.23) -/

/-- The KT_ block. KT_TBL_DATA and KT_TBL_CEIL hold the snapshot, in the register file. -/
def State.ktView (s : State) : List (Nat × Word) :=
  let n := (s.reg 0x060080).toNat
  let o := s.owner n
  let p := s.partition ((s.reg 0x0600C0).toNat)
  let lo := o.regionBase.toNat * 4096
  let hi := lo + o.regionUnits.toNat * 4096
  let st := match o.state with | .absent => 0 | .live => 1 | .deleting => 2
  [(0x060000, pack [flag s.ktBusy 0, flag (!s.keys.sweeps.isEmpty) 1, flag s.stk.hold 2, flag s.keys.ready 3,
     (if s.keys.ready then s.freeEntries else 0, 4)]),
   (0x060084, pack [(st, 0), (o.resLog2.toNat, 2), (o.regionBase.toNat, 8), (o.regionUnits.toNat, 16),
     (o.roots.length, 24)]),
   (0x060088, o.imgGen), (0x06008C, o.pendGen), (0x060098, o.birth),
   (0x06009C, word (s.keys.table.filter fun e => e.2.valid && decide (lo ≤ e.1) && decide (e.1 < hi)).length),
   (0x0600C4, pack [(p.used, 0), (p.pinned, 16)]), (0x0600C8, p.hits), (0x0600CC, p.misses)] ++
  pair 0x060090 o.epoch

/-! ### DG, CP and BN (Tables 3.14 to 3.19, 4.15 to 4.18) -/

/-- Engines of a class available to Whisk: none before the self-test of Start-up has ended (R446 step 4). -/
def State.available (s : State) (c : EngClass) : Nat :=
  if s.modes.steps.getLsbD 1 then (enginesWhere c fun n => s.online c n).length else 0

/-- An engine's group gives it no power: a group that drains still does (R453). -/
def State.groupOff (s : State) (c : EngClass) (n : Nat) : Bool :=
  !s.groupOn c n &&
  match groupOf c n with
  | some g => (sparseGet PGroup.reset s.power.groups g).state != .draining
  | none => false

/-- Engines of a class that are retired; quarantined. -/
def State.retiredIn (s : State) (c : EngClass) : Nat :=
  (enginesWhere c fun n => (s.engine c n).health == .retired).length

/-- An engine is quarantined, or waits for the frame at which it rejoins. -/
def Engine.quarantined (e : Engine) : Bool := e.health != .online && e.health != .retired

/-- SLICE and DEVICE of the running segment of an engine. -/
def Engine.segmentBits (e : Engine) : List (Nat × Nat) :=
  match e.running with
  | some g => [((g.slice.map BitVec.toNat).getD 0, 3), flag g.device 9]
  | none => []

/-- DG_ENG_STS of an engine number: 0 to 159 pool, 160 to 191 lane. DESIGN CHOICE: a pool engine that stands for a lane engine,
or is to at its next boundary, reads STATE 6 (assumption 91). -/
def State.dgEngine (s : State) (n : Nat) : Word :=
  if 192 ≤ n then 7
  else if 160 ≤ n then
    let e := s.engine .lane (n - 160)
    if e.health == .retired then 3 else if e.quarantined then 2 else 6
  else
    let e := s.engine .pool n
    if e.health == .retired then 3
    else if e.quarantined then 2
    else if s.groupOff .pool n then 4
    else if e.tap.isSome then 5
    else if e.substFor.isSome then 6
    else if e.running.isSome then pack ((1, 0) :: e.segmentBits)
    else 0

/-- DG_TAP_STS. `behind`: writes of an image wait behind the tap's full buffer. -/
def Tap.sts (t : Tap) (isOpen behind : Bool) : Word :=
  pack [flag isOpen 0, flag (!t.held.isEmpty || behind) 1, (if isOpen then t.engine.toNat else 0, 8)]

/-- The DG_ block. -/
def State.dgView (s : State) : List (Nat × Word) :=
  let g := s.eng
  let n := (s.reg 0x070040).toNat
  let e := if n < 160 then s.engine .pool n else s.engine .lane (n - 160)
  let quar := (enginesWhere .pool fun n => (s.engine .pool n).quarantined || (s.engine .pool n).tap.isSome).length
  [(0x070000, pack [(s.available .pool, 0), (quar, 8), (s.retiredIn .pool, 16), flag g.kboot.isSome 24]),
   (0x070010, g.tap0.sts (s.tapBusy 0) false),
   (0x070014, g.tap1.sts (s.tapBusy 1) (match s.worlds.admission with | some a => !a.waiting.isEmpty | none => false)),
   (0x070018, g.tap2.sts (s.tapBusy 2) false),
   (0x070044, s.dgEngine n), (0x070050, g.cmpEq), (0x070054, g.cmpNe), (0x070058, g.ctxErr)] ++
  pair 0x070020 g.tap0.bytes ++ pair 0x070028 g.tap1.bytes ++ pair 0x070030 g.tap2.bytes ++
  (if n < 192 then pair 0x070048 e.calls else [])

/-- CP_ENG_STS. -/
def State.cpEngine (s : State) (n : Nat) : Word :=
  let e := s.engine .cipher n
  let st :=
    if e.health == .retired then 4
    else if e.quarantined then 3
    else if s.groupOff .cipher n then 5
    else if e.stalled.isSome then 2
    else if e.running.isSome then 1
    else 0
  let sl := match e.running with | some g => (g.slice.map BitVec.toNat).getD 0 | none => 0
  pack [(st, 0), (sl, 3), flag e.reseedPend 9]

/-- The CP_ block. -/
def State.cpView (s : State) : List (Nat × Word) :=
  let n := (s.reg 0x080040).toNat
  let e := s.engine .cipher n
  [(0x080000, pack [(s.available .cipher, 0), ((enginesWhere .cipher fun k => (s.engine .cipher k).stalled.isSome).length, 8),
     (s.retiredIn .cipher, 16)]),
   (0x080044, s.cpEngine n), (0x080048, e.maskCnt.setWidth 32), (0x08004C, e.reseeds), (0x080050, e.stallNs)]

/-- BN_ENG_STS. -/
def State.bnEngine (s : State) (n : Nat) : Word :=
  let e := s.engine .bn n
  let areas : Nat := ((List.range 4).zip e.areas.toList).foldl (fun v x => if x.2.isSome then v + 2 ^ x.1 else v) 0
  let st : Nat × List (Nat × Nat) :=
    if e.scrubbing then (5, [])
    else if e.health == .retired then (3, [])
    else if e.quarantined then (2, [])
    else if s.groupOff .bn n then (4, [])
    else if e.running.isSome then (1, e.segmentBits)
    else (0, [])
  pack ((st.1, 0) :: (areas, 10) :: flag e.lattice 14 :: st.2)

/-- The BN_ block. -/
def State.bnView (s : State) : List (Nat × Word) :=
  let n := (s.reg 0x090040).toNat
  let e := s.engine .bn n
  let primes := (s.eng.jobs.filter fun j => j.primes && !j.primed).length
  [(0x090000, pack [(s.available .bn, 0), ((enginesWhere .bn fun k => (s.engine .bn k).quarantined).length, 8),
     (s.retiredIn .bn, 16)]),
   (0x090044, s.bnEngine n), (0x090050, e.mismatches), (0x090054, e.scrubs), (0x090070, s.eng.valErr),
   (0x090074, s.eng.rfail), (0x090078, word (min 64 primes))] ++ pair 0x090048 e.calls

/-! ### CLD (Tables 5.13 to 5.16) -/

/-- Codes of CLD_GRP_STS.STATE. -/
def GroupState.code : GroupState → Nat
  | .settling => 0
  | .qualifying => 1
  | .running => 2
  | .retrim => 3

/-- Codes of CLD_SLC_STS.STATE. -/
def ChannelState.code : ChannelState → Nat
  | .uninst => 0
  | .ready => 1
  | .stopped => 2

/-- Bits set in a register. -/
def popcount {w : Nat} (v : BitVec w) : Nat := ((List.range w).filter fun i => v.getLsbD i).length

/-- The span of a channel's last provisional block is still open. -/
def State.onProvisional (s : State) (c : Channel) : Bool :=
  match c.prov with | some p => (s.group p.1.toNat).span == p.2 | none => false

/-- Output blocks of a group's open span that are conditioned and have not been counted: one in 1.28 µs (R142, R147). -/
def State.openBlocks (s : State) (g : Nat) : Nat :=
  let x := s.group g
  let most := match x.state with | .running => 16 | .qualifying => 4 | _ => 0
  min most ((s.now - max s.cld.began x.since) / 1920) - x.blocks.length

/-- The CLD_ block. -/
def State.cldView (s : State) : List (Nat × Word) :=
  let d := s.cld
  let g := s.group (s.reg 0x0A0040).toNat
  let c := s.cell (s.reg 0x0A0050).toNat
  let ch := s.channel (s.reg 0x0A0080).toNat
  let running := (List.range 16).map fun i => flag ((s.group i).state == .running) (16 + i)
  [(0x0A0000, pack ([flag d.ready 0, flag d.seedFail 1, flag d.fatal 2, (popcount d.qualified, 4)] ++ running)),
   (0x0A0044, pack [(g.state.code, 0), (g.lastCell.toNat, 8), (g.lastTest.toNat, 12), (g.fails.toNat, 16)]),
   (0x0A0054, pack [(c.trim.toNat, 0), (c.trans.toNat, 8)]),
   (0x0A0060, word (min 4 (inWindow s.now cyclesPerSec d.taints).length)), (0x0A0064, word d.verified.length),
   (0x0A0070, d.tainted),
   (0x0A0084, pack [(ch.state.code, 0), flag ch.reseedPend 2, flag (s.onProvisional ch) 3, (ch.reqs.toNat, 16)]),
   (0x0A0088, ch.reseeds), (0x0A0090, d.draws)] ++
  pair 0x0A0068 (d.blocks + BitVec.ofNat 64 ((List.range 16).map s.openBlocks).sum)

/-! ### TL and CAL (Tables 7.9 to 7.11) -/

/-- Codes of TL_STS.STATE. -/
def TlState.code : TlState → Nat
  | .unset => 0
  | .locked => 1
  | .holdover => 2
  | .untrusted => 3

/-- TL_REFx_STS. -/
def Tref.sts (x : Tref) : Word :=
  pack [(x.cnt.toNat, 0), flag x.qualified 6, flag x.freqOk 7, (x.lastErr.toNat, 8), (x.quality.toNat, 12),
    (x.crcErr.toNat, 16)]

/-- The TL_ block. The host reads TL_NOW_HI as its last read of TL_NOW_LO latched it (R193). -/
def State.tlView (s : State) (who : Accessor) : List (Nat × Word) :=
  let t := s.tl
  let hi : Word := match who with | .manager => t.nowHi | _ => (t.ns >>> 32).setWidth 32
  [(0x0B0000, pack [(t.state.code, 0), flag s.timeUntrusted 2, flag t.stepped 3, flag t.sel 4, flag t.disagree 5,
     flag t.stepNeeded 6, flag t.residHigh 7]),
   (0x0B0008, t.ns.setWidth 32), (0x0B000C, hi), (0x0B0018, word (min 0xFFFFFFFF (s.boundAt t.ns))),
   (0x0B001C, t.resid), (0x0B0030, t.refA.sts), (0x0B0034, t.refB.sts), (0x0B0038, t.phase)] ++
  pair 0x0B0020 t.hold ++ pair 0x0B0028 t.untr

/-- The CAL_ block. -/
def State.calView (s : State) : List (Nat × Word) :=
  let n := (s.reg 0x0C0030).toNat
  [(0x0C0000, pack [(s.cal.entries.length, 0), flag s.timeUntrusted 17, flag (decide (s.now < s.cal.passTo)) 18]),
   (0x0C0028, word s.cal.held.length), (0x0C002C, s.cal.late),
   (0x0C0034, word (s.cal.entries.filter fun e => e.2.slice.toNat == n).length)]

/-! ### MK and SEAL (Tables 8.14 to 8.17) -/

/-- The MK_ block. -/
def State.mkView (s : State) : List (Nat × Word) :=
  let p := s.port s.selectedPort
  let up := (List.range 16).map fun i => flag ((s.port i).enable && (s.port i).lock) (16 + i)
  [(0x0D0000, pack ([(s.slotsHeld, 0), flag s.stk.hold 14, flag (s.rowsTo2.isNone && s.timeUntrusted) 15] ++ up)),
   (0x0D0064, pack [flag p.enable 0, flag p.restore 1]),
   (0x0D0068, p.mac.setWidth 32), (0x0D006C, (p.mac >>> 32).setWidth 32), (0x0D0070, p.orphan.setWidth 32),
   (0x0D0074, pack [flag p.lock 0, flag p.failed 1, flag p.steered 2, flag p.rxWait 3, (p.fifo.length, 8),
     (min 24 p.receipts.length, 16)]),
   (0x0D0078, p.acc), (0x0D007C, p.ref), (0x0D0080, p.drop), (0x0D0084, p.ovr), (0x0D0088, p.unmac),
   (0x0D008C, p.hold), (0x0D00A0, s.mkt.latMax)] ++ pair 0x0D0050 s.mkt.apply

/-- Pending seals of all markets that a test names. -/
def State.pendingSeals (s : State) (f : PendingSeal → Bool) : Nat :=
  (s.mkt.table.map fun e => (e.2.pending.filter f).length).sum

/-- The SEAL_ block. -/
def State.sealView (s : State) : List (Nat × Word) :=
  let m := s.mkt
  let n := s.pendingSeals fun p => p.ecdsa || p.pq
  let b := s.sealBuf (s.reg 0x0E0060).toNat
  [(0x0E0000, pack [(n, 0), flag (s.stk.hold && n != 0) 15, (s.pendingSeals PendingSeal.pq, 16)]),
   (0x0E000C, m.late), (0x0E0010, m.extended), (0x0E0014, m.maxLat),
   (0x0E006C, pack [(b.slots.toNat, 0), (b.head.toNat, 16)])] ++ pair 0x0E0004 m.issued ++ pair 0x0E0064 b.base

/-! ### STR (Table 12.11) -/

/-- The words of a staged rule or window, zero if it is not staged. -/
def Strainer.stagedWords (t : Strainer) (target : Nat) : List Word :=
  match t.staged.find? fun x => x.target == target with
  | some (.rule _ r) => r.words
  | some (.win _ w) => w.words
  | none => [0, 0, 0, 0]

/-- The STR_ block: the data registers read the selected entry, current or staged. -/
def State.strView (s : State) : List (Nat × Word) :=
  let t := s.str
  let rs := s.reg 0x0F0040
  let ri := (rs.extractLsb' 0 12).toNat
  let ws := s.reg 0x0F0060
  let wi := (ws.extractLsb' 8 6).toNat * 8 + (ws.extractLsb' 0 3).toNat
  let owner := match t.owner with | none => 0 | some .h => 1 | some .s => 2
  [(0x0F0000, pack [flag t.pending 0, flag t.draining 1, flag t.stalled 2, (t.waitFrames.toNat, 16)]),
   (0x0F0004, t.epoch), (0x0F0014, pack [(t.staged.length, 0), (owner, 9)])] ++
  run 0x0F0044 (if rs.getLsbD 31 then t.stagedWords ri else (sparseGet Rule.none t.rules ri).words) ++
  run 0x0F0064 (if ws.getLsbD 31 then t.stagedWords (0x1000 + wi) else (sparseGet Window.none t.wins wi).words)

/-! ### CUS (Tables 13.17 to 13.19) -/

/-- CUS_EVT of the head event. -/
def Custodians.head (c : Custodians) : Word :=
  match c.fifo with
  | [] => 0
  | e :: _ => pack [(e.station.toNat, 0), (1, 3), (e.kind.toNat, 4), (e.key.toNat, 8), (e.tick.toNat, 16)]

/-- Codes of CUS_STN_STS.CARD. -/
def CardState.code : CardState → Nat
  | .off => 0
  | .activating => 1
  | .active => 2
  | .fault => 3

/-- CUS_STN_STS. -/
def Station.sts (t : Station) : Word :=
  pack [flag t.present 0, flag (t.samples.headD false) 1, flag t.touch 2, (t.card.code, 3), flag t.classB 5,
    (t.cause.toNat, 6), (t.touchVal.toNat, 16)]

/-- CUS_STN_CTL. -/
def Station.ctl (t : Station) : Word :=
  pack [flag t.enable 0, flag t.auto 1, (t.duty.toNat, 4), (t.buzz.toNat, 8), (t.touchTh.toNat, 16)]

/-- CUS_APDU_STS. -/
def Station.apduSts (t : Station) : Word :=
  pack [(t.rLen.toNat, 0), flag t.busy 9, flag t.done 10, flag t.err 11, flag t.overflow 12]

/-- STEP of CUS_CER_STS. -/
def Part.step : Part → Nat
  | .c => 1
  | .g => 2
  | .q _ => 3
  | .e _ => 4
  | .v _ => 5
  | .x => 6
  | .p2 => 7

/-- NEED of the running part: M of a quorum, N of an enrolment. -/
def State.cerNeed (s : State) (c : Ceremony) : Nat :=
  let q := s.partQuorum c
  match c.parts with
  | .e _ :: _ => q.2.2.1
  | _ => q.2.1

/-- CUS_CER_STS.HAVE: the shares that the combiner holds in a quorum step, else the turns that are complete. -/
def State.cerHave (s : State) (c : Ceremony) : Nat :=
  match c.parts with
  | .q _ :: _ => s.cus.combiner.length
  | .v _ :: _ => s.cus.combiner.length
  | _ => (ofPart c.seen c.parts.length).length

/-- The CER_ and WIN_ registers, with the window that a level selects. -/
def State.cerView (s : State) (who : Accessor) : List (Nat × Word) :=
  let u := s.cus
  let sel := if who.isS then (s.reg 0x100090).toNat % 16 else u.winSelH.toNat
  let queued := u.requests.length
  let last : Word := pack [(u.lastOutcome.toNat, 0), (u.lastCer.toNat, 8)]
  let run_ : List (Nat × Word) := match u.running with
    | none => [(0x100080, pack [(queued, 9)]), (0x100084, 0), (0x100088, 0)]
    | some c =>
      let step := match c.parts with | p :: _ => p.step | [] => 0
      [(0x100080, pack [(c.request.cer.toNat, 0), (1, 8), (queued, 9), (min 15 (s.cerHave c), 13), (s.cerNeed c, 17),
         (step, 21), (c.request.owner.toNat, 24)]),
       (0x100084, c.request.id), (0x100088, c.request.code)]
  let win : List (Nat × Word) := match u.windows.find? fun e => e.1 == sel with
    | none => []
    | some (_, w) =>
      [(0x100094, pack [(1, 0), (w.admits.toNat, 1), (w.levels.toNat, 3), (w.owner.toNat, 8)]), (0x100098, w.handle),
       (0x10009C, w.budget)] ++ pair 0x1000A0 w.end_ ++ pair 0x1000A8 w.sliceMask
  run_ ++ [(0x10008C, last), (0x100090, word sel)] ++ win

/-- The rest of the CUS_ block, which S alone reads (R388). -/
def State.cusView (s : State) : List (Nat × Word) :=
  let u := s.cus
  let t := s.stn ((s.reg 0x100010).toNat % 8)
  let bits (f : Station → Bool) (p : Nat) : List (Nat × Nat) := (List.range 8).map fun i => flag (f (s.stn i)) (p + i)
  [(0x100000, pack (bits Station.present 0 ++ bits Station.touch 8 ++ [(u.fifo.length, 16), flag u.ovf 23])),
   (0x100004, u.head), (0x100014, t.ctl), (0x100018, t.sts), (0x10001C, t.apduLen.setWidth 32), (0x100020, t.apduSts)] ++
  run 0x100040 (t.show_.toList.map fun v => v.setWidth 32) ++ run 0x100100 (words 64 t.apduBuf)

/-! ### TMP and TRV (Tables 14.8, 14.9) -/

/-- The TMP_ block. TMP_VIN is a reading of the device's supply once the cycle of the reset is past (assumption 43). -/
def State.tmpView (s : State) : List (Nat × Word) :=
  let t := s.tamper
  let n := (s.reg 0x110020).toNat
  let x := s.src n
  let ena : DWord := (List.range 64).foldl (fun v i => if s.sourceOn i then v ||| (1#64 <<< i) else v) 0
  let st := if !s.sourceOn n then 2 else x.event.toNat
  let counting := s.modes.mode == .startup || s.modes.mode == .recovery || t.test.isSome
  [(0x110000, pack [flag counting 0, flag t.responding.isSome 1, (t.lastClass.toNat, 2), (t.lastSrc.toNat, 4),
     flag t.test.isSome 10]),
   (0x110004, pack [flag t.lock 0]),
   (0x110024, if reservedSource n then 0 else word ((s.baseClass n).code + 1)),
   (0x110028, pack [(st, 0), (min 3 (x.window.filter fun t => s.now ≤ t + countSpan).length, 2), (x.cause.toNat, 4)]),
   (0x11002C, x.count), (0x110030, pack [(t.temp0.toNat, 0), (t.temp1.toNat, 16)]),
   (0x110034, if s.now = s.modes.began then 0 else (Config.vinReading s.now).setWidth 32)] ++ pair 0x110008 ena ++
    pair 0x110010 s.fuses.off

/-- The octets of an evidence entry (Table 14.4). -/
def Evidence.bytes (e : Evidence) : Bytes := (evidenceRec e).payload

/-- The TRV_ block. -/
def State.trvView (s : State) : List (Nat × Word) :=
  let t := s.trivet
  let sel := (s.reg 0x120020).toNat
  let busy := s.eraserNow != .idle && s.eraserNow != .done
  let entry : Bytes := match t.evidence.find? fun e => e.1 == sel with | some e => e.2.bytes | none => []
  [(0x120000, pack [(t.lastMode.toNat, 0), (t.cap.toNat, 8), flag t.vbatLow 10, flag t.cold 11, flag busy 12,
     flag t.eraseFail 13, flag s.fuses.trvInit 14]),
   (0x120004, t.vbatMv.setWidth 32), (0x120018, t.erases),
   (0x12001C, pack [(t.eraseRow.toNat, 0), (t.eraseRepeats.toNat, 8)]), (0x120024, t.evCnt.setWidth 32)] ++
  pair 0x120008 t.flags ++ pair 0x120010 t.tick ++ run 0x120030 (words 4 entry)

/-! ### STK and AUD (Tables 15.10, 15.11) -/

/-- The STK_ block. SIDE_KIB counts whole KiB, a part of one as one (assumption 44). -/
def State.stkView (s : State) : List (Nat × Word) :=
  let t := s.stk
  let draining := !t.side.isEmpty && !t.hold && !t.frozen
  [(0x130000, pack [flag t.hold 0, flag t.frozen 1, flag draining 2, flag t.noKey 3, ((t.sideUsed + 1023) / 1024, 8)]),
   (0x130020, word t.freeSlots), (0x130024, t.drop), (0x130028, t.holds),
   (0x13002C, word (t.evidence.map Placed.slots).sum)] ++
  pair 0x130008 t.nextSeq ++ pair 0x130010 t.ack ++ pair 0x130018 t.exp ++ run 0x130040 (words 8 t.chain) ++
  run 0x130080 (words 16 (t.slotBytes (s.reg 0x130060).toNat))

/-- The AUD_ block. -/
def State.audView (s : State) : List (Nat × Word) :=
  let a := s.aud
  [(0x140000, pack [flag a.lockA 0, flag a.lockB 1, flag a.active 2, flag a.peer 3, flag (!a.rxq.isEmpty) 4,
     (a.rxq.length, 8)]),
   (0x140028, a.tx), (0x14002C, a.rx), (0x140030, a.rxBad), (0x140034, a.retx), (0x140038, a.switches)] ++
  pair 0x140020 a.reqSeq ++ run 0x1400E0 (words 8 a.nonce)

/-! ### Reading -/

/-- What the registers of a block read as to a reader, but for those of the register file. -/
def State.blockView (s : State) (who : Accessor) (block : Nat) : List (Nat × Word) :=
  match block with
  | 0 => s.modView
  | 1 => s.pwrView
  | 2 => s.slcView
  | 3 => s.rngView
  | 4 => s.ldlView
  | 5 => s.wskView
  | 6 => s.ktView
  | 7 => s.dgView
  | 8 => s.cpView
  | 9 => s.bnView
  | 10 => s.cldView
  | 11 => s.tlView who
  | 12 => s.calView
  | 13 => s.mkView
  | 14 => s.sealView
  | 15 => s.strView
  | 16 => s.cerView who ++ (if who.isS then s.cusView else [])
  | 17 => s.tmpView
  | 18 => s.trvView
  | 19 => s.stkView
  | 20 => s.audView
  | _ => []

/-- A register that an N context has a copy of (R208, R244). -/
def copiedReg (a : Nat) : Bool :=
  (decide (0x0C0004 ≤ a) && decide (a ≤ 0x0C0024)) || (decide (0x0D0004 ≤ a) && decide (a ≤ 0x0D004C))

/-- A register that N contexts read besides those of the MOD_ block (R308). -/
def s2Reg (a : Nat) : Bool := decide (0x020180 ≤ a) && decide (a ≤ 0x02018C)

/-- An accessor may read a register (the access rules of the blocks' own chapters). -/
def Accessor.reads (who : Accessor) (a : Nat) : Bool :=
  match who with
  | .s => true
  | .h _ => true
  | .manager => true
  | .host _ => false
  | .n _ => decide (a < 0x010000) || s2Reg a || copiedReg a

/-- What a register reads as to a reader whom its block admits. An SRO register reads zero at H (R18). -/
def State.readReg (s : State) (who : Accessor) (a : Nat) : Word :=
  if copiedReg a then s.reg (who.copy + a)
  else match (s.blockView who (a / 0x10000)).find? fun e => e.1 == a with
    | some e => e.2
    | none => if a / 0x10000 = 16 ∧ !who.isS then 0 else s.reg a

/-- What a read does besides: the host's read of TL_NOW_LO latches TL_NOW_HI (R193). -/
def State.noteRead (s : State) (who : Accessor) (a : Nat) : State :=
  match who with
  | .manager => if a = 0x0B0008 then { s with tl := { s.tl with nowHi := (s.tl.ns >>> 32).setWidth 32 } } else s
  | _ => s

end Sys2Proof.Machine
end

