-- ==== Sys2Proof/Machine/RegWrites.lean ====
section
/-! DEFINITION. What a write of each register does and who may make it (R17, R18, R491 and the register sections of every
chapter). -/

namespace Sys2Proof.Machine

/-! ### Registers that the register file holds -/

/-- Bits that an RW field of a register of the register file takes: first and last offset, mask. -/
def plainRegs : List (Nat × Nat × Word) := [
  (0x000034, 0x000034, 0x3#32),
  (0x01000C, 0x01000C, 0xFFFFFFFF#32), (0x010028, 0x010028, 0x1F#32), (0x010044, 0x010044, 0x7#32),
  (0x020000, 0x020000, 0x3F#32), (0x020010, 0x020010, 0xF#32), (0x020054, 0x020054, 0x1F#32),
  (0x020180, 0x020180, 0x3F3F#32),
  (0x030000, 0x030000, 0xF3F#32), (0x040000, 0x040000, 0x3F#32),
  (0x050008, 0x050008, 0xFF#32), (0x050040, 0x050040, 0x33F#32), (0x050080, 0x050080, 0x3FF#32),
  (0x0500C0, 0x0500C0, 0xF#32),
  (0x060010, 0x060010, 0x1F#32), (0x060020, 0x06003C, 0xFFFFFFFF#32), (0x060080, 0x060080, 0xFF#32),
  (0x0600C0, 0x0600C0, 0x3F#32), (0x060100, 0x06011C, 0xFFFFFFFF#32)] ++ [
  (0x070040, 0x070040, 0xFF#32), (0x080040, 0x080040, 0x7F#32), (0x080064, 0x080064, 0x3#32),
  (0x090040, 0x090040, 0x3F#32), (0x090064, 0x090064, 0x7#32),
  (0x0A0040, 0x0A0040, 0xF#32), (0x0A0050, 0x0A0050, 0xFF#32), (0x0A0080, 0x0A0080, 0x3F#32),
  (0x0A00A4, 0x0A00A4, 0x3F#32),
  (0x0B0044, 0x0B0044, 0x7F#32),
  (0x0C000C, 0x0C000C, 0xFFFF#32), (0x0C0010, 0x0C0024, 0xFFFFFFFF#32), (0x0C0030, 0x0C0030, 0x3F#32),
  (0x0C0044, 0x0C0044, 0x7#32),
  (0x0D000C, 0x0D000C, 0x1FFFF#32), (0x0D0010, 0x0D004C, 0xFFFFFFFF#32), (0x0D0060, 0x0D0060, 0xF#32),
  (0x0D0094, 0x0D0094, 0x7F#32), (0x0E0060, 0x0E0060, 0x3F#32), (0x0E0094, 0x0E0094, 0xF#32)] ++ [
  (0x0F000C, 0x0F000C, 0xFFFFFFFF#32), (0x0F0040, 0x0F0040, 0x80000FFF#32), (0x0F0044, 0x0F0050, 0xFFFFFFFF#32),
  (0x0F0060, 0x0F0060, 0x80003F07#32), (0x0F0064, 0x0F0070, 0xFFFFFFFF#32), (0x0F00A4, 0x0F00A4, 0xF#32),
  (0x100010, 0x100010, 0x7#32), (0x1000C4, 0x1000C4, 0xF#32),
  (0x110020, 0x110020, 0x3F#32), (0x110054, 0x110054, 0x3F#32), (0x120020, 0x120020, 0xF#32),
  (0x130060, 0x130060, 0x1FFFF#32), (0x1300C4, 0x1300C4, 0x3F#32), (0x1400C4, 0x1400C4, 0x1F#32)]

/-- The W1C bits of a register of the register file. -/
def clearRegs : List (Nat × Word) := [
  (0x000030, 0x3#32), (0x010040, 0x7#32), (0x020034, 0xFF#32), (0x020050, 0x1F#32), (0x020058, 0xFFFFFFFF#32),
  (0x02005C, 0xFFFFFFFF#32), (0x020060, 0xFFFFFFFF#32), (0x020064, 0xFFFFFFFF#32), (0x050004, 0xFF#32),
  (0x06000C, 0x1F#32), (0x080060, 0x3#32), (0x090060, 0x7#32), (0x0A00A0, 0x3F#32), (0x0B0040, 0x7F#32),
  (0x0C0040, 0x7#32), (0x0D0090, 0x7F#32), (0x0E0090, 0xF#32), (0x0F0080, 0x3#32), (0x0F00A0, 0xF#32),
  (0x1000C0, 0xF#32), (0x110050, 0x3F#32), (0x1300C0, 0x3F#32), (0x1400C0, 0x1F#32)]

/-- The RW mask of a register: zero for one without RW fields. -/
def plainMask (a : Nat) : Word :=
  match plainRegs.find? fun e => decide (e.1 ≤ a) && decide (a ≤ e.2.1) with
  | some e => e.2.2
  | none => 0

/-- Write a register of the register file: W1C bits clear, RW fields take the value, all else ignores the write. -/
def State.writeStored (s : State) (a : Nat) (v : Word) : State :=
  match clearRegs.find? fun e => e.1 == a with
  | some e => s.setReg a (s.reg a &&& ~~~(v &&& e.2))
  | none => if plainMask a = 0 then s else s.setReg a (v &&& plainMask a)

/-! ### Registers whose write does more -/

/-- The outcome of a self-test that no command carries: which engines fail, and whether a shared instance does, is free
(assumption 45). -/
def State.freeSelfTest (s : State) : SelfTest × State :=
  let f := s.freeValue 385
  let bad (c : EngClass) (base : Nat) : List (EngClass × Byte) :=
    (enginesWhere c fun n => f.1.getLsbD (base + n)).map fun n => (c, BitVec.ofNat 8 n)
  ({ failed := bad .pool 0 ++ bad .lane 160 ++ bad .cipher 192 ++ bad .bn 320, sram := f.1.getLsbD 384 }, f.2)

/-- MOD_RST.DEVICE: a device reset (R449). -/
def State.writeRst (s : State) (v : Word) : State :=
  if v.getLsbD 0 then s.freeSelfTest.2.enterStartup .device 0 s.freeSelfTest.1 else s

/-- MOD_CTL.FATAL (R459). -/
def State.writeFatal (s : State) (v : Word) : State :=
  if v.getLsbD 0 then s.raiseFatal causeKernelRequest 0 else s

/-- MOD_START_CFG: values above 600 s are ignored, and MOD_WMARK.LOCK locks it (R446, R459). -/
def State.writeStartCfg (s : State) (v : Word) : State :=
  let t := v.setWidth 10
  if s.worlds.wmarkLock || decide (600 < t.toNat) then s else { s with modes := { s.modes with tlWait := t } }

/-- MOD_SW_CTL: KICK, READY, RESTART (R304 to R306). -/
def State.writeSwCtl (s : State) (v : Word) : State :=
  let s := if v.getLsbD 0 then s.swKick else s
  let s := if v.getLsbD 1 then s.swReady else s
  if v.getLsbD 2 then s.triggerRestart 3 else s

/-- PWR_CMD (Table 16.12). -/
def State.writePwrCmd (s : State) (v : Word) : State :=
  let op := (v.setWidth 2 : BitVec 2)
  if op = 1 then s.powerCommit else if op = 2 then s.powerDiscard else s

/-- PWR_TGT and PWR_DEPTH: ignored while a commit is pending (R460). -/
def State.writeTarget (s : State) (a : Nat) (v : Word) : State :=
  if s.power.pending then s else s.setReg a (v &&& 0x03FFFFFF#32)

/-- PWR_HOLD (R453). -/
def State.writeHold (s : State) (v : Word) : State :=
  ({ s with power := { s.power with hold := v.extractLsb 25 0 } }).deferredCuts.powerDone

/-- SLC_ERR (Table 11.16). -/
def State.writeSlcErr (s : State) (v : Word) : State :=
  let x := s.slc s.slcSel
  s.setSlc s.slcSel { x with err := x.err &&& ~~~(v.setWidth 8 &&& 0x3F#8) }

/-- LDL_ADM_BASE (R336). -/
def State.writeAdmBase (s : State) (v : Word) : State :=
  { s with worlds := { s.worlds with admBase := v.setWidth 8 } }

/-- KT_CMD.GO: the command block of KT_CB0 to KT_CB7 is submitted (R66, Table 2.16). The octets that an IMG_LOAD reads in
host memory are free (assumption 46). -/
def State.writeKtCmd (s : State) (who : Accessor) (v : Word) : State :=
  if !v.getLsbD 0 then s
  else
    let b := s.regBytes 0x060020 8
    let h : Bytes × State :=
      if octet 0 b = 0x11 ∧ !s.ktBusy then s.freeBytes (min (fieldLE 64 16 8 b : DWord).toNat 50331728) else ([], s)
    let u : Submission := {
      issuer := if who.isS then .s else .h, charge := none, origin := .regs, block := b ++ zeros 16, source := [],
      host := h.1 }
    h.2.ktCommand (octet 0 b) u

/-- TL_CFG: LOCK locks QMAX (Table 7.9). -/
def State.writeTlCfg (s : State) (v : Word) : State :=
  let old := s.tlCfg
  let q : Word := if old.getLsbD 31 then old &&& 0x3C#32 else v &&& 0x3C#32
  s.setReg 0x0B0004 ((v &&& 0x43#32) ||| q ||| ((old ||| v) &&& 0x80000000#32))

/-- TL_EPOCH: locked by TL_CFG.LOCK (R192). -/
def State.writeEpoch (s : State) (a : Nat) (v : Word) : State :=
  if s.tlCfg.getLsbD 31 then s else s.setReg a (if a = 0x0B0014 then v &&& 0xFFFF#32 else v)

/-- CAL_CMD (Table 7.11). -/
def State.writeCalCmd (s : State) (who : Accessor) (v : Word) : State :=
  let op := (v.setWidth 2 : BitVec 2)
  if op = 1 then s.calCommandAdd who
  else if op = 2 then s.calCommandCancel who
  else if op = 3 then s.calCommandRead who
  else s

/-- MK_CMD (Table 8.14). -/
def State.writeMkCmd (s : State) (who : Accessor) (v : Word) : State :=
  let op := (v.setWidth 3 : BitVec 3)
  if 1 ≤ op.toNat ∧ op.toNat ≤ 4 then s.marketCommand who op else s

/-- MK_PORT_CTL: S writes ENABLE, S and H write RESTORE (R244). -/
def State.writePortCtl (s : State) (who : Accessor) (v : Word) : State :=
  (if who.isS then s.writeEnable (v.getLsbD 0) else s).writeRestore (v.getLsbD 1)

/-- MK_PORT_MAC and MK_PORT_ORPHAN: locked by MK_LOCK (R244). -/
def State.writePortCfg (s : State) (f : Port → Port) : State :=
  if (s.reg 0x0D00A4).getLsbD 0 then s else s.setPort s.selectedPort (f (s.port s.selectedPort))

/-- Set a W1S bit of a register of the register file. -/
def State.setLock (s : State) (a : Nat) (v : Word) : State := s.setReg a (s.reg a ||| (v &&& 1#32))

/-- The SEAL_SLC_ registers of the selected slice (Table 8.17). -/
def State.writeSealBuf (s : State) (f : SealBuf → SealBuf) : State :=
  let n := (s.reg 0x0E0060).toNat
  s.setSealBuf n (f (s.sealBuf n))

/-- STR_CMD (Table 12.11). -/
def State.writeStrCmd (s : State) (who : Accessor) (v : Word) : State :=
  let op := (v.setWidth 3 : BitVec 3)
  if op = 1 then s.stageRuleCmd who
  else if op = 2 then s.stageWinCmd who
  else if op = 3 then s.strCommitCmd
  else if op = 4 then s.strDiscardCmd
  else s

/-- The station that CUS_STN_SEL selects. -/
def State.stnSel (s : State) : Nat := (s.reg 0x100010).toNat % 8

/-- CUS_CTL (Table 13.17). -/
def State.writeCusCtl (s : State) (v : Word) : State :=
  let s := if v.getLsbD 0 then s.popStn else s
  if v.getLsbD 1 then { s with cus := { s.cus with ovf := false } } else s

/-- CUS_STN_CTL (Table 13.17): the fields, then ACTIVATE and DEACTIVATE. -/
def State.writeStnCtl (s : State) (v : Word) : State :=
  let n := s.stnSel
  let s := s.setStn n { s.stn n with
    enable := v.getLsbD 0, auto := v.getLsbD 1, duty := v.extractLsb' 4 4, buzz := v.extractLsb' 8 8,
    touchTh := v.extractLsb' 16 8 }
  let s := if v.getLsbD 2 then s.activateCard n else s
  if v.getLsbD 3 then s.deactivateCard n else s

/-- CUS_APDU_CTL (R364). -/
def State.writeApduCtl (s : State) (v : Word) : State :=
  let n := s.stnSel
  let s := s.setStn n { s.stn n with apduLen := v.setWidth 9 }
  if v.getLsbD 9 then s.sendApdu n else s

/-- CUS_SHOWp of the selected station (R368). -/
def State.writeShow (s : State) (p : Nat) (v : Word) : State :=
  let n := s.stnSel
  let t := s.stn n
  s.setStn n { t with show_ := t.show_.set! p (v.setWidth 15) }

/-- CUS_APDU_BUFi of the selected station. -/
def State.writeApduBuf (s : State) (i : Nat) (v : Word) : State :=
  let n := s.stnSel
  let t := s.stn n
  let b := fit 256 t.apduBuf
  s.setStn n { t with apduBuf := b.take (4 * i) ++ le 4 v ++ b.drop (4 * i + 4) }

/-- CUS_WIN_SEL: S and the H level each write their own copy (R388). -/
def State.writeWinSel (s : State) (who : Accessor) (v : Word) : State :=
  if who.isS then s.setReg 0x100090 (v &&& 0xF#32) else { s with cus := { s.cus with winSelH := v.setWidth 4 } }

/-- TMP_LOCK (R393). -/
def State.writeTmpLock (s : State) (v : Word) : State :=
  { s with tamper := { s.tamper with lock := s.tamper.lock || v.getLsbD 0 } }

/-- STK_CTL (R428). -/
def State.writeStkCtl (s : State) (v : Word) : State :=
  let s := if v.getLsbD 0 then s.freeze else s
  if v.getLsbD 1 then s.thawDrain false else s

/-- STK_AKEY: locked by STK_LOCK (R424). -/
def State.writeAkey (s : State) (v : Word) : State :=
  if (s.reg 0x1300CC).getLsbD 0 then s else s.setReg 0x1300C8 v

/-- AUD_CFG: MIN_SEV and PREF, then ENABLE (Table 15.11). -/
def State.writeAudCfg (s : State) (v : Word) : State :=
  if s.audLocked then s
  else
    let s := s.setReg audCfg ((s.reg audCfg &&& 1#32) ||| (v &&& 0xE#32))
    if v.getLsbD 0 then s.enableAudit else s.disableAudit

/-- The other RWL registers of the AUD_ block; a write of 0 to AUD_ACK_TO is ignored. -/
def State.writeAud (s : State) (a : Nat) (v : Word) : State :=
  let w := if a = 0x14000C ∨ a = 0x140014 ∨ a = 0x140018 then v &&& 0xFFFF#32 else v
  if s.audLocked || (a == 0x140018 && w == 0) then s else s.setReg a w

/-- Registers of a range. -/
def within (lo hi a : Nat) : Bool := decide (lo ≤ a) && decide (a ≤ hi)

/-- A write that its issuer may make, in the blocks of the modes, the power, the slices, the rings and the Ladle. -/
def State.writeLow (s : State) (a : Nat) (v : Word) : State :=
  if a = 0x000008 then s.writeRst v
  else if a = 0x00000C then s.writeFatal v
  else if a = 0x000014 then s.writeStartCfg v
  else if a = 0x000100 then s.writeWmark v
  else if a = 0x000108 then s.writeSwCtl v
  else if a = 0x010008 then s.writePwrCmd v
  else if a = 0x010014 ∨ a = 0x010018 then s.writeTarget a v
  else if a = 0x01001C then s.writeHold v
  else if a = 0x020004 then s.sliceCtl s.slcSel v
  else if a = 0x02000C then s.writeSlcErr v
  else if a = 0x020014 then s.writeBinding v
  else if a = 0x020020 then s.writeManager v
  else if a = 0x020184 then s.writeS2 v
  else if a = 0x040004 then s.writeSplit v
  else if a = 0x040008 then s.writeAdmBase v
  else s.writeStored a v

/-- The same for the key tree, the timeline, the calendar, the markets, the seal unit and Strainer. -/
def State.writeMid (s : State) (who : Accessor) (a : Nat) (v : Word) : State :=
  if a = 0x060004 then s.writeKtCmd who v
  else if a = 0x060040 then s.loadTable v
  else if a = 0x0B0004 then s.writeTlCfg v
  else if a = 0x0B0010 ∨ a = 0x0B0014 then s.writeEpoch a v
  else if a = 0x0C0004 then s.writeCalCmd who v
  else if a = 0x0D0004 then s.writeMkCmd who v
  else if copiedReg a then
    (if plainMask a = 0 then s else s.setReg (who.copy + a) (v &&& plainMask a))
  else if a = 0x0D0064 then s.writePortCtl who v
  else if a = 0x0D0068 then s.writePortCfg fun x => { x with mac := x.mac.extractLsb' 32 16 ++ v }
  else if a = 0x0D006C then s.writePortCfg fun x => { x with mac := (v.setWidth 16 : Half) ++ x.mac.setWidth 32 }
  else if a = 0x0D0070 then s.writePortCfg fun x => { x with orphan := v.setWidth 17 }
  else if a = 0x0D00A4 then s.setLock a v
  else if a = 0x0E0064 then
    s.writeSealBuf fun b => { b with base := b.base.extractLsb' 32 32 ++ (v &&& 0xFFFFF000#32) }
  else if a = 0x0E0068 then s.writeSealBuf fun b => { b with base := v ++ b.base.setWidth 32 }
  else if a = 0x0E006C then s.writeSealBuf fun b => { b with slots := v.setWidth 16 }
  else if a = 0x0F0008 then s.writeStrCmd who v
  else s.writeStored a v

/-- The same for the custodian stations, the tamper monitor, Trivet, Stockpot and the audit link. -/
def State.writeHigh (s : State) (who : Accessor) (a : Nat) (v : Word) : State :=
  if a = 0x100008 then s.writeCusCtl v
  else if a = 0x100014 then s.writeStnCtl v
  else if a = 0x10001C then s.writeApduCtl v
  else if within 0x100040 0x100060 a then s.writeShow ((a - 0x100040) / 4) v
  else if a = 0x100090 then s.writeWinSel who v
  else if within 0x100100 0x1001FC a then s.writeApduBuf ((a - 0x100100) / 4) v
  else if a = 0x110004 then s.writeTmpLock v
  else if a = 0x110024 then s.writeClass v
  else if a = 0x110038 then s.startTest v
  else if a = 0x130004 then s.writeStkCtl v
  else if a = 0x1300C8 then s.writeAkey v
  else if a = 0x1300CC ∨ a = 0x14001C then s.setLock a v
  else if a = 0x140004 then s.writeAudCfg v
  else if within 0x140008 0x140018 a || within 0x140040 0x1400A0 a then s.writeAud a v
  else s.writeStored a v

/-- A write that its issuer may make. -/
def State.writeReg (s : State) (who : Accessor) (a : Nat) (v : Word) : State :=
  if a < 0x050000 then s.writeLow a v
  else if a < 0x100000 then s.writeMid who a v
  else s.writeHigh who a v

/-! ### Writers (R491) -/

/-- Registers that only S writes, in blocks that H writes too. -/
def secureRegs : List Nat := [
  0x00000C, 0x000014, 0x000100, 0x000108, 0x01001C, 0x020020, 0x040008, 0x0B0004, 0x0B0010, 0x0B0014, 0x0B0044,
  0x0C0044, 0x0D0068, 0x0D006C, 0x0D0070, 0x0D00A4, 0x110004, 0x110024, 0x110038, 0x110050, 0x110054, 0x1300C8, 0x1300CC]

/-- Registers of the blocks 12 and 13 that N contexts do not write: those that the chapter names for S and H alone. -/
def noNormal : List Nat := [0x0C0030, 0x0C0040, 0x0D0060, 0x0D0064, 0x0D0090, 0x0D0094]

/-- An issuer writes a register (R491). A register without writable fields is written, to no effect, by every writer of
its block. -/
def State.mayWrite (s : State) (who : Accessor) (a : Nat) : Bool :=
  let block := a / 0x10000
  let secure := secureRegs.contains a || block == 7 || block == 8 || block == 9 || block == 10 || block == 20 ||
    (block == 16 && !(decide (0x100080 ≤ a) && decide (a ≤ 0x1000AC)))
  if a = 0x000008 then s.mayReset who
  else match who with
    | .s => true
    | .n _ => (block == 12 || block == 13) && !secure && !noNormal.contains a
    | .host _ => false
    | _ => !secure

/-- A register write by an issuer, performed or refused. -/
def State.regWrite (s : State) (who : Accessor) (a : Nat) (v : Word) : State :=
  s.writeBy (s.mayWrite who a) who a fun s => s.writeReg who a v

/-- A host request that is not performed is logged with its kind: 0 UNASSIGNED, 1 WIDTH, 2 STRAINER (R311). No core
spells such an address. -/
def State.hostOnly (s : State) (who : Accessor) (bit addr : Nat) : State :=
  match who with
  | .manager => s.hostFault bit (BitVec.ofNat 64 addr) (s.pasidOf who) true true none
  | .host _ => s.hostFault bit (BitVec.ofNat 64 addr) (s.pasidOf who) true true none
  | _ => s

/-- REGISTER_WRITE (R491): a write that reaches the register ring, of any register of the 21 blocks. -/
def execRegisterWrite (who : Accessor) (addr : BitVec 26) (value : Word) (s : State) : Out :=
  s.whilePowered fun s =>
    let a := addr.toNat
    if a % 4 ≠ 0 then s.hostOnly who 1 a
    else if 0x150000 ≤ a then s.hostOnly who 0 a
    else s.regWrite who a value

end Sys2Proof.Machine
end

