-- ==== Sys2Proof/Machine/PackageCommands.lean ====
section
/-! DEFINITION. The meanings of the package's events (17): MGMT, the test access port, the I/O rails, the SIGNAL outputs
(R28, R473, R482 to R485). -/

namespace Sys2Proof.Machine

/-- Change the package. -/
def State.setPkg (s : State) (p : Package) : State := { s with pkg := p }

/-! ### MGMT (R482, R483) -/

/-- The static address from which SETDASA assigns (R482). -/
abbrev mgmtStatic : BitVec 7 := 0x29

/-- ENTDAA, or SETDASA from the static address, assigns a dynamic address. -/
def execMgmtDynamicAddress (setdasa : Bool) (static_ addr : BitVec 7) (s : State) : Out :=
  s.whilePowered fun s =>
    if setdasa && static_ != mgmtStatic then s else s.setPkg { s.pkg with mgmtAddr := some addr }

/-- A private write, which reaches a target that has its address: the first two octets set the mirror address; octets
beyond them are not performed, and the write is counted. -/
def execMgmtPrivateWrite (bytes : Bytes) (s : State) : Out :=
  s.whilePowered fun s =>
    let p := s.pkg
    if p.mgmtAddr.isNone ∨ bytes.length < 2 then s
    else s.setPkg { p with
      mirror := octet 0 bytes ++ octet 1 bytes,
      mirrorErrors := if 2 < bytes.length then p.mirrorErrors + 1 else p.mirrorErrors }

/-- The mirror (Table 17.14). -/
def State.mirrorWord (s : State) : Word :=
  let a := s.pkg.mirror.toNat
  if a = 0 then s.modState
  else if a = 4 then s.swStatus
  else if a = 8 then s.readReg .s 0x110030
  else if a = 12 then s.powerStatus
  else if a = 16 then s.pkg.mirrorErrors
  else 0

/-- A private read returns the mirrored register, and the address advances by 4. -/
def execMgmtPrivateRead (s : State) : Out :=
  s.whilePowered fun s =>
    if s.pkg.mgmtAddr.isNone then s
    else s.setPkg { s.pkg with mgmtData := s.mirrorWord, mirror := s.pkg.mirror + 4 }

/-! ### The test access port (R484) -/

/-- The instruction register that a code leaves: 0 BYPASS, 1 IDCODE, 2 SAMPLE/PRELOAD, 3 EXTEST. -/
def tapCode (i : DebugCode) : BitVec 2 :=
  match i with
  | .bypass => 0
  | .idcode => 1
  | .sample => 2
  | .extest => 3
  | .other _ => 0

/-- What the instruction register acts as: EXTEST acts as BYPASS while any owner is LIVE. -/
def State.tapActs (s : State) : BitVec 2 :=
  if s.pkg.debug = 3 ∧ s.trivet.owners.any (fun o => o.2.state == .live) then 0 else s.pkg.debug

/-- IDCODE. -/
def idcode : Word := 0x2#4 ++ 0x6496#16 ++ Config.jep106 ++ 1#1

/-- An instruction is shifted in. -/
def execDebugTapInstruction (i : DebugCode) (s : State) : Out :=
  s.whilePowered fun s => s.setPkg { s.pkg with debug := tapCode i }

/-! ### I/O rails (R473) -/

/-- Close or open the switch of a rail. -/
def Package.rail (p : Package) (vo33 on : Bool) : Package :=
  if vo33 then { p with vo33 := on } else { p with vo18 := on }

/-- A rail's switch is closed and the device has power: both outputs are off in Dormant. -/
def State.railOn (s : State) (vo33 : Bool) : Bool := s.powered && (if vo33 then s.pkg.vo33 else s.pkg.vo18)

/-- An overload opens the switch. -/
def execIoRailOverload (vo33 : Bool) (s : State) : Out :=
  s.whilePowered fun s =>
    if s.railOn vo33 then (s.setPkg (s.pkg.rail vo33 false)).logEvent 7 1 1 sevNotice vo33.toNat 0 0 else s

/-- The switch retries. -/
def execIoRailRetry (vo33 : Bool) (s : State) : Out :=
  s.whilePowered fun s => s.setPkg (s.pkg.rail vo33 true)

/-! ### SIGNAL outputs (Table 17.16) -/

/-- 500 ms have passed: SIGNAL7 toggles while KSTATE is RUNNING, and is inactive otherwise. -/
def execHeartbeatToggle (s : State) : Out :=
  s.whilePowered fun s =>
    s.setPkg { s.pkg with heartbeat := s.worlds.kstate == .running && !s.pkg.heartbeat }

/-- SIGNAL1 is active from a reset until the rails are good, at most 2 ms later (R452). -/
def State.hostReset (s : State) : Bool :=
  s.modes.mode == .startup && decide (s.now - s.modes.began < min 3000000 (Config.railsGood s.modes.began))

/-- A SIGNAL output is active. In Dormant all but SIGNAL0 are released (R485). -/
def State.output (s : State) (i : Nat) : Bool :=
  let on := s.powered
  if i = 0 then s.trivet.flags != 0 || s.tamper.responding == some .e || s.tamper.responding == some .h
  else if i = 1 then on && s.hostReset
  else if i = 2 then s.modes.mode == .service
  else if i = 3 then on && s.stk.hold
  else if i = 4 then on && s.timeUntrusted
  else if i = 5 then s.modes.mode == .recovery
  else if i = 6 then s.modes.mode == .erased
  else if i = 7 then on && s.worlds.kstate == .running && s.pkg.heartbeat
  else false

end Sys2Proof.Machine
end

