-- ==== Sys2Proof/Machine/SpecialRegs.lean ====
section
/-! DEFINITION. Special registers: SRR, SRW, SRR64, SRW64 and the core-local block (R255 to R258, R269). -/

namespace Sys2Proof.Machine

/-! ### The core-local block (Tables 9.4 to 9.6, 9.10) -/

/-- CORE_CTX_STS.STATE. -/
def CtxState.code : CtxState → Nat
  | .idle => 0
  | .ready => 1
  | .running => 2
  | .waiting => 3
  | .faulted => 4
  | .halted => 5

/-- CORE_CTX_STS.WAIT. -/
def WaitFor.code : WaitFor → Nat
  | .none => 0
  | .tlwait _ => 1
  | .jqwait _ _ _ => 2
  | .evwait _ _ => 3
  | .memory => 4
  | .special => 5
  | .admission => 5
  | .dcache => 6

/-- CORE_JQ_CFG: at N, CHARGE reads the bound slice (Table 9.6). -/
def Context.queueCfg (c : Context) (q : BitVec 2) : Word :=
  let x := c.queue q
  pack [(x.sizeLog2.toNat, 0), flag x.enable 4, ((if c.level = .n then c.slice else x.charge).toNat, 8)]

/-- A queue register at an offset of its 0x20 octets. -/
def Context.queueReg (c : Context) (q : BitVec 2) (off : Nat) : Word :=
  let x := c.queue q
  if off = 0x00 then x.base
  else if off = 0x04 then x.cbase
  else if off = 0x08 then c.queueCfg q
  else if off = 0x0C then x.tail
  else if off = 0x10 then x.chead
  else if off = 0x14 then x.cdone
  else 0

/-- What a core-local register of a context reads as. -/
def State.coreReg (s : State) (n off : Nat) : Word :=
  let c := s.ctx n
  let e := sparseGet EventQueue.empty s.worlds.queues c.queueKey
  let cyc : DWord := BitVec.ofNat 64 (s.now - s.modes.began)
  let t := s.ctx c.sel.toNat
  if off = 0x000 then
    pack [(n, 0), (c.level.code, 8), (if c.level = .n then c.slice.toNat else 0, 10)]
  else if off = 0x004 then cyc.setWidth 32
  else if off = 0x008 then (cyc >>> 32).setWidth 32
  else if off = 0x00C then c.retired
  else if off = 0x010 then c.scratch0
  else if off = 0x014 then c.scratch1
  else if off = 0x018 then word c.cached
  else if off = 0x01C then pack [(e.events.length, 0), (e.dropped.toNat, 16)]
  else if within 0x020 0x09C off then c.queueReg (BitVec.ofNat 2 ((off - 0x20) / 0x20)) ((off - 0x20) % 0x20)
  else if off = 0x100 then c.sel.setWidth 32
  else if off = 0x104 then pack [(t.ctlLevel.code, 8), (t.ctlSlice.toNat, 10)]
  else if off = 0x108 then pack [(t.state.code, 0), (t.wait.code, 3)]
  else if off = 0x10C then t.pc
  else if off = 0x110 then t.cause.setWidth 32
  else if off = 0x114 then t.tval
  else 0

/-- A write of CORE_JQ_CFG (R258, Table 9.6). -/
def Queue.writeCfg (x : Queue) (normal : Bool) (v : Word) : Queue :=
  let size : BitVec 4 := v.setWidth 4
  let x := if x.enable || normal then x else { x with charge := v.extractLsb' 8 6 }
  if x.enable then (if !v.getLsbD 4 && x.tail == x.cdone then { x with enable := false } else x)
  else if v.getLsbD 4 && decide (2 ≤ size.toNat) && decide (size.toNat ≤ 8) then
    { x with sizeLog2 := size, enable := true, tail := 0, chead := 0, cdone := 0, openAt := none }
  else { x with sizeLog2 := size }

/-- A write of a queue register. -/
def Queue.writeReg (x : Queue) (normal : Bool) (off : Nat) (v : Word) : Queue :=
  if off = 0x00 then (if x.enable then x else { x with base := v &&& 0xFFFFFFC0#32 })
  else if off = 0x04 then (if x.enable then x else { x with cbase := v &&& 0xFFFFFFF0#32 })
  else if off = 0x08 then x.writeCfg normal v
  else if off = 0x10 then { x with chead := v }
  else x

/-- The level that two bits name. -/
def levelOf (v : BitVec 2) : Option Level :=
  if v = 0 then some .n else if v = 1 then some .h else if v = 2 then some .s else none

/-- CORE_CTX_CTL: LEVEL while IDLE, and other than N by S alone; SLICE; then the command (Table 9.10). -/
def State.writeCtxCtl (s : State) (by_ : Level) (t : Nat) (v : Word) : State :=
  let x := s.ctx t
  let l := match levelOf (v.extractLsb' 8 2) with
    | some l => if x.state == .idle && (by_ == .s || l == .n) then l else x.ctlLevel
    | none => x.ctlLevel
  let s := s.setCtx t { x with ctlLevel := l, ctlSlice := v.extractLsb' 10 6 }
  let cmd := (v.setWidth 2 : BitVec 2)
  if cmd = 1 then s.ctxStart t else if cmd = 2 then s.ctxResume t else if cmd = 3 then s.ctxReset t else s

/-- CORE_CTX_PC: writable while IDLE, HALTED or FAULTED; a PC is a multiple of 4 (R247, R269). -/
def State.writeCtxPc (s : State) (t : Nat) (v : Word) : State :=
  let x := s.ctx t
  if x.state == .idle || x.state == .halted || x.state == .faulted then s.setCtx t { x with pc := v &&& 0xFFFFFFFC#32 }
  else s

/-- A queue is enabled anew: the jobs that a RESET has aborted and that have not come to their boundary have no slot in it
(assumption 101). -/
def State.orphanJobs (s : State) (n : Nat) (q : BitVec 2) : State :=
  let old (j : Job) : Bool := match j.sub.origin with | .queue k r _ => k.toNat == n && r == q | _ => false
  let jobs := s.eng.jobs.map fun j => if old j then { j with sub := { j.sub with origin := .device } } else j
  { s with eng := { s.eng with jobs := jobs } }

/-- A write of a core-local register by a context. -/
def State.writeCore (s : State) (n off : Nat) (v : Word) : State :=
  let c := s.ctx n
  if off = 0x010 then s.setCtx n { c with scratch0 := v }
  else if off = 0x014 then s.setCtx n { c with scratch1 := v }
  else if within 0x020 0x09C off then
    let q : BitVec 2 := BitVec.ofNat 2 ((off - 0x20) / 0x20)
    let x := (c.queue q).writeReg (c.level == .n) ((off - 0x20) % 0x20) v
    (if x.enable && !(c.queue q).enable then s.orphanJobs n q else s).setQueue n q x
  else if off = 0x100 then
    let t : BitVec 7 := v.setWidth 7
    if mayControl c.level (s.ctx t.toNat) then s.setCtx n { c with sel := t } else s
  else if !mayControl c.level (s.ctx c.sel.toNat) then s
  else if off = 0x104 then s.writeCtxCtl c.level c.sel.toNat v
  else if off = 0x10C then s.writeCtxPc c.sel.toNat v
  else s

/-! ### The instructions -/

/-- The block and the offset of a selector (R255). -/
def selBlock (w : Word) : Nat := (w.extractLsb' 7 5).toNat
def selOff (w : Word) : Nat := (w.extractLsb' 0 7).toNat * 4

/-- SEL, as CORE_CTX_TVAL holds it. -/
def selWord (w : Word) : Word := (zSel w).setWidth 32

/-- The accessor that a context is: its level, which in a gate call is S. -/
def Context.accessor (c : Context) (n : Nat) : Accessor :=
  match c.level with
  | .n => .n (BitVec.ofNat 7 n)
  | .h => .h (BitVec.ofNat 7 n)
  | .s => .s

/-- An access of `k` registers of a block by a context (R256): the block's chapter, and at level N Strainer, allow it, or
the exception that it raises. Block 31 lies behind no ring; its context control registers are not open to N. -/
def State.srCheck (s : State) (n : Nat) (w : Word) (k : Nat) (write : Bool) : Option State :=
  let c := s.ctx n
  let off := selOff w
  let b := selBlock w
  if k = 2 ∧ off % 8 ≠ 0 then some (s.exception n excMisalign (selWord w))
  else if b = 31 then
    (if c.level = .n ∧ 0x100 ≤ off ∧ off ≤ 0x114 then some (s.exception n excSrDenied (selWord w)) else none)
  else if 21 ≤ b then some (s.exception n excSrDenied (selWord w))
  else
    let who := c.accessor n
    let a := b * 0x10000 + off
    let need := if write then permW else permR
    let ok := (List.range k).all fun i => if write then s.mayWrite who (a + 4 * i) else who.reads (a + 4 * i)
    (s.ringRefusal c.attr ok need a (4 * k)).map fun r => (s.ringCapture c.attr need r).ringException n (selWord w) r

/-- Retire a special-register access. One on the register ring makes the context wait (R246). -/
def State.srRetire (s : State) (n : Nat) (w : Word) : State :=
  if selBlock w = 31 then s.advance n else (s.advance n).waitFor n .special

/-- A register as a context reads it. -/
def State.srRead (s : State) (n : Nat) (w : Word) (i : Nat) : Word :=
  if selBlock w = 31 then s.coreReg n (selOff w + 4 * i)
  else s.readReg ((s.ctx n).accessor n) (selBlock w * 0x10000 + selOff w + 4 * i)

/-- A register as a context writes it. -/
def State.srWrite (s : State) (who : Accessor) (n : Nat) (w : Word) (i : Nat) (v : Word) : State :=
  if selBlock w = 31 then s.writeCore n (selOff w + 4 * i) v
  else s.writeReg who (selBlock w * 0x10000 + selOff w + 4 * i) v

/-- SRR (R256). -/
def execSrr (ctx : BitVec 7) (w : Word) (s : State) : Out :=
  s.whilePowered fun s =>
    s.issue ctx.toNat w (isOp w 0x30) (zRs1 w == 0 && zQ w == 0) true fun _ =>
      match s.srCheck ctx.toNat w 1 false with
      | some t => t
      | none => (s.putG ctx.toNat (zRd w) ((s.srRead ctx.toNat w 0).setWidth 64)).srRetire ctx.toNat w

/-- SRW (R256). -/
def execSrw (ctx : BitVec 7) (w : Word) (s : State) : Out :=
  s.whilePowered fun s =>
    s.issue ctx.toNat w (isOp w 0x31) (zRd w == 0 && zQ w == 0) true fun c =>
      match s.srCheck ctx.toNat w 1 true with
      | some t => t
      | none => (s.srRetire ctx.toNat w).srWrite (c.accessor ctx.toNat) ctx.toNat w 0 ((c.greg (zRs1 w)).setWidth 32)

/-- SRR64 (R256): the pair is one access. -/
def execSrr64 (ctx : BitVec 7) (w : Word) (s : State) : Out :=
  s.whilePowered fun s =>
    s.issue ctx.toNat w (isOp w 0x32) (zRs1 w == 0 && zQ w == 0) true fun _ =>
      match s.srCheck ctx.toNat w 2 false with
      | some t => t
      | none =>
        let v : DWord := s.srRead ctx.toNat w 1 ++ s.srRead ctx.toNat w 0
        (s.putG ctx.toNat (zRd w) v).srRetire ctx.toNat w

/-- SRW64 (R256): the pair is one access. -/
def execSrw64 (ctx : BitVec 7) (w : Word) (s : State) : Out :=
  s.whilePowered fun s =>
    s.issue ctx.toNat w (isOp w 0x33) (zRd w == 0 && zQ w == 0) true fun c =>
      match s.srCheck ctx.toNat w 2 true with
      | some t => t
      | none =>
        let v := c.greg (zRs1 w)
        let who := c.accessor ctx.toNat
        let s := (s.srRetire ctx.toNat w).srWrite who ctx.toNat w 0 (v.setWidth 32)
        s.srWrite who ctx.toNat w 1 ((v >>> 32).setWidth 32)

end Sys2Proof.Machine
end

