-- ==== Sys2Proof/Machine/HostRequest.lean ====
section
/-! DEFINITION. HOST_REQUEST: a PCIe request to BAR0 or BAR2 (R16, R35 to R39, R309 to R311, R314, R334 to R336, R340). -/

namespace Sys2Proof.Machine

/-! ### Who asks (R310, Table 12.2) -/

/-- The PASID under which a request is made: its prefix, or the manager's while UNTAGGED is set, or none. -/
def State.reqPasid (s : State) (req : HostReq) : Option (BitVec 20) :=
  match req.pasid with
  | some p => some p
  | none => if s.host.untagged then some s.host.mgrPasid else none

/-- The slice that binds a PASID, and the index of the entry (R316). -/
def State.boundAs (s : State) (p : BitVec 20) : Option (BitVec 6 × BitVec 4) :=
  s.host.slices.findSome? fun e =>
    (e.2.bound.find? fun b => b.2 == p).map fun b => (BitVec.ofNat 6 e.1, BitVec.ofNat 4 b.1)

/-- The requester attributes of a host request. -/
def State.hostAttr (s : State) (p : Option (BitVec 20)) : ReqAttr :=
  match p with
  | none => { origin := .host, level := .n, slice := none, bind := none }
  | some x =>
    if x == s.host.mgrPasid then { origin := .host, level := .h, slice := none, bind := none }
    else match s.boundAs x with
      | some b => { origin := .host, level := .n, slice := some b.1, bind := some b.2 }
      | none => { origin := .host, level := .n, slice := none, bind := none }

/-- Octets that a request covers. -/
def reqSize (r : HostReq) : Nat := if r.write then r.data.length else r.len

/-- What a read returned: the octets that its completion carries. -/
def State.answer (s : State) (b : Bytes) : State := { s with host := { s.host with readData := b } }

/-- The slice whose page or window holds a BAR offset. -/
def pageSlice (bar2 : Bool) (a : Nat) : Option Nat :=
  if bar2 then (if a < 0x4000000 then some (a / 0x100000) else none)
  else if 0x400000 ≤ a ∧ a < 0x800000 then some ((a - 0x400000) / 0x10000) else none

/-- A request is not performed (R311): it is logged under its kind, and in SLC_PG_ERR of the slice whose page or window
holds the address. -/
def State.reqFault (s : State) (req : HostReq) (bit a : Nat) : State :=
  let n := pageSlice req.bar2 a
  let s := s.hostFault bit (BitVec.ofNat 64 a) (s.reqPasid req) req.write true (n.map (BitVec.ofNat 6))
  match n with
  | some k => s.pageFault k a req.bar2 req.write
  | none => s

/-- The permission that a request needs. -/
def reqNeed (r : HostReq) : BitVec 3 := if r.write then permW else permR

/-! ### The per-slice page (R340, Tables 11.13 to 11.15) -/

/-- SLC_PG_STS of a slice. -/
def State.pageStatus (s : State) (n : Nat) : Word :=
  let x := s.slc n
  let c := s.conditions
  pack [(x.state.code, 0), flag c.1 3, flag c.2.1 4, flag c.2.2.1 5, flag c.2.2.2 6, flag x.d3 7, (n, 8)]

/-- Octets of the backed part of a slice's write half: the 512 KiB of the staging area while an admission holds it
(R334, R336). -/
def State.writeBacked (s : State) (n : Nat) : Nat :=
  if s.admissionHolds n then 0x80000 else (s.slc n).writePart

/-- What a register of a ring reads as. -/
def Ring.pageReg (g : Ring) (reg : Nat) : Word :=
  if reg = 0x00 then g.sq.setWidth 32
  else if reg = 0x04 then g.sq.extractLsb' 32 32
  else if reg = 0x08 then g.cq.setWidth 32
  else if reg = 0x0C then g.cq.extractLsb' 32 32
  else if reg = 0x10 then g.cfg
  else if reg = 0x14 then g.tail
  else if reg = 0x18 then g.head
  else if reg = 0x1C then g.cqHead
  else if reg = 0x20 then g.cqTail
  else if reg = 0x24 then g.sts
  else if reg = 0x28 then g.errIdx
  else 0

/-- What a register of a slice's page reads as; an offset without a register reads zero. -/
def State.pageRead (s : State) (n off : Nat) : Word :=
  let x := s.slc n
  if 0x1000 ≤ off then
    (if off < 0x1400 then (x.ring ((off - 0x1000) / 0x40)).pageReg ((off - 0x1000) % 0x40) else 0)
  else if off = 0x0000 then s.pageStatus n
  else if off = 0x0004 then x.pgErr.setWidth 32
  else if off = 0x0008 then x.pgFlt
  else if off = 0x0100 then pack [flag x.wStream 0]
  else if off = 0x0104 then x.wPtr.setWidth 32
  else if off = 0x0108 then pack [flag x.rStream 0]
  else if off = 0x010C then x.rPtr.setWidth 32
  else if off = 0x0110 then pack [(s.writeBacked n / 1024, 0), (x.readPart / 1024, 16)]
  else 0

/-- The fields of RNG_CFG that are writable at any time (Table 11.15). -/
def Ring.setIrq (g : Ring) (v : Word) : Ring :=
  { g with irqEn := v.getLsbD 15, coalN := v.extractLsb' 16 8, coalUs := v.extractLsb' 24 8 }

/-- RNG_CFG is written (R322). -/
def State.writeRingCfg (s : State) (n r : Nat) (v : Word) : State :=
  let g := (s.ring n r).setIrq v
  if g.enable then
    let s := s.setRing n r g
    if v.getLsbD 14 then s else s.disableRing n r
  else
    let s := s.setRing n r { g with
      sqLog2 := v.setWidth 5, cqLog2 := v.extractLsb' 5 5, pasidIdx := v.extractLsb' 10 4 }
    if v.getLsbD 14 then s.enableRing n r else s

/-- A base register of a ring is written: only while ENABLE is 0 (R322). -/
def State.writeRingBase (s : State) (n r : Nat) (f : Ring → Ring) : State :=
  let g := s.ring n r
  if g.enable then s else s.setRing n r (f g)

/-- A register of a ring is written. -/
def State.writeRingReg (s : State) (n r reg : Nat) (v : Word) : State :=
  let lo : Word := v &&& 0xFFFFFFC0#32
  if reg = 0x00 then s.writeRingBase n r fun g => { g with sq := g.sq.extractLsb' 32 32 ++ lo }
  else if reg = 0x04 then s.writeRingBase n r fun g => { g with sq := v ++ g.sq.setWidth 32 }
  else if reg = 0x08 then s.writeRingBase n r fun g => { g with cq := g.cq.extractLsb' 32 32 ++ lo }
  else if reg = 0x0C then s.writeRingBase n r fun g => { g with cq := v ++ g.cq.setWidth 32 }
  else if reg = 0x10 then s.writeRingCfg n r v
  else if reg = 0x14 then s.writeTail n r v
  else if reg = 0x1C then s.writeCqHead n r v
  else if reg = 0x24 then
    let g := s.ring n r
    s.setRing n r { g with
      badDoorbell := g.badDoorbell && !v.getLsbD 2, badCfg := g.badCfg && !v.getLsbD 5 }
  else s

/-- A register of a slice's page is written; what its table does not allow is dropped (R340). -/
def State.pageWrite (s : State) (n off : Nat) (v : Word) : State :=
  let x := s.slc n
  let ptr : BitVec 19 := v.setWidth 19
  if 0x1000 ≤ off then
    (if off < 0x1400 then s.writeRingReg n ((off - 0x1000) / 0x40) ((off - 0x1000) % 0x40) v else s)
  else if off = 0x0004 then s.setSlc n { x with pgErr := x.pgErr &&& ~~~(v.setWidth 8) }
  else if off = 0x0100 then s.setSlc n { x with wStream := v.getLsbD 0 }
  else if off = 0x0104 then (if ptr.toNat < s.writeBacked n then s.setSlc n { x with wPtr := ptr } else s)
  else if off = 0x0108 then s.setSlc n { x with rStream := v.getLsbD 0 }
  else if off = 0x010C then (if ptr.toNat < x.readPart then s.setSlc n { x with rPtr := ptr } else s)
  else s

/-! ### The MSI-X structures (R314) -/

/-- A register of the MSI-X table or of the PBA. -/
def State.msixRead (s : State) (a : Nat) : Word :=
  if 0x208000 ≤ a then
    (List.range 32).foldl (fun (w : Word) i =>
      if s.host.pba.contains ((a - 0x208000) * 8 + i) then w ||| (1#32 <<< i) else w) 0
  else
    let e := sparseGet MsixEntry.reset s.host.msix ((a - 0x200000) / 16)
    let k := (a - 0x200000) % 16
    if k = 0 then e.addr.setWidth 32
    else if k = 4 then e.addr.extractLsb' 32 32
    else if k = 8 then e.data
    else pack [flag e.masked 0]

/-- A register of the MSI-X table is written; the PBA is read-only. A vector that is no longer masked sends the message
that it holds pending. -/
def State.msixWrite (s : State) (a : Nat) (v : Word) : State :=
  if 0x208000 ≤ a then s
  else
    let i := (a - 0x200000) / 16
    let e := sparseGet MsixEntry.reset s.host.msix i
    let k := (a - 0x200000) % 16
    let e' : MsixEntry :=
      if k = 0 then { e with addr := e.addr.extractLsb' 32 32 ++ v }
      else if k = 4 then { e with addr := v ++ e.addr.setWidth 32 }
      else if k = 8 then { e with data := v }
      else { e with masked := v.getLsbD 0 }
    ({ s with host := { s.host with msix := sparseSet MsixEntry.reset s.host.msix i e' } }).sendPending

/-! ### BAR0 -/

/-- The part of BAR0 that an offset lies in (Table 1.5). -/
inductive Bar0Part where
  | regs
  | msix
  | page
  | unassigned
  deriving DecidableEq, Repr

/-- Table 1.5. -/
def bar0Part (a : Nat) : Bar0Part :=
  if a < 0x150000 then .regs
  else if 0x200000 ≤ a ∧ a < 0x208100 then .msix
  else if 0x400000 ≤ a ∧ a < 0x800000 then .page
  else .unassigned

/-- A request with a byte enable off is no aligned access of 4 or 8 bytes (R16). -/
def reqWhole (r : HostReq) : Bool := (List.range (reqSize r)).all fun i => !r.offBytes.contains i

/-- One aligned 4-byte or 8-byte access (R16). -/
def regAccess (a n : Nat) : Bool := (n == 4 && a % 4 == 0) || (n == 8 && a % 8 == 0)

/-- The baseline gives the request its need on every register that it covers (Table 12.3). -/
def State.bar0Base (s : State) (q : ReqAttr) (write : Bool) (a n : Nat) : Bool :=
  match bar0Part a with
  | .regs => q.level == .h && (List.range (n / 4)).all fun i =>
      if write then s.mayWrite .manager (a + 4 * i) else Accessor.manager.reads (a + 4 * i)
  | .msix => true
  | .page => q.reaches ((a - 0x400000) / 0x10000)
  | .unassigned => false

/-- Write one register of BAR0. -/
def State.bar0Write (s : State) (a : Nat) (v : Word) : State :=
  match bar0Part a with
  | .regs => s.writeReg .manager a v
  | .msix => s.msixWrite a v
  | .page => s.pageWrite ((a - 0x400000) / 0x10000) (a % 0x10000) v
  | .unassigned => s

/-- Read one register of BAR0, with what the read does besides. -/
def State.bar0Read (s : State) (a : Nat) : Word × State :=
  match bar0Part a with
  | .regs => let t := s.noteRead .manager a; (t.readReg .manager a, t)
  | .msix => (s.msixRead a, s)
  | .page => (s.pageRead ((a - 0x400000) / 0x10000) (a % 0x10000), s)
  | .unassigned => (0, s)

/-- The registers of an access, the lower offset first (R16). -/
def State.bar0Perform (s : State) (req : HostReq) (a n : Nat) : State :=
  if req.write then
    (List.range (n / 4)).foldl (fun t i => t.bar0Write (a + 4 * i) (fieldLE 32 (4 * i) 4 req.data)) s
  else
    let r := (List.range (n / 4)).foldl (fun (p : Bytes × State) i =>
      let x := p.2.bar0Read (a + 4 * i)
      (p.1 ++ le 4 x.1, x.2)) (([], s) : Bytes × State)
    r.2.answer r.1

/-- A request to BAR0 (R16, R37, R311): not performed where it is unassigned, of another width or alignment, or refused. -/
def State.bar0Request (s : State) (req : HostReq) : State :=
  let a := req.addr.toNat
  let n := (reqSize req)
  let s := if req.write then s else s.answer (zeros n)
  if 0x1000000 ≤ a then s.reqFault req 0 a
  else if bar0Part a = .unassigned then s.reqFault req 0 a
  else if !regAccess a n || !reqWhole req then s.reqFault req 1 a
  else
    let q := s.hostAttr (s.reqPasid req)
    match s.str.firstRefusal false q (s.bar0Base q req.write a n) (reqNeed req) (barCheck a) n with
    | some r => (s.captureRefusal false q (reqNeed req) r.1 r.2).reqFault req 2 a
    | none => s.bar0Perform req a n

/-! ### BAR2: the Ladle (R334 to R336) -/

/-- The check address of an offset in BAR2 (Table 12.1). -/
def bar2Check (a : Nat) : Nat := 0x20000000 + a

/-- A piece of a BAR2 access: its offset, its place in the TLP, its length. -/
structure LadlePiece where
  off : Nat
  pos : Nat
  len : Nat
  deriving DecidableEq, Repr

/-- The 64 B pieces of an access (R350). -/
def ladlePieces (a n : Nat) : List LadlePiece :=
  (pieceStarts a n).map fun p => { off := p, pos := p - a, len := min (a + n) ((p / 64 + 1) * 64) - p }

/-- Why a piece is not performed: beyond BAR2 (R37), refused by Strainer, or a write to a write half whose image has
passed its tap (R273 step 3). None: it is performed. -/
inductive PieceRefusal where
  | unassigned
  | strainer (r : StrRefusal)
  | held
  deriving DecidableEq, Repr

/-- The admission that holds a slice's write half has closed its tap. -/
def State.tapClosed (s : State) (n : Nat) : Bool :=
  match s.worlds.admission with
  | some a => a.carrier.toNat == n && (a.decided.isSome || decide (a.length ≤ a.seen.length))
  | none => false

/-- The decision on a piece. -/
def State.pieceRefusal (s : State) (q : ReqAttr) (write : Bool) (p : LadlePiece) : Option PieceRefusal :=
  if 0x4000000 ≤ p.off then some .unassigned
  else
    let n := p.off / 0x100000
    match s.str.piece false q (q.reaches n) (if write then permW else permR) (bar2Check p.off) with
    | some r => some (.strainer r)
    | none => if write && p.off % 0x100000 < 0x80000 && s.tapClosed n then some .held else none

/-- Where an octet of a TLP falls in a half whose backed part has `size` octets: in STREAM mode at the pointer and on, with
a wrap at the end of the backed part; in DIRECT mode at its own offset. -/
def ladlePlace (stream : Bool) (ptr size off pos : Nat) : Option Nat :=
  if stream then (if size = 0 then none else some ((ptr + pos) % size))
  else if off < size then some off
  else none

/-- Octets that a write brings to a slice's write half at their places: to the staging area while an admission holds it,
else to the buffer. An image whose last octet is among them ends there, and what follows goes to the write part (R337). -/
def State.writeHalfBytes (s : State) (n : Nat) (bs : List (Nat × Byte)) : State :=
  bs.foldl (fun t b => if t.admissionHolds n then t.admissionBytes b.1 [b.2] else t.writePartBytes n b.1 [b.2]) s

/-- The octets of a piece with their places in their half. -/
def piecePlaces (stream : Bool) (ptr size : Nat) (p : LadlePiece) : List (Option Nat) :=
  (List.range p.len).map fun i => ladlePlace stream ptr size (p.off % 0x80000 + i) (p.pos + i)

/-- Write an allowed piece, but for the octets whose byte enable is off (R335). A write to a slice that is RESETTING is dropped
(R320). -/
def State.writePiece (s : State) (data : Bytes) (off : List Nat) (p : LadlePiece) : State :=
  let n := p.off / 0x100000
  let x := s.slc n
  let bs := slice p.pos p.len data
  if x.state = .resetting then s.setSlc n { x with resetDrop := true }
  else
    let low := decide (p.off % 0x100000 < 0x80000)
    let places := if low then piecePlaces x.wStream x.wPtr.toNat (s.writeBacked n) p
      else piecePlaces false 0 x.readPart p
    let on := ((List.range p.len).zip (places.zip bs)).filter fun e => !off.contains (p.pos + e.1)
    let kept := on.filterMap fun e => e.2.1.map fun o => (o, e.2.2)
    let s := if on.any fun e => e.2.1.isNone then s.pgErr n 1 else s
    if low then s.writeHalfBytes n kept
    else
      let y := s.slc n
      s.setSlc n { y with rbuf := kept.foldl (fun m b => memSetByte m b.1 b.2) y.rbuf }

/-- A range of the read half that an open job holds back (R101). -/
def State.heldBack (s : State) (n o : Nat) : Bool :=
  s.eng.jobs.any fun j => j.sub.charge == some (BitVec.ofNat 6 n) &&
    (match j.openRange with | some r => decide (r.1 ≤ o) && decide (o < r.1 + r.2) | none => false)

/-- An octet that a read of a slice's Ladle finds. -/
def State.ladleByte (s : State) (n : Nat) (low : Bool) (place : Option Nat) : Byte :=
  match place with
  | none => 0
  | some o =>
    if low then (if s.admissionHolds n then memByte s.worlds.recipe (s.stagingBase + o) else memByte (s.slc n).wbuf o)
    else if s.heldBack n o then 0 else memByte (s.slc n).rbuf o

/-- Read an allowed piece: the octets, and what their range reports. -/
def State.readPiece (s : State) (p : LadlePiece) : Bytes × State :=
  let n := p.off / 0x100000
  let x := s.slc n
  let low := decide (p.off % 0x100000 < 0x80000)
  let places := if low then piecePlaces false 0 (s.writeBacked n) p
    else piecePlaces x.rStream x.rPtr.toNat x.readPart p
  (places.map (s.ladleByte n low), if places.any Option.isNone then s.pgErr n 1 else s)

/-- The stream pointer advances by the length of the TLP (R335). -/
def State.movePtr (s : State) (write : Bool) (a n : Nat) : State :=
  let k := a / 0x100000
  let x := s.slc k
  let low := decide (a % 0x100000 < 0x80000)
  let step (p : BitVec 19) (size : Nat) : BitVec 19 := if size = 0 then p else BitVec.ofNat 19 ((p.toNat + n) % size)
  if 0x4000000 ≤ a then s
  else if write && low && x.wStream && x.state != .resetting then
    s.setSlc k { x with wPtr := step x.wPtr (s.writeBacked k) }
  else if !write && !low && x.rStream then s.setSlc k { x with rPtr := step x.rPtr x.readPart }
  else s

/-- The report of the first piece that is not performed: Strainer's names the piece, the link's and the slice's the request's own
offset (Table 12.8, event 7). -/
def State.pieceFault (s : State) (req : HostReq) (q : ReqAttr) (a : Nat) (r : PieceRefusal) : State :=
  match r with
  | .unassigned => s.reqFault req 0 req.addr.toNat
  | .strainer x => (s.captureRefusal false q (reqNeed req) (bar2Check a) x).reqFault req 2 req.addr.toNat
  | .held => s.reqFault req 2 req.addr.toNat

/-- A request to BAR2: checked piece by piece before any piece is performed (R350); the allowed pieces complete, refused
octets are dropped or read zero. A Ladle does not work in Start-up and Erased (Table 16.2). -/
def State.bar2Request (s : State) (req : HostReq) : State :=
  let a := req.addr.toNat
  let q := s.hostAttr (s.reqPasid req)
  let pieces := ladlePieces a (reqSize req)
  let why := pieces.map fun p => (p, s.pieceRefusal q req.write p)
  let works := s.modeAllows .h .open_
  let ok := why.filter fun e => e.2.isNone && works
  let t := if req.write then ok.foldl (fun u e => u.writePiece req.data req.offBytes e.1) s
    else
      let r := why.foldl (fun (acc : Bytes × State) e =>
        if e.2.isNone && works then (let x := acc.2.readPiece e.1; (acc.1 ++ x.1, x.2))
        else (acc.1 ++ zeros e.1.len, acc.2)) (([], s) : Bytes × State)
      r.2.answer r.1
  let t := if ok.isEmpty then t else t.movePtr req.write a (reqSize req)
  match why.findSome? fun e => e.2.map fun r => (e.1.off, r) with
  | some f => t.pieceFault req q f.1 f.2
  | none => t

/-- AER records Poisoned TLP Received as an Advisory Non-Fatal Error (R313): its bit of the uncorrectable status, and that of
Advisory Non-Fatal Error in the correctable status, at the base specification's places (assumption 104). -/
def State.aerPoison (s : State) : State :=
  { s with host := { s.host with aerUe := s.host.aerUe ||| 0x1000#32, aerCe := s.host.aerCe ||| 0x2000#32 } }

/-- HOST_REQUEST: a poisoned write is discarded (R313); every other request goes to its BAR. A TLP carries at most 4,096
octets (Table 11.1). -/
def execHostRequest (req : HostReq) (s : State) : Out :=
  s.whilePowered fun s =>
    if 4096 < (reqSize req) then s
    else if req.write && req.poisoned then s.aerPoison.reqFault req 3 req.addr.toNat
    else if req.bar2 then s.bar2Request req
    else s.bar0Request req

end Sys2Proof.Machine
end

