-- ==== Sys2Proof/Machine/Tick.lean ====
section
/-! DEFINITION. What time alone does: one ECLK cycle, which passes when no command waits (R193, R405; assumption 1). -/

namespace Sys2Proof.Machine

/-- Periods of 32,768 Hz in a number of ECLK cycles of 2/3 ns. -/
def slowTicks (cycles : Nat) : Nat := cycles * 32768 / 1500000000

/-- The timeline after one cycle (R193): the counter with its fraction grows by the increment. -/
def Timeline.tick (t : Timeline) : Timeline :=
  let v : BitVec 96 := t.ns ++ t.frac
  let v := v + t.inc.setWidth 96
  { t with ns := v.extractLsb' 32 64, frac := v.setWidth 32 }

/-- The Trivet's own clock counts with and without VIN (TRV_TICK, Table 14.9). -/
def Trivet.pass (t : Trivet) (now : Nat) : Trivet :=
  if slowTicks now = slowTicks (now + 1) then t else { t with tick := t.tick + 1 }

/-- One cycle: device time, the Trivet's clock, and with VIN the timeline, the rings that wait for room (R165, R327) and the
invalidations that wait for requests (R312). -/
def State.tick (s : State) : State :=
  let t := { s with now := s.now + 1, trivet := s.trivet.pass s.now }
  if s.powered then ({ t with tl := t.tl.tick }).serveAll.atsDone else t

end Sys2Proof.Machine
end

