-- ==== Sys2Proof/Machine/Dispatch.lean ====
section
/-! DEFINITION. One arm for each command: its meaning. -/

namespace Sys2Proof.Machine

/-- What a command does to everything but the queue. -/
def exec (i : Instr) (s : State) : Host.Outcome State Fault Refusal :=
  match i with
  | .vinApplied test => Sys2Proof.Machine.execVinApplied test s
  | .vinLost => Sys2Proof.Machine.execVinLost s
  | .startUpEnd => Sys2Proof.Machine.execStartUpEnd s
  | .tlWaitExpiry => Sys2Proof.Machine.execTlWaitExpiry s
  | .kernelReadyTimeout => Sys2Proof.Machine.execKernelReadyTimeout s
  | .nonTamperFatal cause arg => Sys2Proof.Machine.execNonTamperFatal cause arg s
  | .deviceReset who value test => Sys2Proof.Machine.execDeviceReset who value test s
  | .tamperHoldReset test => Sys2Proof.Machine.execTamperHoldReset test s
  | .modCtlFatal who value => Sys2Proof.Machine.execModCtlFatal who value s
  | .tamperEvent events badRows => Sys2Proof.Machine.execTamperEvent events badRows s
  | .eraseComplete => Sys2Proof.Machine.execEraseComplete s
  | .tmpTestGo who value => Sys2Proof.Machine.execTmpTestGo who value s
  | .tmpTestEnd => Sys2Proof.Machine.execTmpTestEnd s
  | .tmpSrcCfgWrite who value => Sys2Proof.Machine.execTmpSrcCfgWrite who value s
  | .vbatSample mv => Sys2Proof.Machine.execVbatSample mv s
  | .capLowRecord => Sys2Proof.Machine.execCapLowRecord s
  | .colanderSpanClose group bits trims => Sys2Proof.Machine.execColanderSpanClose group bits trims s
  | .retrimDone group trims => Sys2Proof.Machine.execRetrimDone group trims s
  | .groupSettled group trims => Sys2Proof.Machine.execGroupSettled group trims s
  | .colanderReady => Sys2Proof.Machine.execColanderReady s
  | .seedFailTimeout => Sys2Proof.Machine.execSeedFailTimeout s
  | .entropyRequestServe raw => Sys2Proof.Machine.execEntropyRequestServe raw s
  | .privTimeout => Sys2Proof.Machine.execPrivTimeout s
  | .notSeededTimeout => Sys2Proof.Machine.execNotSeededTimeout s
  | .drbgBackgroundReseed slice => Sys2Proof.Machine.execDrbgBackgroundReseed slice s
  | .reseedTimeout slice => Sys2Proof.Machine.execReseedTimeout slice s
  | .random sub => Sys2Proof.Machine.execRandom sub s
  | .draw sub => Sys2Proof.Machine.execDraw sub s
  | .create sub => Sys2Proof.Machine.execCreate sub s
  | .generate sub => Sys2Proof.Machine.execGenerate sub s
  | .nextGen sub => Sys2Proof.Machine.execNextGen sub s
  | .narrow sub => Sys2Proof.Machine.execNarrow sub s
  | .destroy sub => Sys2Proof.Machine.execDestroy sub s
  | .destroySweepDone owner => Sys2Proof.Machine.execDestroySweepDone owner s
  | .query sub => Sys2Proof.Machine.execQuery sub s
  | .prove sub => Sys2Proof.Machine.execProve sub s
  | .pin sub => Sys2Proof.Machine.execPin sub s
  | .unpin sub => Sys2Proof.Machine.execUnpin sub s
  | .imgSeal sub => Sys2Proof.Machine.execImgSeal sub s
  | .imgLoad sub => Sys2Proof.Machine.execImgLoad sub s
  | .imgCommit sub => Sys2Proof.Machine.execImgCommit sub s
  | .imgUnload sub => Sys2Proof.Machine.execImgUnload sub s
  | .ktTblIdxWrite who value => Sys2Proof.Machine.execKtTblIdxWrite who value s
  | .digest sub => Sys2Proof.Machine.execDigest sub s
  | .macGen sub => Sys2Proof.Machine.execMacGen sub s
  | .macVerify sub => Sys2Proof.Machine.execMacVerify sub s
  | .ctxSave sub => Sys2Proof.Machine.execCtxSave sub s
  | .ctxRestore sub => Sys2Proof.Machine.execCtxRestore sub s
  | .tap sub => Sys2Proof.Machine.execTap sub s
  | .tapClose tap stream => Sys2Proof.Machine.execTapClose tap stream s
  | .rcptCheck sub => Sys2Proof.Machine.execRcptCheck sub s
  | .cipherEncrypt sub => Sys2Proof.Machine.execCipherEncrypt sub s
  | .cipherDecrypt sub => Sys2Proof.Machine.execCipherDecrypt sub s
  | .cipherMacGen sub => Sys2Proof.Machine.execCipherMacGen sub s
  | .cipherMacVerify sub => Sys2Proof.Machine.execCipherMacVerify sub s
  | .wrap sub => Sys2Proof.Machine.execWrap sub s
  | .unwrap sub => Sys2Proof.Machine.execUnwrap sub s
  | .maskReseedRequest engine => Sys2Proof.Machine.execMaskReseedRequest engine s
  | .maskReseed engine => Sys2Proof.Machine.execMaskReseed engine s
  | .cipherStall engine => Sys2Proof.Machine.execCipherStall engine s
  | .sign sub => Sys2Proof.Machine.execSign sub s
  | .verify sub => Sys2Proof.Machine.execVerify sub s
  | .agree sub => Sys2Proof.Machine.execAgree sub s
  | .encap sub => Sys2Proof.Machine.execEncap sub s
  | .rsaDecrypt sub => Sys2Proof.Machine.execRsaDecrypt sub s
  | .rsaEncrypt sub => Sys2Proof.Machine.execRsaEncrypt sub s
  | .publicKey sub => Sys2Proof.Machine.execPublicKey sub s
  | .repeatCompare job equal => Sys2Proof.Machine.execRepeatCompare job equal s
  | .noPairTimeout job => Sys2Proof.Machine.execNoPairTimeout job s
  | .primeGeneration job e1 e2 ok => Sys2Proof.Machine.execPrimeGeneration job e1 e2 ok s
  | .scrubDone cls engine clean => Sys2Proof.Machine.execScrubDone cls engine clean s
  | .frameStart => Sys2Proof.Machine.execFrameStart s
  | .engineDispatch cls engine => Sys2Proof.Machine.execEngineDispatch cls engine s
  | .segmentBoundary cls engine used => Sys2Proof.Machine.execSegmentBoundary cls engine used s
  | .chunkBoundary engine used done => Sys2Proof.Machine.execChunkBoundary engine used done s
  | .quarantineEnd cls engine => Sys2Proof.Machine.execQuarantineEnd cls engine s
  | .eccErrorEngine cls engine uncorrectable => Sys2Proof.Machine.execEccErrorEngine cls engine uncorrectable s
  | .eccErrorShared inst line slice index uncorrectable => Sys2Proof.Machine.execEccErrorShared inst line slice index uncorrectable s
  | .lcrcError => Sys2Proof.Machine.execLcrcError s
  | .rsfecUncorrectable port => Sys2Proof.Machine.execRsfecUncorrectable port s
  | .streamLossOfLock port => Sys2Proof.Machine.execStreamLossOfLock port s
  | .auditFrameError port => Sys2Proof.Machine.execAuditFrameError port s
  | .auditLossOfLock port => Sys2Proof.Machine.execAuditLossOfLock port s
  | .ppsEdge ref interval freqOk => Sys2Proof.Machine.execPpsEdge ref interval freqOk s
  | .todMessageClose ref run onTime offset => Sys2Proof.Machine.execTodMessageClose ref run onTime offset s
  | .edgeMissing ref => Sys2Proof.Machine.execEdgeMissing ref s
  | .referenceFail => Sys2Proof.Machine.execReferenceFail s
  | .holdoverExpiry => Sys2Proof.Machine.execHoldoverExpiry s
  | .tlNowLoRead who => Sys2Proof.Machine.execTlNowLoRead who s
  | .calAdd who => Sys2Proof.Machine.execCalAdd who s
  | .calCancel who => Sys2Proof.Machine.execCalCancel who s
  | .calRead who => Sys2Proof.Machine.execCalRead who s
  | .calendarDispatch => Sys2Proof.Machine.execCalendarDispatch s
  | .wagerFrameReceive port frame arrival => Sys2Proof.Machine.execWagerFrameReceive port frame arrival s
  | .wagerDecide port => Sys2Proof.Machine.execWagerDecide port s
  | .stampMacCompare stamp equal => Sys2Proof.Machine.execStampMacCompare stamp equal s
  | .receiptTransmit port => Sys2Proof.Machine.execReceiptTransmit port s
  | .stampUseBlockTake market => Sys2Proof.Machine.execStampUseBlockTake market s
  | .stampKeyPrepare market => Sys2Proof.Machine.execStampKeyPrepare market s
  | .sealSignatureDone market pq => Sys2Proof.Machine.execSealSignatureDone market pq s
  | .mkAdd who => Sys2Proof.Machine.execMkAdd who s
  | .mkSetClose who => Sys2Proof.Machine.execMkSetClose who s
  | .mkRemove who => Sys2Proof.Machine.execMkRemove who s
  | .mkRead who => Sys2Proof.Machine.execMkRead who s
  | .mkPortEnableWrite who value => Sys2Proof.Machine.execMkPortEnableWrite who value s
  | .mkPortRestore who value => Sys2Proof.Machine.execMkPortRestore who value s
  | .mkLockWrite who value => Sys2Proof.Machine.execMkLockWrite who value s
  | .add ctx w => Sys2Proof.Machine.execAdd ctx w s
  | .sub ctx w => Sys2Proof.Machine.execSub ctx w s
  | .and ctx w => Sys2Proof.Machine.execAnd ctx w s
  | .or ctx w => Sys2Proof.Machine.execOr ctx w s
  | .xor ctx w => Sys2Proof.Machine.execXor ctx w s
  | .sll ctx w => Sys2Proof.Machine.execSll ctx w s
  | .srl ctx w => Sys2Proof.Machine.execSrl ctx w s
  | .sra ctx w => Sys2Proof.Machine.execSra ctx w s
  | .cmps ctx w => Sys2Proof.Machine.execCmps ctx w s
  | .cmpu ctx w => Sys2Proof.Machine.execCmpu ctx w s
  | .mul ctx w => Sys2Proof.Machine.execMul ctx w s
  | .mulh ctx w => Sys2Proof.Machine.execMulh ctx w s
  | .quou ctx w => Sys2Proof.Machine.execQuou ctx w s
  | .modu ctx w => Sys2Proof.Machine.execModu ctx w s
  | .minu ctx w => Sys2Proof.Machine.execMinu ctx w s
  | .maxu ctx w => Sys2Proof.Machine.execMaxu ctx w s
  | .addi ctx w => Sys2Proof.Machine.execAddi ctx w s
  | .andi ctx w => Sys2Proof.Machine.execAndi ctx w s
  | .ori ctx w => Sys2Proof.Machine.execOri ctx w s
  | .xori ctx w => Sys2Proof.Machine.execXori ctx w s
  | .cmpi ctx w => Sys2Proof.Machine.execCmpi ctx w s
  | .cmpiu ctx w => Sys2Proof.Machine.execCmpiu ctx w s
  | .slli ctx w => Sys2Proof.Machine.execSlli ctx w s
  | .srli ctx w => Sys2Proof.Machine.execSrli ctx w s
  | .srai ctx w => Sys2Proof.Machine.execSrai ctx w s
  | .immh ctx w => Sys2Proof.Machine.execImmh ctx w s
  | .shori ctx w => Sys2Proof.Machine.execShori ctx w s
  | .lb ctx w l2 => Sys2Proof.Machine.execLb ctx w l2 s
  | .lbu ctx w l2 => Sys2Proof.Machine.execLbu ctx w l2 s
  | .lh ctx w l2 => Sys2Proof.Machine.execLh ctx w l2 s
  | .lhu ctx w l2 => Sys2Proof.Machine.execLhu ctx w l2 s
  | .lw ctx w l2 => Sys2Proof.Machine.execLw ctx w l2 s
  | .lwu ctx w l2 => Sys2Proof.Machine.execLwu ctx w l2 s
  | .ld ctx w l2 => Sys2Proof.Machine.execLd ctx w l2 s
  | .kld ctx w l2 => Sys2Proof.Machine.execKld ctx w l2 s
  | .sb ctx w l2 => Sys2Proof.Machine.execSb ctx w l2 s
  | .sh ctx w l2 => Sys2Proof.Machine.execSh ctx w l2 s
  | .sw ctx w l2 => Sys2Proof.Machine.execSw ctx w l2 s
  | .sd ctx w l2 => Sys2Proof.Machine.execSd ctx w l2 s
  | .kst ctx w l2 => Sys2Proof.Machine.execKst ctx w l2 s
  | .link ctx w l2 => Sys2Proof.Machine.execLink ctx w l2 s
  | .claim ctx w l2 => Sys2Proof.Machine.execClaim ctx w l2 s
  | .xchg ctx w l2 => Sys2Proof.Machine.execXchg ctx w l2 s
  | .fadd ctx w l2 => Sys2Proof.Machine.execFadd ctx w l2 s
  | .fand ctx w l2 => Sys2Proof.Machine.execFand ctx w l2 s
  | .amoFor ctx w l2 => Sys2Proof.Machine.execAmoFor ctx w l2 s
  | .cas ctx w l2 => Sys2Proof.Machine.execCas ctx w l2 s
  | .linkWatchExpiry ctx => Sys2Proof.Machine.execLinkWatchExpiry ctx s
  | .fence ctx w => Sys2Proof.Machine.execFence ctx w s
  | .beq ctx w => Sys2Proof.Machine.execBeq ctx w s
  | .bne ctx w => Sys2Proof.Machine.execBne ctx w s
  | .blt ctx w => Sys2Proof.Machine.execBlt ctx w s
  | .bge ctx w => Sys2Proof.Machine.execBge ctx w s
  | .bltu ctx w => Sys2Proof.Machine.execBltu ctx w s
  | .bgeu ctx w => Sys2Proof.Machine.execBgeu ctx w s
  | .jal ctx w => Sys2Proof.Machine.execJal ctx w s
  | .jalr ctx w => Sys2Proof.Machine.execJalr ctx w s
  | .kfromg ctx w => Sys2Proof.Machine.execKfromg ctx w s
  | .ktog ctx w => Sys2Proof.Machine.execKtog ctx w s
  | .srr ctx w => Sys2Proof.Machine.execSrr ctx w s
  | .srw ctx w => Sys2Proof.Machine.execSrw ctx w s
  | .srr64 ctx w => Sys2Proof.Machine.execSrr64 ctx w s
  | .srw64 ctx w => Sys2Proof.Machine.execSrw64 ctx w s
  | .jqpost ctx w host => Sys2Proof.Machine.execJqpost ctx w host s
  | .jqinv ctx w => Sys2Proof.Machine.execJqinv ctx w s
  | .jqwait ctx w => Sys2Proof.Machine.execJqwait ctx w s
  | .tlread ctx w => Sys2Proof.Machine.execTlread ctx w s
  | .tlwait ctx w => Sys2Proof.Machine.execTlwait ctx w s
  | .evwait ctx w => Sys2Proof.Machine.execEvwait ctx w s
  | .gate ctx w => Sys2Proof.Machine.execGate ctx w s
  | .gpad ctx w => Sys2Proof.Machine.execGpad ctx w s
  | .gret ctx w => Sys2Proof.Machine.execGret ctx w s
  | .nop ctx w => Sys2Proof.Machine.execNop ctx w s
  | .yield ctx w => Sys2Proof.Machine.execYield ctx w s
  | .halt ctx w => Sys2Proof.Machine.execHalt ctx w s
  | .brk ctx w => Sys2Proof.Machine.execBrk ctx w s
  | .contextWake ctx => Sys2Proof.Machine.execContextWake ctx s
  | .ctxStart ctx => Sys2Proof.Machine.execCtxStart ctx s
  | .ctxResume ctx => Sys2Proof.Machine.execCtxResume ctx s
  | .ctxReset ctx => Sys2Proof.Machine.execCtxReset ctx s
  | .version ctx => Sys2Proof.Machine.execVersion ctx s
  | .admitImage ctx stream => Sys2Proof.Machine.execAdmitImage ctx stream s
  | .admissionDeadline => Sys2Proof.Machine.execAdmissionDeadline s
  | .portService ctx => Sys2Proof.Machine.execPortService ctx s
  | .kernelLoad images => Sys2Proof.Machine.execKernelLoad images s
  | .swCtlKick who value => Sys2Proof.Machine.execSwCtlKick who value s
  | .swCtlReady who value => Sys2Proof.Machine.execSwCtlReady who value s
  | .swCtlRestart who value => Sys2Proof.Machine.execSwCtlRestart who value s
  | .watchdogExpiry => Sys2Proof.Machine.execWatchdogExpiry s
  | .secureWorldRestart images => Sys2Proof.Machine.execSecureWorldRestart images s
  | .restartReadyTimeout => Sys2Proof.Machine.execRestartReadyTimeout s
  | .modWmarkWrite who value => Sys2Proof.Machine.execModWmarkWrite who value s
  | .slcS2EntWrite who value => Sys2Proof.Machine.execSlcS2EntWrite who value s
  | .s2ChangeComplete slice page => Sys2Proof.Machine.execS2ChangeComplete slice page s
  | .hostRequest req => Sys2Proof.Machine.execHostRequest req s
  | .dmaFailure cause addr write ats => Sys2Proof.Machine.execDmaFailure cause addr write ats s
  | .dmaTimeout cause addr write => Sys2Proof.Machine.execDmaTimeout cause addr write s
  | .atsInvalidation => Sys2Proof.Machine.execAtsInvalidation s
  | .d3hotEntry => Sys2Proof.Machine.execD3hotEntry s
  | .d0Return => Sys2Proof.Machine.execD0Return s
  | .linkReset discarded => Sys2Proof.Machine.execLinkReset discarded s
  | .slcPasidEntWrite who value => Sys2Proof.Machine.execSlcPasidEntWrite who value s
  | .slcMgrPasidWrite who value => Sys2Proof.Machine.execSlcMgrPasidWrite who value s
  | .sliceActivate who => Sys2Proof.Machine.execSliceActivate who s
  | .sliceQuiesce who => Sys2Proof.Machine.execSliceQuiesce who s
  | .sliceUnquiesce who => Sys2Proof.Machine.execSliceUnquiesce who s
  | .quiesceDrainTimeout slice => Sys2Proof.Machine.execQuiesceDrainTimeout slice s
  | .sliceQuiesced slice => Sys2Proof.Machine.execSliceQuiesced slice s
  | .sliceReset who => Sys2Proof.Machine.execSliceReset who s
  | .sliceResetDone slice => Sys2Proof.Machine.execSliceResetDone slice s
  | .sliceRemove who => Sys2Proof.Machine.execSliceRemove who s
  | .sliceRemoved slice => Sys2Proof.Machine.execSliceRemoved slice s
  | .ringEnable who slice ring => Sys2Proof.Machine.execRingEnable who slice ring s
  | .ringDisable who slice ring => Sys2Proof.Machine.execRingDisable who slice ring s
  | .sqDoorbell who slice ring value => Sys2Proof.Machine.execSqDoorbell who slice ring value s
  | .cqHeadWrite who slice ring value => Sys2Proof.Machine.execCqHeadWrite who slice ring value s
  | .entryFetch slice ring entry host => Sys2Proof.Machine.execEntryFetch slice ring entry host s
  | .entryRefetch slice ring entry host => Sys2Proof.Machine.execEntryRefetch slice ring entry host s
  | .notOwnedTimeout slice ring => Sys2Proof.Machine.execNotOwnedTimeout slice ring s
  | .coalesceTimeout slice ring => Sys2Proof.Machine.execCoalesceTimeout slice ring s
  | .ldlSplitWrite who value => Sys2Proof.Machine.execLdlSplitWrite who value s
  | .stageRule who => Sys2Proof.Machine.execStageRule who s
  | .stageWin who => Sys2Proof.Machine.execStageWin who s
  | .strCommit who => Sys2Proof.Machine.execStrCommit who s
  | .strDiscard who => Sys2Proof.Machine.execStrDiscard who s
  | .strDrainEnd => Sys2Proof.Machine.execStrDrainEnd s
  | .strCommitStall => Sys2Proof.Machine.execStrCommitStall s
  | .strFltStsClear who value => Sys2Proof.Machine.execStrFltStsClear who value s
  | .scanTick scans => Sys2Proof.Machine.execScanTick scans s
  | .cardActivate who station atr => Sys2Proof.Machine.execCardActivate who station atr s
  | .atrTimeout station => Sys2Proof.Machine.execAtrTimeout station s
  | .cardDeactivate who station => Sys2Proof.Machine.execCardDeactivate who station s
  | .apduSend who station => Sys2Proof.Machine.execApduSend who station s
  | .apduDone station reply => Sys2Proof.Machine.execApduDone station reply s
  | .cardOvercurrent station => Sys2Proof.Machine.execCardOvercurrent station s
  | .cusEvtPop who => Sys2Proof.Machine.execCusEvtPop who s
  | .cusClrOvf who => Sys2Proof.Machine.execCusClrOvf who s
  | .ceremonyRequest ctx => Sys2Proof.Machine.execCeremonyRequest ctx s
  | .windowRequest ctx => Sys2Proof.Machine.execWindowRequest ctx s
  | .windowClose ctx => Sys2Proof.Machine.execWindowClose ctx s
  | .cerCancel ctx => Sys2Proof.Machine.execCerCancel ctx s
  | .ceremonyStart => Sys2Proof.Machine.execCeremonyStart s
  | .turnStep => Sys2Proof.Machine.execTurnStep s
  | .turnStepTimeout station => Sys2Proof.Machine.execTurnStepTimeout station s
  | .ceremonyStepTimeout => Sys2Proof.Machine.execCeremonyStepTimeout s
  | .ceremonyTimeout => Sys2Proof.Machine.execCeremonyTimeout s
  | .cancelHeld station => Sys2Proof.Machine.execCancelHeld station s
  | .codeDisplayEnd => Sys2Proof.Machine.execCodeDisplayEnd s
  | .generationStep => Sys2Proof.Machine.execGenerationStep s
  | .ceremonyEnd => Sys2Proof.Machine.execCeremonyEnd s
  | .daCreate => Sys2Proof.Machine.execDaCreate s
  | .daReshare => Sys2Proof.Machine.execDaReshare s
  | .kernelAdmit => Sys2Proof.Machine.execKernelAdmit s
  | .fuseBurn => Sys2Proof.Machine.execFuseBurn s
  | .ownerCreate => Sys2Proof.Machine.execOwnerCreate s
  | .ownerDelete => Sys2Proof.Machine.execOwnerDelete s
  | .evidenceClear test => Sys2Proof.Machine.execEvidenceClear test s
  | .serviceEnter => Sys2Proof.Machine.execServiceEnter s
  | .recoveryExit test => Sys2Proof.Machine.execRecoveryExit test s
  | .windowOpen => Sys2Proof.Machine.execWindowOpen s
  | .ownerReshare => Sys2Proof.Machine.execOwnerReshare s
  | .admitKey => Sys2Proof.Machine.execAdmitKey s
  | .recommission test => Sys2Proof.Machine.execRecommission test s
  | .windowEnd window => Sys2Proof.Machine.execWindowEnd window s
  | .logRecordAccept => Sys2Proof.Machine.execLogRecordAccept s
  | .sideBufferDrain => Sys2Proof.Machine.execSideBufferDrain s
  | .logStart => Sys2Proof.Machine.execLogStart s
  | .stkSealSigned failed => Sys2Proof.Machine.execStkSealSigned failed s
  | .freeze who => Sys2Proof.Machine.execFreeze who s
  | .thaw who => Sys2Proof.Machine.execThaw who s
  | .freezeTimeout => Sys2Proof.Machine.execFreezeTimeout s
  | .bluexFrameReceive port frame => Sys2Proof.Machine.execBluexFrameReceive port frame s
  | .bluexVerifyDone => Sys2Proof.Machine.execBluexVerifyDone s
  | .proveReq => Sys2Proof.Machine.execProveReq s
  | .measReq => Sys2Proof.Machine.execMeasReq s
  | .checkkeyReq => Sys2Proof.Machine.execCheckkeyReq s
  | .helloTimer port gained => Sys2Proof.Machine.execHelloTimer port gained s
  | .exportData => Sys2Proof.Machine.execExportData s
  | .ackTimeout => Sys2Proof.Machine.execAckTimeout s
  | .audEnableSet who => Sys2Proof.Machine.execAudEnableSet who s
  | .audEnableClear who => Sys2Proof.Machine.execAudEnableClear who s
  | .pwrCommit who => Sys2Proof.Machine.execPwrCommit who s
  | .pwrDiscard who => Sys2Proof.Machine.execPwrDiscard who s
  | .pwrHoldWrite who value => Sys2Proof.Machine.execPwrHoldWrite who value s
  | .groupDrained group => Sys2Proof.Machine.execGroupDrained group s
  | .groupDrainTimeout group => Sys2Proof.Machine.execGroupDrainTimeout group s
  | .groupScrubDone group => Sys2Proof.Machine.execGroupScrubDone group s
  | .groupOffMinElapsed group => Sys2Proof.Machine.execGroupOffMinElapsed group s
  | .groupWakeDone group => Sys2Proof.Machine.execGroupWakeDone group s
  | .mgmtPrivateWrite bytes => Sys2Proof.Machine.execMgmtPrivateWrite bytes s
  | .mgmtPrivateRead => Sys2Proof.Machine.execMgmtPrivateRead s
  | .mgmtDynamicAddress setdasa static_ addr => Sys2Proof.Machine.execMgmtDynamicAddress setdasa static_ addr s
  | .debugTapInstruction code => Sys2Proof.Machine.execDebugTapInstruction code s
  | .ioRailOverload vo33 => Sys2Proof.Machine.execIoRailOverload vo33 s
  | .ioRailRetry vo33 => Sys2Proof.Machine.execIoRailRetry vo33 s
  | .heartbeatToggle => Sys2Proof.Machine.execHeartbeatToggle s
  | .registerWrite who addr value => Sys2Proof.Machine.execRegisterWrite who addr value s
  | .pcieConfigurationRequest write offset value => Sys2Proof.Machine.execPcieConfigurationRequest write offset value s
  | .hostLinkUp speed width => Sys2Proof.Machine.execHostLinkUp speed width s
  | .streamBlockLock port => Sys2Proof.Machine.execStreamBlockLock port s
  | .temperatureSample t0 t1 => Sys2Proof.Machine.execTemperatureSample t0 t1 s
  | .capacitorRecharged => Sys2Proof.Machine.execCapacitorRecharged s
  | .vbatLost => Sys2Proof.Machine.execVbatLost s
  | .refusedDisplayEnd => Sys2Proof.Machine.execRefusedDisplayEnd s

end Sys2Proof.Machine
end

