-- ==== Sys2Proof/Safety.lean ====
section
/-! DEFINITION. The terms in which claims speak of a run: what a command answers, when a context executes a word, and what
such an execution leaves of the context. -/

namespace Sys2Proof.Machine

/-- The command answers a next state, and the state has a property. -/
def Answers (c : Instr) (s : State) (P : State → Prop) : Prop := ∃ t, exec c s = .next t ∧ P t

/-- The step answers a next state, and the state has a property. -/
def Steps (s : State) (P : State → Prop) : Prop := ∃ t, step s = .next t ∧ P t

/-- Context `n` runs on a device that has power, its fetch is not refused, and the line of its PC is in L2
(R246, R267). -/
structure Fetches (s : State) (n : BitVec 7) : Prop where
  powered : s.powered = true
  running : (s.ctx n.toNat).state = .running
  fetched : s.fetchRefusal (s.ctx n.toNat) = none
  present : s.fetchMisses (s.ctx n.toNat) = false

/-- Context `n` executes a word of the given opcode, and the next word's address lies below 2^32. -/
structure Executes (s : State) (n : BitVec 7) (w : Word) (op : BitVec 6) : Prop where
  fetches : Fetches s n
  opcode : zOp w = op
  inside : (s.ctx n.toNat).pc.toNat + 4 < 2 ^ 32

/-- A context that has retired one instruction and goes on at a PC. -/
def Context.retireTo (c : Context) (pc : Word) : Context := { c with pc := pc, retired := c.retired + 1 }

/-- A context that has written rd and retired one instruction. -/
def Context.writes (c : Context) (rd : BitVec 5) (v : DWord) : Context := (c.setG rd v).retireTo (c.pc + 4)

/-- A context that has written a k register and retired one instruction. -/
def Context.writesK (c : Context) (r : BitVec 4) (v : Word) : Context :=
  { c with k := c.k.set r.toFin.val v }.retireTo (c.pc + 4)

/-- The same state with another context `n`: nothing else differs. -/
def State.withCtx (s : State) (n : BitVec 7) (c : Context) : State := s.setCtx n.toNat c

/-- The tables of one slice are in their canonical forms. -/
def Slice.canonical (x : Slice) : Bool :=
  sparseWf 0#32 0 x.binds && sparseWf Ring.reset 0 x.rings && memWf x.wbuf && memWf x.rbuf

/-- The log's records lie in slot order, apart, and within their areas; the write pointer lies in the main ring (R416). -/
structure Stockpot.Ordered (t : Stockpot) : Prop where
  ring : t.ring.Pairwise fun a b => a.slot + a.slots ≤ b.slot
  inside : ∀ p ∈ t.ring, p.slot + p.slots ≤ ringSlots
  pointer : t.wptr < ringSlots
  evidence : t.evidence.Pairwise fun a b => a.slot < b.slot
  region : ∀ p ∈ t.evidence, p.slot < evidenceSlots

/-- The register file, memories and tables are in their canonical forms: keys rise and nothing is listed that reads as what
an unlisted key reads as, so that equal contents are equal data. -/
structure State.Canonical (s : State) : Prop where
  regs : regsWf 0 s.regs = true
  ctxs : sparseWf Context.reset 0 s.worlds.ctxs = true
  recipe : memWf s.worlds.recipe = true
  queues : sparseWf EventQueue.empty 0 s.worlds.queues = true
  maps : sparseWf [] 0 s.worlds.maps = true
  stage2 : sparseWf S2Entry.none 0 s.worlds.s2 = true
  slices : sparseWf Slice.reset 0 s.host.slices = true
  slice : ∀ e ∈ s.host.slices, e.2.canonical = true
  handles : sparseWf Handle.free 0 s.keys.table = true
  cache : sparseWf Partition.empty 0 s.keys.cache = true
  owners : sparseWf Owner.absent 0 s.trivet.owners = true
  engines : sparseWf Engine.reset 0 s.eng.table = true
  slots : sparseWf Slot.empty 0 s.eng.slots = true
  groups : sparseWf Group.reset 0 s.cld.groups = true
  cells : sparseWf Cell.reset 0 s.cld.cells = true
  channels : sparseWf Channel.reset 0 s.cld.channels = true
  accounts : sparseWf Account.reset 0 s.whisk.accounts = true
  srams : sparseWf Sram.reset 0 s.whisk.srams = true
  markets : sparseWf Market.empty 0 s.mkt.table = true
  ports : sparseWf Port.reset 0 s.mkt.ports = true
  stations : sparseWf Station.reset 0 s.cus.stations = true
  power : sparseWf PGroup.reset 0 s.power.groups = true
  log : s.stk.Ordered

/-- Two states agree on everything but the execution worlds, and there on everything but contexts and recipe memory. -/
def State.SameOutsideContexts (s t : State) : Prop :=
  t = { s with worlds := { s.worlds with ctxs := t.worlds.ctxs, recipe := t.worlds.recipe } }

/-- The interrupt status registers (R296). -/
def statusRegs : List Nat :=
  [intMod, intPwr, intSlc, intWsk, intKt, intCp, intBn, intCld, intTl, intCal, intMk, intSeal, intStr, intCus, intTmp,
    intStk, intAud]

/-- What reporting to software and to the log leaves: `t` differs from `s` at most in interrupt status bits that have been
set, events and the contexts that they woke (whose earlier stores a switch of worlds makes visible), messages and their
pending bits, and the log's ports. -/
structure Reports (s t : State) : Prop where
  frame : t = { s with
    regs := t.regs
    worlds := { s.worlds with ctxs := t.worlds.ctxs, queues := t.worlds.queues, recipe := t.worlds.recipe }
    host := { s.host with msgs := t.host.msgs, pba := t.host.pba }
    stk := { s.stk with ports := t.stk.ports, drop := t.stk.drop }
    waitingLog := t.waitingLog }
  regs : ∀ a, a ∉ statusRegs → t.reg a = s.reg a
  kept : ∀ a b, (s.reg a).getLsbD b = true → (t.reg a).getLsbD b = true

/-- The command answers a state that differs from `u` only by reports, and an interrupt status bit is set in it. -/
def Reported (c : Instr) (s u : State) (a b : Nat) : Prop :=
  Answers c s fun t => Reports u t ∧ (t.reg a).getLsbD b = true

/-- A command that Trivet, which runs without VIN too, carries out itself; and VIN's arrival (R401 to R403, R440). -/
def runsInDormant : Instr → Bool
  | .vinApplied _ | .tamperEvent _ _ | .vbatSample _ | .temperatureSample _ _ | .capacitorRecharged | .vbatLost => true
  | _ => false

/-- A state whose Trivet keeps what it holds through the next step: its canary holds, VBAT is present, and the step is not
the loss of VBAT in Dormant (R403). -/
def State.keepsTrivet (s : State) : Bool :=
  s.trivet.canary && s.trivet.vbat && (s.powered || s.pending.head? != some .vbatLost)

/-- The effective address of a load or store (R251). -/
def Context.address (c : Context) (w : Word) : DWord := c.greg (zRs1 w) + (zImm w).signExtend 64

/-- A context with the answer of a service: status and detail in g1, a value in g2 (R293). -/
def Context.answered (c : Context) (v : Verdict) (g2 : DWord) : Context :=
  (c.setG 1 (v.status.setWidth 64 ||| (v.detail.setWidth 64 <<< 16))).setG 2 g2

end Sys2Proof.Machine
end

