-- ==== Sys2Proof/Certificates/Slice0/Obligations.lean ====
section
/-! DEFINITION. The statements for the provers. -/

open Sys2Proof Sys2Proof.Machine

/-! ### The block as a whole -/

/-- With a command at the front of the queue, a step is that command with the queue's rest. -/
def Obligations.StepRunsTheFrontCommand : Prop :=
  ∀ (c : Instr) (rest : List Instr) (s : State), s.pending = c :: rest → step s = exec c { s with pending := rest }

/-- R31, R193: with no command waiting, one ECLK cycle passes: while VIN is present the timeline counter, with its fraction,
grows by the increment, in every timeline state; without VIN it stands. With no slice and no ATS invalidation to complete, nothing
else changes. The passing of time on an empty queue is the model's choice (assumption 1). -/
def Obligations.IdleStepIsOneCycle : Prop :=
  ∀ s : State, s.pending = [] →
    let count : BitVec 96 := (s.tl.ns ++ s.tl.frac : BitVec 96) + s.tl.inc.setWidth 96
    let trivet := if slowTicks s.now = slowTicks (s.now + 1) then s.trivet else { s.trivet with tick := s.trivet.tick + 1 }
    (s.powered = true → s.host.slices = [] → s.host.atsDue = 0 → step s = .next { s with
      now := s.now + 1, trivet := trivet
      tl := { s.tl with ns := count.extractLsb' 32 64, frac := count.extractLsb' 0 32 } }) ∧
    (s.powered = false → step s = .next { s with now := s.now + 1, trivet := trivet })

/-- Every command answers a next state in every state: the block neither faults nor refuses. -/
def EveryCommandAnswers : Prop := ∀ (c : Instr) (s : State), Answers c s fun _ => True

/-- What no command changes: the commands that wait behind it, device time, and the part's profile. Device time stands
between two cycles by the model's choice (assumption 1). -/
def CommandsKeepQueueAndTime : Prop :=
  ∀ (c : Instr) (s t : State), exec c s = .next t →
    t.pending = s.pending ∧ t.now = s.now ∧ t.fuses.profile = s.fuses.profile

/-- R301, R403, R407: whatever a step does, what the fuses hold burned stays burned: TRV_INIT, every disabled source, and
every kernel digest slot with its digest. -/
def Obligations.FusesStayBurned : Prop :=
  ∀ (s t : State), step s = .next t →
    (s.fuses.trvInit = true → t.fuses.trvInit = true) ∧
    (∀ n, n < 64 → s.fuses.sources.getLsbD n = true → t.fuses.sources.getLsbD n = true) ∧
    (∀ (n : Nat) (d : Bytes), s.fuses.kernel[n]? = some d → t.fuses.kernel[n]? = some d)

/-- R401, R440: in Dormant a command that is neither VIN's arrival nor Trivet's own has no effect at all. -/
def DormantIsInert : Prop :=
  ∀ (c : Instr) (s : State), s.modes.mode = .dormant → runsInDormant c = false → exec c s = .next s

/-- R440, Table 16.1: a step leaves Dormant only where VIN is applied, and then for Start-up. -/
def DormantEndsOnlyByVin : Prop :=
  ∀ (s t : State), s.modes.mode = .dormant → step s = .next t → t.modes.mode ≠ .dormant →
    t.modes.mode = .startup ∧ ∃ test rest, s.pending = .vinApplied test :: rest

/-- R441: while Trivet keeps what it holds, a step that finds RESUME 0xAA leaves it so unless it is the X of EVIDENCE_CLEAR in
Erased, and a step that finds RESUME 0x99 changes it only to 0xAA or by the X of RECOVERY_EXIT. -/
def Obligations.ResumePrecedence : Prop :=
  ∀ (s t : State), s.keepsTrivet = true → step s = .next t →
    (s.trivet.resume = 0xAA → t.trivet.resume = 0xAA ∨
      (s.modes.mode = .erased ∧ ∃ test rest, s.pending = .evidenceClear test :: rest)) ∧
    (s.trivet.resume = 0x99 → t.trivet.resume = 0x99 ∨ t.trivet.resume = 0xAA ∨
      ∃ test rest, s.pending = .recoveryExit test :: rest)

/-- The register file, the memories and the tables stay in their canonical forms, so that equal contents are equal data. -/
def Obligations.CanonicalFormsAreKept : Prop :=
  ∀ (s t : State), s.Canonical → step s = .next t → t.Canonical

/-- After the model's reset: the canonical forms hold, the mode is Start-up, Trivet is initialised with RESUME 0x55 and no
sticky flag, memory lists nothing, the timeline is UNSET at 0, no slice is active and no job runs; nothing is burned but
TRV_INIT (R193, R403, R441, R490). -/
def Obligations.ResetState : Prop :=
  State.reset.Canonical ∧ State.reset.modes.mode = .startup ∧ State.reset.trivet.resume = 0x55 ∧
  State.reset.trivet.flags = 0 ∧ State.reset.trivet.evCnt = 0 ∧ State.reset.fuses.trvInit = true ∧
  State.reset.fuses.sources = 0 ∧ State.reset.worlds.recipe = [] ∧ State.reset.tl.state = .unset ∧
  State.reset.tl.ns = 0 ∧ State.reset.host.slices = [] ∧ State.reset.eng.jobs = [] ∧ State.reset.pending = []

/-! ### Zenog: arithmetic, immediates, branches (09) -/

/-- R250: what each function of the ALU group writes to rd, and that nothing but rd, the PC and the retired count of the
executing context changes. -/
def Obligations.AluGroupResults : Prop :=
  ∀ (s : State) (n : BitVec 7) (w : Word), Executes s n w 0x01 →
    let c := s.ctx n.toNat
    let a := c.greg (zRs1 w)
    let b := c.greg (zRs2 w)
    let ok (i : Instr) (v : DWord) : Prop := exec i s = .next (s.withCtx n (c.writes (zRd w) v))
    (zFunc w = 0x00 → ok (.add n w) (a + b)) ∧
    (zFunc w = 0x01 → ok (.sub n w) (a - b)) ∧
    (zFunc w = 0x02 → ok (.and n w) (a &&& b)) ∧
    (zFunc w = 0x03 → ok (.or n w) (a ||| b)) ∧
    (zFunc w = 0x04 → ok (.xor n w) (a ^^^ b)) ∧
    (zFunc w = 0x05 → ok (.sll n w) (a <<< (b.toNat % 64))) ∧
    (zFunc w = 0x06 → ok (.srl n w) (a >>> (b.toNat % 64))) ∧
    (zFunc w = 0x07 → ok (.sra n w) (a.sshiftRight (b.toNat % 64))) ∧
    (zFunc w = 0x08 → ok (.cmps n w) (if a.toInt < b.toInt then -1 else if a = b then 0 else 1)) ∧
    (zFunc w = 0x09 → ok (.cmpu n w) (if a.toNat < b.toNat then -1 else if a = b then 0 else 1)) ∧
    (zFunc w = 0x0A → ok (.mul n w) (BitVec.ofNat 64 (a.toNat * b.toNat))) ∧
    (zFunc w = 0x0B → ok (.mulh n w) (BitVec.ofNat 64 (a.toNat * b.toNat / 2 ^ 64))) ∧
    (zFunc w = 0x0C → ok (.quou n w) (BitVec.ofNat 64 (a.toNat / b.toNat))) ∧
    (zFunc w = 0x0D → ok (.modu n w) (if b = 0 then 0 else BitVec.ofNat 64 (a.toNat % b.toNat))) ∧
    (zFunc w = 0x0E → ok (.minu n w) (if a.toNat < b.toNat then a else b)) ∧
    (zFunc w = 0x0F → ok (.maxu n w) (if a.toNat < b.toNat then b else a))

/-- R249: what each instruction with an immediate writes to rd, and that nothing but rd, the PC and the retired count of the
executing context changes. A shift's upper immediate bits and IMMH's rs1 field are zero. -/
def ImmediateResults : Prop :=
  ∀ (s : State) (n : BitVec 7) (w : Word), Executes s n w (zOp w) →
    let c := s.ctx n.toNat
    let a := c.greg (zRs1 w)
    let sx : DWord := (zImm w).signExtend 64
    let zx : DWord := (zImm w).setWidth 64
    let ok (i : Instr) (v : DWord) : Prop := exec i s = .next (s.withCtx n (c.writes (zRd w) v))
    (zOp w = 0x02 → ok (.addi n w) (a + sx)) ∧
    (zOp w = 0x03 → ok (.andi n w) (a &&& zx)) ∧
    (zOp w = 0x04 → ok (.ori n w) (a ||| zx)) ∧
    (zOp w = 0x05 → ok (.xori n w) (a ^^^ zx)) ∧
    (zOp w = 0x06 → ok (.cmpi n w) (if a.toInt < sx.toInt then -1 else if a = sx then 0 else 1)) ∧
    (zOp w = 0x07 → ok (.cmpiu n w) (if a.toNat < sx.toNat then -1 else if a = sx then 0 else 1)) ∧
    (zOp w = 0x08 → zImm w < 64 → ok (.slli n w) (a <<< (zImm w).toNat)) ∧
    (zOp w = 0x09 → zImm w < 64 → ok (.srli n w) (a >>> (zImm w).toNat)) ∧
    (zOp w = 0x0A → zImm w < 64 → ok (.srai n w) (a.sshiftRight (zImm w).toNat)) ∧
    (zOp w = 0x0B → zRs1 w = 0 → ok (.immh n w) (((zImm w).setWidth 32 * 65536 : Word).signExtend 64)) ∧
    (zOp w = 0x0C → ok (.shori n w) (a * 65536 ||| zx))

/-- R249: each branch goes to PC + 4 × off16 exactly where its comparison of rs1 with rs2 holds, and to PC + 4 elsewhere; a
jump also writes PC + 4 to rd. Nothing else of the state changes. -/
def BranchesAndJumps : Prop :=
  ∀ (s : State) (n : BitVec 7) (w : Word), Executes s n w (zOp w) →
    let c := s.ctx n.toNat
    let a := c.greg (zRd w)
    let b := c.greg (zRs1 w)
    let tgt : DWord := c.pc.setWidth 64 + 4 * (zImm w).signExtend 64
    let ok (i : Instr) (taken : Prop) [Decidable taken] : Prop :=
      (taken → tgt.toNat < 2 ^ 32) →
      exec i s = .next (s.withCtx n (c.retireTo (if taken then tgt.setWidth 32 else c.pc + 4)))
    let jump (i : Instr) (t : DWord) : Prop :=
      t.toNat < 2 ^ 32 → exec i s = .next (s.withCtx n ((c.setG (zRd w) (c.pc.setWidth 64 + 4)).retireTo (t.setWidth 32)))
    (zOp w = 0x20 → ok (.beq n w) (a = b)) ∧
    (zOp w = 0x21 → ok (.bne n w) (a ≠ b)) ∧
    (zOp w = 0x22 → ok (.blt n w) (a.toInt < b.toInt)) ∧
    (zOp w = 0x23 → ok (.bge n w) (b.toInt ≤ a.toInt)) ∧
    (zOp w = 0x24 → ok (.bltu n w) (a.toNat < b.toNat)) ∧
    (zOp w = 0x25 → ok (.bgeu n w) (b.toNat ≤ a.toNat)) ∧
    (zOp w = 0x26 → jump (.jal n w) (c.pc.setWidth 64 + 4 * (zOff21 w).signExtend 64)) ∧
    (zOp w = 0x27 → (c.greg (zRs1 w) + (zImm w).signExtend 64).toNat % 4 = 0 →
      jump (.jalr n w) (c.greg (zRs1 w) + (zImm w).signExtend 64))

/-! ### Zenog: memory (09) -/

/-- R251: an access is performed at the address that the maps give, and refused: at or above 2^32, off its alignment, or
untranslated, by the exception of its kind. -/
def MemoryAccessChecks : Prop :=
  ∀ (s : State) (c : Context) (ea : DWord) (width : Nat) (store : Bool),
    let cause : BitVec 5 := if store then 0x05 else 0x04
    let need : BitVec 3 := if store then permW else permR
    let r := s.access c ea width (!store) store
    (2 ^ 32 ≤ ea.toNat → r = .error ⟨cause, ea.setWidth 32, none⟩) ∧
    (ea.toNat < 2 ^ 32 → ea.toNat % width ≠ 0 → r = .error ⟨0x06, ea.setWidth 32, none⟩) ∧
    (ea.toNat < 2 ^ 32 → ea.toNat % width = 0 → s.ctxTranslate c need ea.toNat = none →
      r = .error ⟨cause, ea.setWidth 32, none⟩) ∧
    (ea.toNat < 2 ^ 32 → ea.toNat % width = 0 → ∀ p, s.ctxTranslate c need ea.toNat = some p →
      s.str.firstRefusal false c.attr true need p width = none → r = .ok p) ∧
    (ea.toNat < 2 ^ 32 → ea.toNat % width = 0 → ∀ p, s.ctxTranslate c permW ea.toNat = some p →
      s.str.firstRefusal false c.attr true (permR ||| permW) p width = none → s.access c ea width true true = .ok p)

/-- R246, R249, R251: what each load writes: the bytes at its address, which the context's own earlier stores shadow, extended
as the opcode says. On a hit no byte of memory changes, and nothing but rd, the PC and the retired count. On a miss of L2 the
load is made all the same, and its context waits for it. -/
def LoadResults : Prop :=
  ∀ (s : State) (n : BitVec 7) (w : Word), s.Canonical → Executes s n w (zOp w) →
    let c := s.ctx n.toNat
    let loads (i : L2Access → Instr) (width : Nat) (after : Nat → Context) : Prop :=
      ∀ p, s.access c (c.address w) width true false = .ok p →
        let d := after (ofLE (s.ctxRead c p width))
        exec (i .hit) s = .next (s.withCtx n d) ∧
        Answers (i .miss) s fun t =>
          let e := t.ctx n.toNat
          e.state = .waiting ∧ e.wait = .memory ∧ e.pc = d.pc ∧ e.g = d.g ∧ e.k = d.k ∧ e.level = c.level ∧
          e.retired = d.retired ∧ t.keys = s.keys ∧ t.eng = s.eng ∧ t.stk = s.stk
    let ok (i : L2Access → Instr) (width : Nat) (ext : Nat → DWord) : Prop := loads i width fun v => c.writes (zRd w) (ext v)
    (zOp w = 0x10 → ok (.lb n w) 1 fun v => (BitVec.ofNat 8 v).signExtend 64) ∧
    (zOp w = 0x11 → ok (.lbu n w) 1 fun v => BitVec.ofNat 64 v) ∧
    (zOp w = 0x12 → ok (.lh n w) 2 fun v => (BitVec.ofNat 16 v).signExtend 64) ∧
    (zOp w = 0x13 → ok (.lhu n w) 2 fun v => BitVec.ofNat 64 v) ∧
    (zOp w = 0x14 → ok (.lw n w) 4 fun v => (BitVec.ofNat 32 v).signExtend 64) ∧
    (zOp w = 0x15 → ok (.lwu n w) 4 fun v => BitVec.ofNat 64 v) ∧
    (zOp w = 0x16 → ok (.ld n w) 8 fun v => BitVec.ofNat 64 v) ∧
    (zOp w = 0x17 → (zRd w).getLsbD 4 = false → loads (.kld n w) 4 fun v => c.writesK ((zRd w).extractLsb' 0 4) (BitVec.ofNat 32 v))

/-- R246, R249, R251, R253: what each store does: the context then reads the stored bytes at its address and every other byte
as before; recipe memory, which the other contexts read, has no byte changed before a FENCE; and of the context itself
only the pending stores, the PC and the retired count change. On a miss of L2 the context waits besides, and a switch of
contexts makes its stores visible. -/
def StoreResults : Prop :=
  ∀ (s : State) (n : BitVec 7) (w : Word), s.Canonical → Executes s n w (zOp w) →
    let c := s.ctx n.toNat
    let ok (i : L2Access → Instr) (width : Nat) (v : DWord) : Prop :=
      ∀ p, s.access c (c.address w) width false true = .ok p →
        (Answers (i .hit) s fun t =>
          (∀ k, k < width → t.ctxByte (t.ctx n.toNat) (p + k) = v.extractLsb' (8 * k) 8) ∧
          (∀ a, a < p ∨ p + width ≤ a → t.ctxByte (t.ctx n.toNat) a = s.ctxByte c a) ∧
          t.worlds.recipe = s.worlds.recipe ∧
          t = s.withCtx n { c.retireTo (c.pc + 4) with stores := (t.ctx n.toNat).stores }) ∧
        (Answers (i .miss) s fun t =>
          let d := t.ctx n.toNat
          (∀ k, k < width → t.ctxByte d (p + k) = v.extractLsb' (8 * k) 8) ∧
          (∀ a, a < p ∨ p + width ≤ a → t.ctxByte d a = s.ctxByte c a) ∧
          d.state = .waiting ∧ d.wait = .memory ∧ d.pc = c.pc + 4 ∧ d.g = c.g ∧ d.k = c.k ∧ d.level = c.level)
    (zOp w = 0x18 → ok (.sb n w) 1 (c.greg (zRd w))) ∧
    (zOp w = 0x19 → ok (.sh n w) 2 (c.greg (zRd w))) ∧
    (zOp w = 0x1A → ok (.sw n w) 4 (c.greg (zRd w))) ∧
    (zOp w = 0x1B → ok (.sd n w) 8 (c.greg (zRd w))) ∧
    (zOp w = 0x1C → (zRd w).getLsbD 4 = false →
      ok (.kst n w) 4 ((c.k[((zRd w).extractLsb' 0 4).toNat]'(by omega)).setWidth 64))

/-- R252, R253: what each AMO does, after the context's earlier stores have become visible: the bytes at its address
become what the operation stores and every other byte of memory stays; rd becomes the old value, sign-extended from 4 B, or
for CLAIM whether it stored; LINK arms the watch on its line, CLAIM disarms it; the other
fields of the context stay. On a miss of L2 the context waits besides. -/
def Obligations.AmoResults : Prop :=
  ∀ (s : State) (n : BitVec 7) (w : Word), s.Canonical → Executes s n w 0x1D → (zFunc w).toNat < 16 →
    let c := s.ctx n.toNat
    let width := if (zFunc w).getLsbD 3 then 8 else 4
    let b := c.greg (zRs2 w)
    let m := (s.flushStores n.toNat).worlds.recipe
    let ok (i : L2Access → Instr) (stored : Nat → Nat → Option DWord) (res : Nat → DWord → DWord)
        (watch : Nat → Option (Nat × Nat)) : Prop :=
      ∀ p, s.access c (c.greg (zRs1 w)) width true true = .ok p → (Answers (i .hit) s fun t =>
        let raw := ofLE (memRead m p width)
        let old : DWord := if width = 8 then BitVec.ofNat 64 raw else (BitVec.ofNat 32 raw).signExtend 64
        let d := t.ctx n.toNat
        (stored p raw = none → ∀ a, memByte t.worlds.recipe a = memByte m a) ∧
        (∀ v, stored p raw = some v →
          (∀ k, k < width → memByte t.worlds.recipe (p + k) = v.extractLsb' (8 * k) 8) ∧
          (∀ a, a < p ∨ p + width ≤ a → memByte t.worlds.recipe a = memByte m a)) ∧
        d = { (c.writes (zRd w) (res p old)) with stores := [], watch := watch p } ∧
        s.SameOutsideContexts t) ∧
        Answers (i .miss) s fun t =>
          let old := ofLE (memRead m p width)
          let d := t.ctx n.toNat
          let e := c.writes (zRd w) (res p (if width = 8 then BitVec.ofNat 64 old else (BitVec.ofNat 32 old).signExtend 64))
          d.state = .waiting ∧ d.wait = .memory ∧ d.g = e.g ∧ d.pc = e.pc ∧ d.k = c.k ∧ d.watch = watch p ∧ d.stores = []
    let line (p : Nat) : Bool := match c.watch with | some x => decide (x.1 = p / 64 ∧ s.now < x.2 + 512) | none => false
    let old (v : Nat) : DWord := BitVec.ofNat 64 v
    ((zFunc w).toNat % 8 = 0 → zRs2 w = 0 →
      ok (.link n w) (fun _ _ => none) (fun _ o => o) fun p => some (p / 64, s.now)) ∧
    ((zFunc w).toNat % 8 = 1 →
      ok (.claim n w) (fun p _ => if line p then some b else none) (fun p _ => if line p then 1 else 0)
        fun _ => none) ∧
    ((zFunc w).toNat % 8 = 2 → ok (.xchg n w) (fun _ _ => some b) (fun _ o => o) fun _ => c.watch) ∧
    ((zFunc w).toNat % 8 = 3 → ok (.fadd n w) (fun _ v => some (old v + b)) (fun _ o => o) fun _ => c.watch) ∧
    ((zFunc w).toNat % 8 = 4 → ok (.fand n w) (fun _ v => some (old v &&& b)) (fun _ o => o) fun _ => c.watch) ∧
    ((zFunc w).toNat % 8 = 5 → ok (.amoFor n w) (fun _ v => some (old v ||| b)) (fun _ o => o)
      fun _ => c.watch) ∧
    ((zFunc w).toNat % 8 = 6 →
      ok (.cas n w) (fun _ v => if v = (c.greg (zRd w)).toNat % 256 ^ width then some b else none)
        (fun _ o => o) fun _ => c.watch)

/-- R253: FENCE makes every earlier store of its context visible: every byte of recipe memory is then what the context read
there before, and of the context only the pending stores, the PC and the retired count change. -/
def FenceMakesStoresVisible : Prop :=
  ∀ (s : State) (n : BitVec 7) (w : Word), s.Canonical → Executes s n w 0x1E → w.setWidth 26 = (0 : BitVec 26) →
    let c := s.ctx n.toNat
    Answers (.fence n w) s fun t =>
      (∀ a, memByte t.worlds.recipe a = s.ctxByte c a) ∧
      t.ctx n.toNat = { c.retireTo (c.pc + 4) with stores := [] } ∧
      s.SameOutsideContexts t

/-! ### Zenog: handle registers, the system group, exceptions (09) -/

/-- R249, R254: KFROMG writes the low half of rs1 to a k register, KTOG a k register, zero-extended, to rd, and nothing else
of the state but the PC and the retired count changes; bit 4 of a k field is zero. -/
def HandleRegisterMoves : Prop :=
  ∀ (s : State) (n : BitVec 7) (w : Word), Executes s n w 0x28 → zRs2 w = 0 →
    let c := s.ctx n.toNat
    (zFunc w = 0 → (zRd w).getLsbD 4 = false →
      exec (.kfromg n w) s =
        .next (s.withCtx n (c.writesK ((zRd w).extractLsb' 0 4) ((c.greg (zRs1 w)).extractLsb' 0 32)))) ∧
    (zFunc w = 1 → (zRs1 w).getLsbD 4 = false →
      exec (.ktog n w) s =
        .next (s.withCtx n (c.writes (zRd w) ((c.k[((zRs1 w).extractLsb' 0 4).toNat]'(by omega)).setWidth 64))))

/-- R249, R246, R293: NOP, and GPAD at S, only retire. YIELD leaves its context READY and HALT HALTED, and the core then runs
the next READY context in ascending number, wrapping, itself last. -/
def SystemInstructions : Prop :=
  ∀ (s : State) (n : BitVec 7) (w : Word), Executes s n w (zOp w) → w.setWidth 26 &&& 0x3FFF800#26 = 0 →
    let c := s.ctx n.toNat
    let d := c.retireTo (c.pc + 4)
    (zOp w = 0x3F → zFunc w = 0 → exec (.nop n w) s = .next (s.withCtx n d)) ∧
    (zOp w = 0x3D → zFunc w = 0 → c.level = .s → exec (.gpad n w) s = .next (s.withCtx n d)) ∧
    (zOp w = 0x3F → zFunc w = 1 →
      exec (.yield n w) s = .next (s.after ((s.withCtx n { d with state := .ready }).switchFrom n.toNat))) ∧
    (zOp w = 0x3F → zFunc w = 2 →
      exec (.halt n w) s = .next (s.after ((s.withCtx n { d with state := .halted }).switchFrom n.toNat)))

/-- R246: when no context of a core runs, the next READY one in ascending number from a context on, wrapping, runs; a core
without a READY context idles. -/
def CoreSwitches : Prop :=
  ∀ (s : State) (n : Nat), n < 128 → s.Canonical →
    (∀ k, k / 8 = n / 8 → (s.ctx k).state ≠ .running) →
    ((∀ k, k / 8 = n / 8 → (s.ctx k).state ≠ .ready) → s.switchFrom n = s) ∧
    ∀ i, i < 8 → let m := n / 8 * 8 + (n + 1 + i) % 8
      (s.ctx m).state = .ready →
      (∀ j, j < i → (s.ctx (n / 8 * 8 + (n + 1 + j) % 8)).state ≠ .ready) →
      ((s.switchFrom n).ctx m).state = .running ∧
      ∀ k, k / 8 = n / 8 → k ≠ m → ((s.switchFrom n).ctx k).state = (s.ctx k).state

/-- R267, R268, R249: BRK, and at any Zenog command a word that is not listed, is an exception of its context: at N and H it
becomes FAULTED with its cause and value, its PC stays at the instruction and it writes no register. -/
def Obligations.ExceptionsStopTheContext : Prop :=
  ∀ (s : State) (n : BitVec 7) (w : Word), s.Canonical → Fetches s n → (s.ctx n.toNat).level ≠ .s →
    let c := s.ctx n.toNat
    let faults (i : Instr) (cause : BitVec 5) (tval : Word) : Prop := Answers i s fun t =>
      let d := t.ctx n.toNat
      d.state = .faulted ∧ d.cause = cause ∧ d.tval = tval ∧ d.pc = c.pc ∧ d.g = c.g ∧ d.k = c.k ∧ d.level = c.level ∧
      d.retired = c.retired ∧ t.modes = s.modes ∧ t.keys = s.keys ∧ t.eng = s.eng
    (zOp w = 0x3F → zFunc w = 3 → w.setWidth 26 = 3#26 → faults (.brk n w) 0x0B 0) ∧
    (zOp w = 0x01 → 0x0F < (zFunc w).toNat % 64 → faults (.add n w) 0x01 w) ∧
    (zOp w = 0x01 → (zFunc w).toNat % 64 = 1 → 64 ≤ (zFunc w).toNat → faults (.sub n w) 0x01 w) ∧
    (zOp w = 0x00 → faults (.nop n w) 0x01 w) ∧
    (zOp w = 0x1D → (zFunc w).toNat % 8 = 7 → ∀ l2, faults (.cas n w l2) 0x01 w) ∧
    (zOp w = 0x3D → w.setWidth 26 = 0#26 → faults (.gpad n w) 0x02 w) ∧
    (zOp w = 0x3E → w.setWidth 26 = 0#26 → faults (.gret n w) 0x02 w) ∧
    (zOp w = 0x27 → (c.greg (zRs1 w) + (zImm w).signExtend 64).toNat % 4 ≠ 0 →
      faults (.jalr n w) 0x06 ((c.greg (zRs1 w) + (zImm w).signExtend 64).setWidth 32))

/-! ### Zenog: time, events, job queues (09) -/

/-- R264: TLREAD writes the timeline counter as it stands to rd, in every timeline state; TL_STS reads the state. -/
def Obligations.TlreadReadsTheTimeline : Prop :=
  ∀ (s : State) (n : BitVec 7) (w : Word), Executes s n w 0x37 → w.setWidth 21 = (0 : BitVec 21) →
    exec (.tlread n w) s = .next (s.withCtx n ((s.ctx n.toNat).writes (zRd w) s.tl.ns)) ∧
    ((s.readReg .s 0x0B0000).extractLsb' 0 2).toNat = s.tl.state.code


/-- R265, R207: TLWAIT returns WAKE_OK at once for a target that has passed, WAKE_REFUSED at once for one of 2^54 µs or more
or one whose entry finds no place, and otherwise waits with its entry in the calendar. -/
def TlwaitOutcomes : Prop :=
  ∀ (s : State) (n : BitVec 7) (w : Word), Executes s n w 0x38 → w.setWidth 16 = (0 : BitVec 16) →
    let c := s.ctx n.toNat
    let t := c.greg (zRs1 w)
    let answer (v : DWord) (u : State) : Prop := exec (.tlwait n w) s = .next (s.after (u.withCtx n (c.writes (zRd w) v)))
    (t.toNat ≤ s.tl.ns.toNat → answer 0 s) ∧
    (s.tl.ns.toNat < t.toNat → 2 ^ 54 ≤ (t.toNat + 999) / 1000 → answer 3 s) ∧
    (s.tl.ns.toNat < t.toNat → (t.toNat + 999) / 1000 < 2 ^ 54 →
      (c.level = .s ∨ (s.modes.mode ≠ .startup ∧ s.modes.mode ≠ .erased)) →
      ∀ r, s.calAdd false (wakeEntry c n.toNat ((t.toNat + 999) / 1000)) = .ok r →
        exec (.tlwait n w) s = .next (s.after ((r.2.advance n.toNat).waitFor n.toNat (.tlwait (zRd w)))))

/-- R266: EVWAIT takes the oldest event of its context's queue into its two registers; on an empty queue POLL writes zero to
both, and without POLL the context waits. -/
def EvwaitOutcomes : Prop :=
  ∀ (s : State) (n : BitVec 7) (w : Word), Executes s n w 0x39 → zRs1 w = 0 → (zFunc w).toNat < 2 →
    let c := s.ctx n.toNat
    let q := sparseGet EventQueue.empty s.worlds.queues c.queueKey
    (∀ e es, q.events = e :: es → Answers (.evwait n w) s fun t =>
      t.ctx n.toNat =
        ((c.setG (zRd w) (e.tag ++ e.arg)).setG (zRs2 w) ((e.kind.setWidth 32 : Word) ++ e.index)).retireTo (c.pc + 4) ∧
      t.worlds.queues = sparseSet EventQueue.empty s.worlds.queues c.queueKey { q with events := es } ∧
      t.worlds.recipe = s.worlds.recipe) ∧
    (q.events = [] → zFunc w = 1 → exec (.evwait n w) s =
      .next (s.withCtx n (((c.setG (zRd w) 0).setG (zRs2 w) 0).retireTo (c.pc + 4)))) ∧
    (q.events = [] → zFunc w = 0 → s.Canonical → Answers (.evwait n w) s fun t =>
      let d := t.ctx n.toNat
      d.state = .waiting ∧ d.wait = .evwait (zRd w) (zRs2 w) ∧ d.pc = c.pc + 4 ∧ d.g = c.g ∧ d.k = c.k)

/-- R263, R261, R258: on an enabled queue JQWAIT writes CDONE at once where CDONE − rs1 lies from 1 to 2^31 and waits
elsewhere; JQINV writes whether it dropped a posted entry's copy. A disabled queue is JQ_CONFIG for both. -/
def QueueWaitsAndInvalidation : Prop :=
  ∀ (s : State) (n : BitVec 7) (w : Word), Executes s n w (zOp w) → (zQ w).toNat < 4 → zSel w = 0 →
    let c := s.ctx n.toNat
    let q : BitVec 2 := (zQ w).extractLsb' 0 2
    let x := c.queue q
    let r : Word := (c.greg (zRs1 w)).extractLsb' 0 32
    let met := 1 ≤ (x.cdone - r).toNat ∧ (x.cdone - r).toNat ≤ 2 ^ 31
    let posted (e : CachedEntry) : Bool := e.q == q && e.index == r && !s.jobBegun n.toNat q e
    (x.enable = true → zOp w = 0x36 → met →
      exec (.jqwait n w) s = .next (s.withCtx n (c.writes (zRd w) (x.cdone.setWidth 64)))) ∧
    (x.enable = true → zOp w = 0x36 → ¬met → s.Canonical → Answers (.jqwait n w) s fun t =>
      let d := t.ctx n.toNat
      d.state = .waiting ∧ d.wait = .jqwait (zRd w) q r ∧ d.pc = c.pc + 4 ∧ d.g = c.g ∧ d.queues = c.queues) ∧
    (x.enable = true → zOp w = 0x35 → c.dcache.any posted = true →
      exec (.jqinv n w) s = .next (s.withCtx n { c.writes (zRd w) 1 with
        dcache := c.dcache.map fun e => if posted e then { e with copy := none, k := c.k } else e })) ∧
    (x.enable = true → zOp w = 0x35 → c.dcache.any posted = false →
      exec (.jqinv n w) s = .next (s.withCtx n (c.writes (zRd w) 0))) ∧
    (x.enable = false → zOp w = 0x36 →
      exec (.jqwait n w) s = .next (s.after (s.exception n.toNat 0x08 ((zQ w).setWidth 32)))) ∧
    (x.enable = false → zOp w = 0x35 →
      exec (.jqinv n w) s = .next (s.after (s.exception n.toNat 0x08 ((zQ w).setWidth 32))))

/-- R260, R259: JQPOST of one entry that opens a chain holds its copy, with the k registers' values put in as the header says,
and moves TAIL past it, unless the entry's line misses L2 and the context waits for it (R246); a count above SIZE, or a post
over completions not yet taken, is JQ_OVERRUN. -/
def JqpostHoldsEntries : Prop :=
  ∀ (s : State) (n : BitVec 7) (w : Word) (host : List Bytes), s.Canonical → Executes s n w 0x34 →
    (zQ w).toNat < 4 → zSel w = 0 → zRd w = 0 →
    let c := s.ctx n.toNat
    let q : BitVec 2 := (zQ w).extractLsb' 0 2
    let x := c.queue q
    let r : Word := (c.greg (zRs1 w)).extractLsb' 0 32
    let size := 2 ^ x.sizeLog2.toNat
    let m := (s.flushStores n.toNat).worlds.recipe
    (x.enable = false →
      exec (.jqpost n w host) s = .next (s.after (s.exception n.toNat 0x08 ((zQ w).setWidth 32)))) ∧
    (x.enable = true → (size < (r - x.tail).toNat ∨ size < (r - x.chead).toNat) →
      exec (.jqpost n w host) s = .next (s.after (s.exception n.toNat 0x09 r))) ∧
    (x.enable = true → r = x.tail + 1 → (r - x.chead).toNat ≤ size → c.cached < 64 → x.openAt = none →
      ∀ p, s.ctxTranslate c permR (x.slotAt x.tail) = some p → s.str.firstRefusal false c.attr true permR p 64 = none →
      let raw := memRead m p 64
      entryBad raw = false → entryFirst raw = true → entryLast raw = false →
      Answers (.jqpost n w host) s fun t =>
        let d := t.ctx n.toNat
        if c.dline ≠ some (p / 64) ∧ Config.l2Miss s.now (p / 64) = true then
          d.state = .waiting ∧ d.wait = .memory ∧ d.pc = c.pc ∧ d.g = c.g ∧ d.queues = c.queues ∧ d.dcache = c.dcache
        else
          d = { c.retireTo (c.pc + 4) with
            stores := []
            queues := c.queues.set q.toNat { x with tail := x.tail + 1, openAt := some x.tail }
            dcache := c.dcache ++ [{ q := q, index := x.tail, job := none, copy := some (substituteK c.k raw), k := c.k }] } ∧
          t.worlds.recipe = m ∧ t.eng = s.eng ∧ s.SameOutsideContexts t)

/-! ### Zenog: waking, special registers, gate calls, context control (09, 10) -/

/-- R246: a WAITING context whose condition is met becomes READY, and RUNNING on a core that idles; of its registers only the
one that JQWAIT names changes, to CDONE. One whose condition is not met stays. -/
def ContextWakes : Prop :=
  ∀ (s : State) (n : BitVec 7), s.Canonical → s.powered = true → (s.ctx n.toNat).state = .waiting →
    let c := s.ctx n.toNat
    let wakes (g : Option (BitVec 5)) (v : DWord) : Prop := Answers (.contextWake n) s fun t =>
      let d := t.ctx n.toNat
      d.state = (if s.worlds.ctxs.any (fun e => coreOf e.1 == coreOf n.toNat && e.2.state == .running) then .ready
        else .running) ∧
      d.wait = .none ∧ d.pc = c.pc ∧ d.k = c.k ∧ d.level = c.level ∧
      d.g = (match g with | some rd => (c.setG rd v).g | none => c.g)
    (c.wait = .memory ∨ c.wait = .special ∨ (c.wait = .dcache ∧ c.cached < 64) → wakes none 0) ∧
    (c.wait = .admission → exec (.contextWake n) s = .next s) ∧
    (c.wait = .dcache → 64 ≤ c.cached → exec (.contextWake n) s = .next s) ∧
    (∀ rd q target, c.wait = .jqwait rd q target →
      let d := (c.queue q).cdone
      if 1 ≤ (d - target).toNat ∧ (d - target).toNat ≤ 2 ^ 31 then wakes (some rd) (d.setWidth 64)
      else exec (.contextWake n) s = .next s)

/-- R255 to R257: SRR and SRR64 write the selected register or pair to rd, zero-extended; SRW and SRW64 write the selected
register or pair from rs1 after the instruction has retired. Block 31 is the context's own. -/
def SpecialRegisterAccess : Prop :=
  ∀ (s : State) (n : BitVec 7) (w : Word), Executes s n w (zOp w) → zQ w = 0 →
    let c := s.ctx n.toNat
    let a := selBlock w * 0x10000 + selOff w
    let own := selBlock w = 31
    let read (i : Nat) : Word := if own then s.coreReg n.toNat (selOff w + 4 * i) else s.readReg (c.accessor n.toNat) (a + 4 * i)
    let retired (d : Context) : State := if own then s.withCtx n d else (s.withCtx n d).waitFor n.toNat .special
    let write (u : State) (i : Nat) (v : Word) : State :=
      if own then u.writeCore n.toNat (selOff w + 4 * i) v else u.writeReg (c.accessor n.toNat) (a + 4 * i) v
    (zOp w = 0x30 → zRs1 w = 0 → s.srCheck n.toNat w 1 false = none →
      exec (.srr n w) s = .next (s.after (retired (c.writes (zRd w) ((read 0).setWidth 64))))) ∧
    (zOp w = 0x32 → zRs1 w = 0 → s.srCheck n.toNat w 2 false = none →
      exec (.srr64 n w) s = .next (s.after (retired (c.writes (zRd w) (read 1 ++ read 0))))) ∧
    (zOp w = 0x31 → zRd w = 0 → s.srCheck n.toNat w 1 true = none →
      exec (.srw n w) s =
        .next (s.after (write (retired (c.retireTo (c.pc + 4))) 0 ((c.greg (zRs1 w)).extractLsb' 0 32)))) ∧
    (zOp w = 0x33 → zRd w = 0 → s.srCheck n.toNat w 2 true = none →
      exec (.srw64 n w) s =
        .next (s.after (write (write (retired (c.retireTo (c.pc + 4))) 0 ((c.greg (zRs1 w)).extractLsb' 0 32))
          1 ((c.greg (zRs1 w)).extractLsb' 32 32))))

/-- R255, R256: a pair at an odd selector is MISALIGN; a block from 21 to 30 and, from level N, the context control registers
are SR_DENIED; the core-local block is otherwise open to its context. -/
def SpecialRegisterChecks : Prop :=
  ∀ (s : State) (n : Nat) (w : Word) (write : Bool),
    let denied (k : Nat) : Prop := s.srCheck n w k write = some (s.exception n 0x07 ((zSel w).setWidth 32))
    (selOff w % 8 ≠ 0 → s.srCheck n w 2 write = some (s.exception n 0x06 ((zSel w).setWidth 32))) ∧
    (21 ≤ selBlock w → selBlock w < 31 → denied 1) ∧
    (selBlock w = 31 → (s.ctx n).level = .n → 0x100 ≤ selOff w → selOff w ≤ 0x114 → denied 1) ∧
    (selBlock w = 31 → ((s.ctx n).level ≠ .n ∨ selOff w < 0x100) → s.srCheck n w 1 write = none)

/-- R291, R293, R283: while the kernel runs, GATE through an entry that admits its caller enters the kernel at TARGET + 4 at
level S under map 65, and keeps the return PC, the level, rd and the map in its frame. Without a running kernel it writes
SVC_UNAVAILABLE to rd. GRET gives g1 to the caller's rd, unless that is g0, and the caller's level, map and PC back. -/
def GateCalls : Prop :=
  ∀ (s : State) (n : BitVec 7) (w : Word), s.Canonical → Executes s n w (zOp w) →
    let c := s.ctx n.toNat
    (zOp w = 0x3C → zRs1 w = 0 → c.level ≠ .s → s.worlds.kstate ≠ .running →
      exec (.gate n w) s = .next (s.withCtx n (c.writes (zRd w) 0x0502))) ∧
    (zOp w = 0x3C → zRs1 w = 0 → c.level ≠ .s → s.worlds.kstate = .running →
      s.gateTarget c.level (zImm w).toNat = none →
      exec (.gate n w) s = .next (s.after (s.exception n.toNat 0x0A ((zImm w).setWidth 32)))) ∧
    (zOp w = 0x3C → zRs1 w = 0 → c.level ≠ .s → s.worlds.kstate = .running →
      ∀ target, s.gateTarget c.level (zImm w).toNat = some target → Answers (.gate n w) s fun t =>
        t.ctx n.toNat = { c with
          stores := [], level := .s, map := sparseGet [] s.worlds.maps 65, pc := BitVec.ofNat 32 (target + 4)
          retired := c.retired + 1, watch := (t.ctx n.toNat).watch
          gate := some { pc := c.pc + 4, level := c.level, rd := zRd w, map := c.map } } ∧
        s.SameOutsideContexts t) ∧
    (zOp w = 0x3E → w.setWidth 26 = (0 : BitVec 26) → c.level = .s → c.gate = none →
      exec (.gret n w) s = .next (s.after (s.exception n.toNat 0x01 w))) ∧
    (zOp w = 0x3E → w.setWidth 26 = (0 : BitVec 26) → c.level = .s → c.resetHeld = false →
      ∀ f, c.gate = some f → Answers (.gret n w) s fun t =>
        let d := t.ctx n.toNat
        d.g = (c.setG f.rd (c.greg 1)).g ∧ d.k = c.k ∧ d.level = f.level ∧ d.map = f.map ∧ d.pc = f.pc ∧
        d.gate = none ∧ d.state = .running ∧ s.SameOutsideContexts t)

/-- R269, R279, R283, R247, R293: START clears the registers of the selected context and binds its level's map at its PC, RESUME
moves a FAULTED context with its registers kept, RESET returns it to IDLE with its registers cleared and its queues
disabled, but inside a gate call only at its GRET. Context 0 starts at S only. A level controls only the contexts that
R269 gives it. -/
def ContextControl : Prop :=
  ∀ (s : State) (n : BitVec 7), s.Canonical → s.powered = true → (s.ctx n.toNat).state = .running →
    let c := s.ctx n.toNat
    let x := s.ctx c.sel.toNat
    let map := sparseGet [] s.worlds.maps (match x.ctlLevel with | .n => x.ctlSlice.toNat | .h => 64 | .s => 65)
    let free := x.state = .idle ∨ x.state = .halted ∨ x.state = .faulted
    (c.level = .s → (x.ctlLevel = .s ∨ (s.modes.mode ≠ .startup ∧ s.modes.mode ≠ .erased)) → free →
      (c.sel = 0 → x.ctlLevel = .s) → map ≠ [] →
      Answers (.ctxStart n) s fun t =>
        let d := t.ctx c.sel.toNat
        (d.state = .ready ∨ d.state = .running) ∧ d.wait = .none ∧ d.g = Vector.replicate 32 0 ∧
        d.k = Vector.replicate 16 0 ∧ d.pc = x.pc ∧ d.level = x.ctlLevel ∧ d.map = map ∧ d.scratch0 = 0 ∧
        d.scratch1 = 0 ∧ (x.ctlLevel = .n → d.slice = x.ctlSlice)) ∧
    (c.level = .s → c.sel = 0 → x.ctlLevel ≠ .s → exec (.ctxStart n) s = .next s) ∧
    (c.level = .s → ¬free → exec (.ctxStart n) s = .next s) ∧
    (c.level = .s → x.state = .faulted → Answers (.ctxResume n) s fun t =>
      let d := t.ctx c.sel.toNat
      (d.state = .ready ∨ d.state = .running) ∧ d.wait = .none ∧ d.g = x.g ∧ d.k = x.k ∧ d.pc = x.pc ∧ d.level = x.level) ∧
    (c.level = .s → x.state ≠ .faulted → exec (.ctxResume n) s = .next s) ∧
    (c.level = .s → x.gate = none → s.eng.jobs = [] → Answers (.ctxReset n) s fun t =>
      let d := t.ctx c.sel.toNat
      d.state = .idle ∧ d.g = Vector.replicate 32 0 ∧ d.k = Vector.replicate 16 0 ∧ d.dcache = [] ∧ d.watch = none ∧
      ∀ q, (d.queue q).enable = false) ∧
    (c.level = .s → x.gate ≠ none → exec (.ctxReset n) s = .next (s.withCtx c.sel { x with resetHeld := true })) ∧
    (c.level = .h → x.startLevel ≠ .n → ∀ i ∈ [Instr.ctxStart n, .ctxResume n, .ctxReset n], exec i s = .next s) ∧
    (c.level = .n → ∀ i ∈ [Instr.ctxStart n, .ctxResume n, .ctxReset n],
      exec i s = .next (s.after (s.exception n.toNat 0x07 0xFC1)))

/-- R252: 512 cycles after the LINK the context's link watch is disarmed; nothing else changes. -/
def LinkWatchExpires : Prop :=
  ∀ (s : State) (n : BitVec 7), s.powered = true →
    exec (.linkWatchExpiry n) s = .next (s.withCtx n { s.ctx n.toNat with watch := none })

/-! ### Modes, Start-up, resets (16) -/

/-- A self-test that finds no failure. -/
def passingTest : SelfTest := { failed := [], sram := false }

/-- The engines right after a reset: at their reset values, but that every cipher engine's mask generator waits for the seed
that Start-up asks for (R105). -/
def enginesReset (t : State) : Prop :=
  t.eng = { Engines.reset with table := t.eng.table } ∧
  ∀ c n, t.engine c n = if c = .cipher ∧ n < 128 then { Engine.reset with reseedPend := true } else Engine.reset

/-- Trivet as a reset finds it: the generation of a ceremony that it cuts off is undone (R378, R381), unless its X has run. -/
def undoneTrivet (s : State) : Trivet :=
  match s.cus.running with
  | some c => if c.ending = some 0 then s.trivet else (s.undoGeneration c).trivet
  | none => s.trivet

/-- R440, R446, R449, R403: VIN in Dormant with the canary valid is a power-on reset: Start-up, with the fuses kept, Trivet kept
but for VBAT_LOW, the reading of VBAT (Table 14.9) and what a ceremony cut off had generated, and every table outside them at
its reset value. No evidence has a copy in the emptied Stockpot (R405). VIN's loss is Dormant, and LAST_MODE holds the mode that
was left; the mesh sequences on VBAT start from TRV_TICK (assumption 106). -/
def VinAppliedAndLost : Prop :=
  ∀ s : State,
    (s.modes.mode = .dormant → s.trivet.canary = true → Answers (.vinApplied passingTest) s fun t =>
      t.modes.mode = .startup ∧ t.modes.lastReset = .powerOn ∧ t.modes.steps = 3 ∧ t.modes.failed = false ∧
      t.trivet = { undoneTrivet s with
        cold := false, vbatLow := false, vbatMv := 0
        evidence := s.trivet.evidence.map fun e => (e.1, { e.2 with copied := false }) } ∧
      (s.trivet.cap.toNat < 2 → (t.reg 0x110050).getLsbD 3 = true) ∧
      t.fuses = s.fuses ∧ t.keys = KeyTree.reset ∧ enginesReset t ∧
      t.tl = Timeline.reset ∧ t.cal = Calendar.reset ∧ t.mkt = Markets.reset ∧ t.worlds = Worlds.reset ∧
      t.str = Strainer.reset ∧ t.cus = Custodians.reset ∧ t.power = Power.reset ∧ t.tamper = Tamper.reset) ∧
    (s.modes.mode ≠ .dormant → exec (.vinApplied passingTest) s = .next s) ∧
    (s.modes.mode ≠ .dormant → s.trivet.vbat = true → s.tamper.erasing = false →
      exec .vinLost s = .next { s with
        modes := { s.modes with mode := .dormant }, tamper := Tamper.reset
        trivet := { s.trivet with lastMode := s.modes.mode.code, mesh := s.trivet.tick.setWidth 31 } }) ∧
    (s.modes.mode ≠ .dormant → s.trivet.vbat = false → Answers .vinLost s fun t =>
      t.modes.mode = .dormant ∧ t.trivet.canary = false ∧ t.trivet.roots = [] ∧ t.trivet.owners = [] ∧
      t.trivet.authorities = [] ∧ t.trivet.evidence = [] ∧ t.fuses = s.fuses)

/-- R403: with the canary lost, the first VIN ever initialises Trivet with RESUME 0x55 and burns TRV_INIT; a later one finds
Trivet cold: RESUME 0xAA, the flag of source 9 set with evidence of cause COLD. VBAT's loss in Dormant loses the canary. -/
def CanaryChecks : Prop :=
  ∀ s : State, s.modes.mode = .dormant →
    (s.trivet.canary = false → s.fuses.trvInit = false → Answers (.vinApplied passingTest) s fun t =>
      t.trivet.canary = true ∧ t.trivet.cold = true ∧ t.trivet.resume = 0x55 ∧ t.trivet.flags = 0 ∧
      t.trivet.roots = [] ∧ t.trivet.owners = [] ∧ t.fuses.trvInit = true ∧ t.modes.mode = .startup) ∧
    (s.trivet.canary = false → s.fuses.trvInit = true → Answers (.vinApplied passingTest) s fun t =>
      t.trivet.canary = true ∧ t.trivet.cold = true ∧ t.trivet.resume = 0xAA ∧ t.trivet.flags = 1#64 <<< 9 ∧
      t.trivet.cause = 0x21 ∧ t.trivet.roots = [] ∧ t.trivet.owners = [] ∧ t.trivet.evCnt = 1 ∧
      t.modes.mode = .startup) ∧
    (Answers .vbatLost s fun t => t.trivet.canary = false ∧ t.trivet.vbat = false ∧ t.trivet.roots = [] ∧
      t.trivet.owners = [] ∧ t.modes = s.modes ∧ t.fuses = s.fuses) ∧
    ∀ u : State, u.modes.mode ≠ .dormant →
      exec .vbatLost u = .next { u with trivet := { u.trivet with vbat := false } }

/-- R447: the mode at the end of Start-up is that of the first row whose condition holds: RESUME 0xAA; a failure or RESUME
0x99; a RESUME that is no intent; RESUME 0x66 with owner 0 LIVE and no sticky flag; the rest. RESUME becomes that mode, unless
it is Recovery or Erased (Table 16.1), and MOD_WMARK.LOCK is set (R446). Before every step has ended nothing happens. -/
def Obligations.StartUpEndsInTheModeOfR447 : Prop :=
  ∀ s : State, s.powered = true →
    let r := s.trivet.resume
    let owner0 := sparseGet Owner.absent s.trivet.owners 0
    (s.startupDone = false → exec .startUpEnd s = .next s) ∧
    (s.startupDone = true → Answers .startUpEnd s fun t =>
      (r = 0xAA → t.modes.mode = .erased ∧ t.trivet.resume = r) ∧
      (r ≠ 0xAA → (s.modes.failed = true ∨ r = 0x99) → t.modes.mode = .recovery ∧ t.trivet.resume = r) ∧
      (r ≠ 0xAA → s.modes.failed = false → r ≠ 0x99 → r ≠ 0x55 → r ≠ 0x66 →
        t.modes.mode = .recovery ∧ t.trivet.resume = r ∧ t.trivet.cause = 0x0B) ∧
      (s.modes.failed = false → r = 0x66 → owner0.state = .live → s.trivet.flags = 0 →
        t.modes.mode = .service ∧ t.trivet.resume = 0x66) ∧
      (s.modes.failed = false → (r = 0x55 ∨ (r = 0x66 ∧ (owner0.state ≠ .live ∨ s.trivet.flags ≠ 0))) →
        t.modes.mode = .commissioning ∧ t.trivet.resume = 0x55) ∧
      t.worlds.wmarkLock = true ∧ t.keys = s.keys ∧ t.trivet.flags = s.trivet.flags ∧ t.trivet.owners = s.trivet.owners)

/-- R446, R448: TL_WAIT's end is a step of Start-up once READY was set without lock, and a missing READY is a Start-up failure
that heads for Recovery with cause SW_READY. -/
def StartUpTimeouts : Prop :=
  ∀ s : State, s.powered = true →
    let waits := s.modes.mode = .startup ∧ s.modes.steps.getLsbD 4 = true ∧ s.modes.steps.getLsbD 5 = false
    let s1 : State := { s with modes := { s.modes with steps := s.modes.steps ||| 64 } }
    (waits → s1.startupDone = false → exec .tlWaitExpiry s = .next s1) ∧
    (waits → s1.startupDone = true → Answers .tlWaitExpiry s fun t =>
      t.modes.mode = s.endMode ∧ t.modes.steps = s.modes.steps ||| 64 ∧ t.worlds.wmarkLock = true) ∧
    (¬waits → exec .tlWaitExpiry s = .next s) ∧
    (s.modes.mode = .startup → s.modes.kernelStarted = true → s.modes.steps.getLsbD 4 = false →
      Answers .kernelReadyTimeout s fun t =>
        t.modes = { s.modes with steps := s.modes.steps ||| 16, failed := true } ∧
        t.trivet.cause = 0x05 ∧ t.trivet.causeArg = 0 ∧
        (s.trivet.resume = 0xAA ∨ s.trivet.resume = 0x99 → t.trivet.resume = s.trivet.resume) ∧
        (s.trivet.resume ≠ 0xAA → s.trivet.resume ≠ 0x99 →
          t.trivet.resume = 0x99 ∧ t.trivet.recFrom = s.chosenMode.code)) ∧
    (s.modes.mode ≠ .startup → exec .kernelReadyTimeout s = .next s)

/-- R443, R448, R459, Table 16.1: a non-tamper fatal condition, the kernel's request for one (S alone) included: in
Commissioning and Service Recovery is entered in place, with RESUME 0x99, REC_FROM the mode left and the cause; in Start-up
it is a failure; in Recovery it changes only the cause; in Erased the mode and Trivet stay. -/
def FatalConditions : Prop :=
  ∀ (s : State) (cause arg : Byte), s.powered = true →
    let raised (i : Instr) (cause arg : Byte) : Prop := Answers i s fun t =>
      (s.modes.mode = .commissioning ∨ s.modes.mode = .service →
        s.trivet.resume ≠ 0xAA → s.trivet.resume ≠ 0x99 → s.eng.jobs = [] →
        t.modes.mode = .recovery ∧ t.trivet.resume = 0x99 ∧ t.trivet.recFrom = s.modes.mode.code ∧
        t.trivet.cause = cause ∧ t.trivet.causeArg = arg ∧ t.cus.windows = [] ∧ t.cus.running = none) ∧
      (s.modes.mode = .startup → t.modes = { s.modes with failed := true } ∧ t.trivet.cause = cause) ∧
      (s.modes.mode = .recovery → t.modes = s.modes ∧ t.trivet = { s.trivet with cause := cause, causeArg := arg }) ∧
      (s.modes.mode = .erased → t.modes = s.modes ∧ t.trivet = s.trivet) ∧
      (t.reg 0x000030).getLsbD 1 = true
    raised (.nonTamperFatal cause arg) cause arg ∧
    (∀ v : Word, v.getLsbD 0 = true → raised (.modCtlFatal .s v) 0x08 0) ∧
    (∀ v : Word, v.getLsbD 0 = false → exec (.modCtlFatal .s v) s = .next s) ∧
    (∀ k v, exec (.modCtlFatal (.h k) v) s = .next (s.after (s.denied (.h k) 0x00000C)))

/-- R449, R450, R452, R395, R378: MOD_RST.DEVICE by S, and the tamper-hold reset that an H alarm has requested, enter Start-up:
Trivet, the fuses, the timeline counter with its frequency, the log and the boot nonce stay, every other table returns to its
reset value, and what a ceremony cut off had generated is undone. The fourth tamper-hold reset within 10 s is not performed. A write by H outside R444 is refused. -/
def DeviceAndHoldResets : Prop :=
  ∀ s : State, s.powered = true →
    let kept (t : State) : Prop :=
      t.modes.mode = .startup ∧ t.fuses = s.fuses ∧ t.keys = KeyTree.reset ∧ enginesReset t ∧
      t.cal = Calendar.reset ∧ t.mkt = Markets.reset ∧ t.worlds = Worlds.reset ∧ t.str = Strainer.reset ∧
      t.cus = Custodians.reset ∧ t.power = Power.reset ∧ t.tamper = Tamper.reset ∧
      t.tl = { Timeline.reset with
        ns := s.tl.ns, frac := s.tl.frac, inc := s.tl.learned, learned := s.tl.learned } ∧
      t.stk.nextSeq = s.stk.nextSeq ∧ t.stk.ring = s.stk.ring ∧ t.stk.chain = s.stk.chain ∧ t.stk.ack = s.stk.ack ∧
      t.stk.evidence = s.stk.evidence ∧ t.aud.nonce = s.aud.nonce ∧ t.aud.fseq = s.aud.fseq ∧ t.aud.peer = s.aud.peer ∧
      t.trivet.resume = s.trivet.resume ∧ t.trivet.flags = s.trivet.flags ∧ t.trivet.owners = (undoneTrivet s).owners ∧
      t.trivet.roots = (undoneTrivet s).roots ∧ t.trivet.authorities = (undoneTrivet s).authorities
    let recent := s.trivet.holds.filter fun h => decide (s.trivet.tick.toNat < h + 327680)
    (∀ v : Word, v.getLsbD 0 = true →
      Answers (.deviceReset .s v passingTest) s fun t => kept t ∧ t.modes.lastReset = .device) ∧
    (∀ v : Word, v.getLsbD 0 = false → exec (.deviceReset .s v passingTest) s = .next s) ∧
    (∀ k v, (s.worlds.kstate ≠ .failed ∨ s.modes.mode ≠ .recovery) →
      exec (.deviceReset (.h k) v passingTest) s = .next (s.after (s.denied (.h k) 0x000008))) ∧
    (s.tamper.holdRequested = true → recent.length < 3 →
      Answers (.tamperHoldReset passingTest) s fun t =>
        kept t ∧ t.modes.lastReset = .hold ∧ t.trivet.holds = recent ++ [s.trivet.tick.toNat]) ∧
    (s.tamper.holdRequested = true → 3 ≤ recent.length → s.modes.mode ≠ .startup → s.eng.jobs = [] →
      Answers (.tamperHoldReset passingTest) s fun t =>
        t.modes.mode = .recovery ∧ t.trivet.cause = 0x0D ∧ t.tamper.gateClosed = s.tamper.gateClosed) ∧
    (s.tamper.holdRequested = false → exec (.tamperHoldReset passingTest) s = .next s)

/-! ### Tamper and Trivet (14) -/

/-- R394, R404, R408: one event of one source in a cycle, in a mode that does not count it; of a state check, one of a machine
and a value that Table 14.2 does not list. Its flag is set where its class is E or H, its evidence entry is written, and the
source counts it. -/
def oneEvent (s : State) (h : TamperHit) (cls : AlarmClass) : Prop :=
  s.sourceOn h.source.toNat = true ∧ s.counts h.source.toNat = false ∧ s.testing h.source.toNat = false ∧
  s.eventClass h.source.toNat = cls ∧ s.tamper.erasing = false ∧ realHit h = true

/-- R397, R398, R404, R441: an E alarm with VIN erases Trivet's roots and records at once, closes the key-path gate, clears the
volatile domain (the key cache, the engines' jobs but a regulator frame's verification, the combiner, the stations' secret fields,
Colander's channels and blocks), sets the source's flag and
writes RESUME 0xAA; the mode, the handle table, the market table and the calendar stay. On VBAT alone Trivet alone changes, and
nothing before TRV_INIT is burned (R4). -/
def EraseAlarms : Prop :=
  ∀ (s : State) (h : TamperHit) (bad : List Byte), oneEvent s h .e →
    let flag := s.trivet.flags ||| (1#64 <<< h.source.toNat)
    let trivet (t : State) : Prop :=
      t.trivet.roots = [] ∧ t.trivet.owners = [] ∧ t.trivet.authorities = [] ∧ t.trivet.resume = 0xAA ∧
      t.trivet.cause = 0x20 ∧ t.trivet.causeArg = BitVec.ofNat 8 h.source.toNat ∧ t.trivet.flags = flag ∧
      t.trivet.evCnt = satInc s.trivet.evCnt ∧ t.trivet.erases = satInc s.trivet.erases ∧ t.modes = s.modes
    (s.powered = true → Answers (.tamperEvent [h] bad) s fun t =>
      trivet t ∧ t.tamper.gateClosed = true ∧ t.tamper.erasing = true ∧ t.keys = { s.keys with cache := [] } ∧
      (∀ j ∈ t.eng.jobs, j.dev = some .regFrame) ∧ t.eng.slots = [] ∧ t.eng.kboot = none ∧
      (∀ n, (t.stn n).secret = []) ∧ t.cus.combiner = [] ∧ t.cus.shares = [] ∧
      t.cld.channels = [] ∧ t.cld.residues = [] ∧ t.cld.verified = [] ∧ t.mkt.table = s.mkt.table ∧ t.cal = s.cal) ∧
    (s.powered = false → s.watching = true → watchedOnVbat h = true → Answers (.tamperEvent [h] bad) s fun t =>
      trivet t ∧ t.keys = s.keys ∧ t.eng = s.eng ∧ t.cus = s.cus ∧ t.cld = s.cld ∧ t.worlds = s.worlds) ∧
    (s.watching = false → exec (.tamperEvent [h] bad) s = .next s)

/-- R395, Table 16.1: an H alarm closes the key-path gate, requests the tamper-hold reset, sets the flag and heads for Recovery
from the current mode; it erases nothing. In Erased it is recorded only. -/
def HoldAlarms : Prop :=
  ∀ (s : State) (h : TamperHit), oneEvent s h .h → s.powered = true → s.tamper.responding = none →
    Answers (.tamperEvent [h] []) s fun t =>
      t.modes = s.modes ∧ t.trivet.roots = s.trivet.roots ∧ t.trivet.owners = s.trivet.owners ∧ t.keys = s.keys ∧
      t.eng = s.eng ∧ t.trivet.flags = s.trivet.flags ||| (1#64 <<< h.source.toNat) ∧
      t.trivet.evCnt = satInc s.trivet.evCnt ∧
      (s.modes.mode = .erased → t.trivet.resume = s.trivet.resume ∧ t.tamper.holdRequested = s.tamper.holdRequested) ∧
      (s.modes.mode ≠ .erased → t.tamper.gateClosed = true ∧ t.tamper.holdRequested = true ∧ t.trivet.cause = 0x09) ∧
      (s.modes.mode ≠ .erased → s.trivet.resume ≠ 0xAA → s.trivet.resume ≠ 0x99 → t.trivet.resume = 0x99 ∧
        t.trivet.recFrom = (if s.modes.mode = .recovery then s.trivet.recFrom else s.modes.mode.code))

/-- R396, R408: an L alarm with VIN sets no flag, writes no entry and changes no mode, source 9's VBAT_LOW apart; and of a settling-prone source in a mode
that counts, the first two events in 2 ms alarm nothing. Both count at their source. -/
def LowAlarmsAndCounting : Prop :=
  ∀ (s : State) (h : TamperHit), s.powered = true → s.sourceOn h.source.toNat = true →
    s.testing h.source.toNat = false → s.tamper.erasing = false → realHit h = true →
    let quiet (bit : Nat) : Prop := Answers (.tamperEvent [h] []) s fun t =>
      t.trivet = (if bit = 0 ∧ h.source = 9 then { s.trivet with vbatLow := true } else s.trivet) ∧ t.modes = s.modes ∧ t.keys = s.keys ∧ t.eng = s.eng ∧ t.mkt = s.mkt ∧ t.cus = s.cus ∧
      t.tamper.gateClosed = s.tamper.gateClosed ∧ (t.reg 0x110050).getLsbD bit = true ∧
      (t.src h.source.toNat).cause = (normalHit h).cause ∧ (t.src h.source.toNat).event = true
    (s.counts h.source.toNat = false → s.eventClass h.source.toNat = .l → quiet 0) ∧
    (s.counts h.source.toNat = true →
      ((s.src h.source.toNat).window.filter fun x => decide (s.now ≤ x + 3000000)).length < 2 → quiet 1)

/-- R397, R440, R458: the end of an erase's volatile part zeroes recipe memory and enters Erased; a Start-up runs on. Without an
erase nothing ends. -/
def EraseEndsInErased : Prop :=
  ∀ s : State, s.powered = true →
    (s.tamper.erasing = false → exec .eraseComplete s = .next s) ∧
    (s.tamper.erasing = true → (s.modes.mode = .startup ∨ s.modes.mode = .erased) → Answers .eraseComplete s fun t =>
      t.worlds.recipe = [] ∧ t.modes = s.modes ∧ t.tamper.erasing = false ∧ t.trivet = s.trivet) ∧
    (s.tamper.erasing = true → s.modes.mode ≠ .startup → s.modes.mode ≠ .erased → s.eng.jobs = [] → s.Canonical →
      Answers .eraseComplete s fun t =>
        t.worlds.recipe = [] ∧ t.modes.mode = .erased ∧ t.tamper.erasing = false ∧ t.cus.windows = [] ∧
        t.cus.running = none ∧ t.trivet.resume = s.trivet.resume ∧ t.trivet.flags = s.trivet.flags)

/-- R409, R393, R407, R411, R390, R402: what the tests, the class selection and the samples do; a source that is fused off is not
sampled. TMP_TEST and TMP_SRC_CFG are written by S
alone. -/
def Obligations.TamperTestsAndSamples : Prop :=
  ∀ s : State, s.powered = true →
    (∀ v : Word, s.modes.mode = .commissioning → s.tamper.test = none → v.getLsbD 6 = true →
      16 ≤ (v.extractLsb' 0 6).toNat → (v.extractLsb' 0 6).toNat ≤ 47 →
      1 ≤ (v.extractLsb' 8 7).toNat → (v.extractLsb' 8 7).toNat ≤ 100 →
      Answers (.tmpTestGo .s v) s fun t =>
        t.tamper = { s.tamper with test := some (v.extractLsb' 0 6, v.extractLsb' 8 7) } ∧ t.trivet = s.trivet ∧
        t.modes = s.modes) ∧
    (s.tamper.test.isSome = true → Answers .tmpTestEnd s fun t =>
      t.tamper = { s.tamper with test := none } ∧ (t.reg 0x110050).getLsbD 5 = true ∧ t.trivet = s.trivet) ∧
    (∀ v : Word, (s.modes.mode = .startup ∨ s.modes.mode = .commissioning) → s.tamper.lock = false → v.extractLsb' 0 2 = 1 →
      (s.reg 0x110020 = 7 ∨ s.reg 0x110020 = 8 ∨ (40 ≤ (s.reg 0x110020).toNat ∧ (s.reg 0x110020).toNat ≤ 47)) →
      Answers (.tmpSrcCfgWrite .s v) s fun t =>
        (t.src (s.reg 0x110020).toNat).cls = some .l ∧ t.trivet = s.trivet ∧ t.modes = s.modes) ∧
    (∀ v : Word, (s.tamper.lock = true ∨ s.modes.mode = .service ∨ s.modes.mode = .recovery) →
      exec (.tmpSrcCfgWrite .s v) s = .next s) ∧
    (∀ k (v : Word), exec (.tmpTestGo (.h k) v) s = .next (s.after (s.denied (.h k) 0x110038)) ∧
      exec (.tmpSrcCfgWrite (.h k) v) s = .next (s.after (s.denied (.h k) 0x110024))) ∧
    (∀ mv : Half, s.sourceOn 9 = false → exec (.vbatSample mv) s = .next s) ∧
    (∀ mv : Half, s.sourceOn 9 = true → 2300 ≤ mv.toNat → exec (.vbatSample mv) s = .next { s with
      trivet := { s.trivet with vbatMv := mv, vbat := true, vbatLow := false }
      tamper := { s.tamper with vbatLowSamples := 0 } }) ∧
    (∀ mv : Half, s.sourceOn 9 = true → mv.toNat < 2300 → s.tamper.vbatLowSamples = 0 →
      exec (.vbatSample mv) s = .next { s with
      trivet := { s.trivet with vbatMv := mv }, tamper := { s.tamper with vbatLowSamples := 1 } }) ∧
    (∀ t0 t1 : BitVec 12, -120 ≤ t0.toInt → t0.toInt ≤ 460 → -120 ≤ t1.toInt → t1.toInt ≤ 460 →
      (t0.toInt - t1.toInt).natAbs ≤ 20 → exec (.temperatureSample t0 t1) s = .next { s with
        tamper := { s.tamper with temp0 := t0, temp1 := t1, split := 0 } }) ∧
    (s.trivet.cap.toNat < 2 → Answers .capLowRecord s fun t => Reports s t) ∧
    (2 ≤ s.trivet.cap.toNat → exec .capLowRecord s = .next s) ∧
    (exec .capacitorRecharged s = .next { s with trivet := { s.trivet with cap := 2 } })

/-! ### Colander (05) -/

/-- Nothing but the groups, the cells and what is named here of Colander changes. -/
def groupsOnly (s t : State) : Prop :=
  t = { s with cld := { s.cld with groups := t.cld.groups, cells := t.cld.cells } }

/-- R143 to R148, R155: a clean span leaves its group RUNNING at its next span, with its fresh output blocks behind the
verified ones, at most 64 of them; a tainted one leaves it in RETRIM with the cell and test that failed, nothing of it
verified, and the fourth within a second is fatal. Blocks that it gave provisionally count once. A retrimmed or settled
group is QUALIFYING, its cells started afresh under trims that have moved by one code at most in 4,096 samples (R141). -/
def ColanderSpans : Prop :=
  ∀ (s : State) (g : BitVec 4) (bits : Bytes) (trims : List (BitVec 6)), s.powered = true → s.Canonical →
    let x := s.group g.toNat
    let runs := x.state == .running
    let recent := s.cld.taints.filter fun a => s.now < a + 1500000000
    let n := bits.length / 512 - x.blocks.length
    let taint := (s.setTrims g.toNat (bits.length / 2) trims).spanTaint g.toNat runs bits
    let span : Prop := (x.state = .running ∨ x.state = .qualifying) ∧ bits.length = 512 * (if runs then 16 else 4)
    let fresh (i : Instr) : Prop := Answers i s fun t => groupsOnly s t ∧
      t.group g.toNat = { x with state := .qualifying, since := s.now } ∧
      ∀ c, c < 16 →
        let y := s.cell (16 * g.toNat + c)
        let z := t.cell (16 * g.toNat + c)
        z = { y.settle (s.samplesSince g.toNat) (trims.getD c y.trim) with last := none, run := 0 } ∧
        (z.trim.toNat : Int) - y.trim.toNat ≤ (4096 + s.samplesSince g.toNat : Int) / 4096 ∧
        (y.trim.toNat : Int) - z.trim.toNat ≤ (4096 + s.samplesSince g.toNat : Int) / 4096
    (span → taint = none → s.provChannels g x.span = [] →
      Answers (.colanderSpanClose g bits trims) s fun t =>
        t = { s with cld := { s.cld with
          groups := t.cld.groups, cells := t.cld.cells, blocks := s.cld.blocks + BitVec.ofNat 64 n
          verified := (s.cld.verified ++ x.blocks.foldl (fun l b => l.erase b) (outputBlocks bits)).take 64
          qualified := s.cld.qualified ||| (1#16 <<< g.toNat) } } ∧
        t.group g.toNat = { x with state := .running, span := x.span + 1, blocks := [], since := s.now }) ∧
    (span → ∀ c k, taint = some (c, k) → s.provChannels g x.span = [] → recent.length < 3 →
      Answers (.colanderSpanClose g bits trims) s fun t =>
        t.group g.toNat = { x with
          state := .retrim, lastCell := c, lastTest := k, fails := satInc x.fails, span := x.span + 1, blocks := [], since := s.now } ∧
        Reports { s with cld := { s.cld with
          groups := t.cld.groups, cells := t.cld.cells, blocks := s.cld.blocks + BitVec.ofNat 64 n
          taints := recent ++ [s.now], tainted := s.cld.tainted + 1 } } t ∧ (t.reg intCld).getLsbD 1 = true) ∧
    (span → ∀ c k, taint = some (c, k) → s.provChannels g x.span = [] → 3 ≤ recent.length → s.cld.fatal = false →
      s.modes.mode = .recovery → Answers (.colanderSpanClose g bits trims) s fun t =>
        t.cld.fatal = true ∧ t.cld.verified = s.cld.verified ∧ t.trivet.cause = 0x01 ∧ (t.reg intCld).getLsbD 4 = true ∧
        (t.reg intMod).getLsbD 1 = true) ∧
    (¬span → exec (.colanderSpanClose g bits trims) s = .next s) ∧
    (x.state = .retrim → fresh (.retrimDone g trims)) ∧
    (x.state ≠ .retrim → exec (.retrimDone g trims) s = .next s) ∧
    (x.state = .settling → fresh (.groupSettled g trims)) ∧
    (x.state ≠ .settling → exec (.groupSettled g trims) s = .next s)

/-- R155, R93, R446: READY comes once 12 groups have qualified, every channel is instantiated and every mask generator seeded;
it ends Colander's step of Start-up, in which the mesh sequences take a seed whose value is free (R389, assumption 106), and Kboot
is then asked for. Without READY by its time, SEED_FAIL is fatal. -/
def ColanderReadiness : Prop :=
  ∀ s : State, s.powered = true →
    let kboot : Request := { want := .priv .key 32 [], since := s.now, job := none, use := some .kboot }
    let booting := s.modes.mode = .startup
    let ready : State := { s with
      trivet := if booting then { s.trivet with mesh := Config.freeBits 31 s.free } else s.trivet
      free := if booting then s.free + 1 else s.free
      cld := { s.cld with ready := true, waiting := s.cld.waiting ++ [kboot] }
      modes := if booting then { s.modes with steps := s.modes.steps ||| 4 } else s.modes }
    (s.cld.ready = false → s.seedsDone = true → Reported .colanderReady s ready intCld 0) ∧
    (s.cld.ready = true ∨ s.seedsDone = false → exec .colanderReady s = .next s) ∧
    (s.cld.ready = false → s.cld.seedFail = false → s.modes.mode = .startup → Answers .seedFailTimeout s fun t =>
      t.cld = { s.cld with seedFail := true } ∧ t.modes = { s.modes with failed := true } ∧ t.trivet.cause = 0x02 ∧
      (t.reg intCld).getLsbD 5 = true) ∧
    (s.cld.ready = true ∨ s.cld.seedFail = true → exec .seedFailTimeout s = .next s)

/-- R105, R106, R149 to R154: how Colander meets requests and what happens when it cannot. A mask seed is the oldest
verified block, which stands at its engine until the generator absorbs it; Kboot's request gets its octets from the KEY
residue and that block; a request that the residue exceeds takes no block; a channel's instantiation keys it from one. A request that has waited too long fails its job, and
Kboot's is made again. A channel's reseed and a generator's seed wait in the queue. An engine whose generator comes to
2^24 blocks without a seed stalls. -/
def Obligations.ColanderService : Prop :=
  ∀ s : State, s.powered = true → s.Canonical →
    let served (r : Request) (b : Bytes) (bs : List Bytes) (after : State → Prop) : Prop :=
      s.chosenRequest none = some r → s.cld.verified = b :: bs → Answers (.entropyRequestServe none) s fun t =>
        t.cld.verified = bs ∧ t.cld.waiting = s.cld.waiting.erase r ∧ t.eng.jobs = s.eng.jobs ∧ after t
    let fails (i : Instr) (q : Request → Bool) (v : Verdict) (after : State → Prop) : Prop :=
      let p (r : Request) : Bool := (r.job.isSome || r.use.isSome) && q r
      (s.cld.waiting.find? p = none → exec i s = .next s) ∧
      (∀ (j : Job) (r : Request), s.eng.jobs = [j] → s.cld.waiting.find? p = some r → r.job = some j.id → r.use = none →
        Answers i s fun t => t.eng.jobs = [] ∧ after t ∧
          t.cld.waiting = (s.cld.waiting.erase r).filter (fun q => q.job != some j.id) ∧
          t.completions = s.completions ++ [{ origin := j.sub.origin, verdict := v, half := j.half, result := 0 }]) ∧
      ∀ r : Request, s.eng.jobs = [] → s.cld.waiting.find? p = some r → r.job = none → r.use = some .kboot →
        Answers i s fun t => after t ∧ t.completions = s.completions ∧
          t.cld.waiting = s.cld.waiting.erase r ++ [{ want := .priv .key 32 [], since := s.now, job := none, use := some .kboot }]
    (s.chosenRequest none = none → exec (.entropyRequestServe none) s = .next s) ∧
    (∀ r c n, s.chosenRequest none = some r → r.want = .priv c n [] → r.job = none → s.needsNoBlock r = true →
      Answers (.entropyRequestServe none) s fun t => t.cld.verified = s.cld.verified ∧ n < (s.residue c).length ∧
        t.residue c = (s.residue c).drop n ∧ t.cld.waiting = s.cld.waiting.erase r ∧ t.eng.jobs = s.eng.jobs) ∧
    (∀ e r b bs, r.want = .mask e → served r b bs fun t => t.eng = { s.eng with table := t.eng.table } ∧
      t.engine .cipher e.toNat = { s.engine .cipher e.toNat with seedIn := some b }) ∧
    (∀ r b bs, r.want = .priv .key 32 [] → r.job = none → r.use = some .kboot → b.length = 64 → s.residue .key = [] → served r b bs fun t =>
      t.eng = { s.eng with kboot := some (b.take 32) } ∧ t.residue .key = b.drop 32) ∧
    (∀ x r b bs, r.want = .slice x 0 true → (s.channel x.toNat).state = .uninst → served r b bs fun t =>
      t.eng = s.eng ∧ (t.channel x.toNat).state = .ready ∧ (t.channel x.toNat).reqs = 0 ∧
      (t.channel x.toNat).key = drbgInstantiate (b.take 48) (s.personal x.toNat)) ∧
    (s.cld.ready = true → fails .privTimeout (fun r => r.want.isPriv && s.servable r && r.waited s.now 1500000) ⟨0x0402, 0x53⟩ fun t =>
      (t.reg intCld).getLsbD 3 = true) ∧
    (s.cld.ready = false → exec .privTimeout s = .next s ∧
      fails .notSeededTimeout (fun r => r.waited s.now 75000000) ⟨0x0401, 0x50⟩ fun _ => True) ∧
    (s.cld.ready = true → exec .notSeededTimeout s = .next s) ∧
    (∀ x : BitVec 6, s.cld.ready = true → (s.channel x.toNat).state = .ready → s.atLimit (s.channel x.toNat) = true →
      fails (.reseedTimeout x)
      (fun r => (match r.want with | .slice y n fresh => y == x && n != 0 && !fresh | _ => false) && r.waited s.now 15000000)
      ⟨0x0401, 0x51⟩ fun _ => True) ∧
    (∀ x : BitVec 6, s.cld.ready = false ∨ (s.channel x.toNat).state ≠ .ready ∨ s.atLimit (s.channel x.toNat) = false →
      exec (.reseedTimeout x) s = .next s) ∧
    (∀ x : BitVec 6,
      let c := s.channel x.toNat
      let r : Request := { want := .slice x 0 false, since := s.now, job := none, use := none }
      (c.state = .ready → c.reseedPend = false → c.lastReseed + 750000 ≤ s.now → Answers (.drbgBackgroundReseed x) s fun t =>
        t = { s with cld := { s.cld with channels := t.cld.channels, waiting := s.cld.waiting ++ [r] } } ∧
        t.channel x.toNat = { c with reseedPend := true }) ∧
      (c.state ≠ .ready ∨ c.reseedPend = true ∨ s.now < c.lastReseed + 750000 → exec (.drbgBackgroundReseed x) s = .next s)) ∧
    ∀ m : BitVec 7,
      let e := s.engine .cipher m.toNat
      let r : Request := { want := .mask m, since := s.now, job := none, use := none }
      (2 ^ 23 ≤ e.maskCnt.toNat → e.reseedPend = false → Answers (.maskReseedRequest m) s fun t =>
        t = { s with eng := { s.eng with table := t.eng.table }, cld := { s.cld with waiting := s.cld.waiting ++ [r] } } ∧
        t.engine .cipher m.toNat = { e with reseedPend := true }) ∧
      (e.maskCnt.toNat < 2 ^ 23 ∨ e.reseedPend = true → exec (.maskReseedRequest m) s = .next s) ∧
      (e.seedIn = none → exec (.maskReseed m) s = .next s) ∧
      (∀ seed, e.seedIn = some seed → Answers (.maskReseed m) s fun t =>
        Reports { s with eng := { s.eng with table := t.eng.table } } t ∧
        (e.seeded = false ∨ e.maskCnt.toNat < 3 * 2 ^ 22 → t = { s with eng := { s.eng with table := t.eng.table } }) ∧
        (e.seeded = true → 3 * 2 ^ 22 ≤ e.maskCnt.toNat → (t.reg intCp).getLsbD 1 = true) ∧
        t.engine .cipher m.toNat = { e.resume s.now with
          seeded := true, reseedPend := false, maskCnt := 0, reseeds := e.reseeds + 1, seedIn := none
          maskGen := maskAbsorb (maskRun e.maskGen e.maskCnt.toNat) seed }) ∧
      (2 ^ 24 ≤ e.maskCnt.toNat + s.blocksLeft m.toNat → e.stalled = none → Answers (.cipherStall m) s fun t =>
        Reports { s with eng := { s.eng with table := t.eng.table } } t ∧ (t.reg intCp).getLsbD 0 = true ∧
        t.engine .cipher m.toNat = { e with
          maskCnt := BitVec.ofNat 25 (2 ^ 24), stalled := some s.now
          segDone := if e.running.isSome then e.segDone + (2 ^ 24 - e.maskCnt.toNat) else 0 }) ∧
      (e.maskCnt.toNat + s.blocksLeft m.toNat < 2 ^ 24 ∨ e.stalled.isSome = true → exec (.cipherStall m) s = .next s)

/-! ### The key tree (02) -/

/-- Trivet with one owner record replaced. -/
def withOwner (s : State) (n : Nat) (o : Owner) : Trivet :=
  { s.trivet with owners := sparseSet Owner.absent s.trivet.owners n o }

/-- A submission under an opcode, as the job that it makes begins: the opcode is the block's first octet, and no segment has
run. -/
def underOp (op : Byte) (u : Submission) : Submission :=
  { u with block := op :: u.block.drop 1, reach := none, old := false }

/-- A key-tree command that runs at once: no job is before it, its format and its mode are admitted, its slice does not
quiesce, no hold and no closed gate delays it, and no copy of its queue entry was dropped. -/
structure KtRuns (s : State) (op : Byte) (u : Submission) : Prop where
  powered : s.powered = true
  idle : s.eng.jobs = []
  fresh : s.stale (newJob s.eng.nextJob (underOp op u)) = false
  quiet : s.quiesces (underOp op u) = false
  format : s.ktFormat (underOp op u) = none
  free : s.heldJob (underOp op u) = false

/-- The command completes with a verdict and a result, and leaves no job. -/
def completes (c : Instr) (s : State) (o : Origin) (v : Verdict) (result : DWord) (P : State → Prop) : Prop :=
  Answers c s fun t => t.eng.jobs = [] ∧
    t.completions = s.completions ++ [{ origin := o, verdict := v, half := false, result := result }] ∧ P t

/-- The command completes with a verdict and changes neither the key tree nor Trivet, windows or markets. -/
def ktRefuses (c : Instr) (s : State) (o : Origin) (v : Verdict) : Prop :=
  completes c s o v 0 fun t => t.keys = s.keys ∧ t.trivet = s.trivet ∧ t.cus = s.cus ∧ t.mkt = s.mkt

/-- The command waits in a pool engine's queue for the derivation steps that its key needs (R71). -/
def derives (c : Instr) (s : State) (op : Byte) (u : Submission) (calls : Nat) : Prop :=
  Answers c s fun t => t.completions = s.completions ∧ t.keys = s.keys ∧ t.trivet = s.trivet ∧
    t.eng.jobs = [{ newJob s.eng.nextJob (underOp op u) with
      deriveLeft := calls, cls := .pool, stage := .queued
      home := s.homeEngine .pool (match u.slice? with | some x => x.toNat | none => 0) }]

/-- The entry that an allocation for an owner makes of a node at an index (R53, R54, R75). -/
def newNode (s : State) (o i : Nat) (e : Handle) : Handle := { e with
  owner := BitVec.ofNat 8 o, flags := (e.flags &&& 0x7C) ||| 1, tag := nextTag (s.entry i).tag
  generation := (s.owner o).birth, useCount := 0, ceilBase := ceilBaseFor (s.owner o) (s.owner o).res }

/-- The key tree and Trivet after an allocation: the entry at its index, and the owner's BIRTH counted up. -/
def allocated (s t : State) (o i : Nat) (e : Handle) : Prop :=
  t.keys = { s.keys with table := sparseSet Handle.free s.keys.table i (newNode s o i e) } ∧
  t.trivet = withOwner s o { s.owner o with birth := (s.owner o).birth + 1 }

/-- R51 to R57, R60, R67: CREATE, GENERATE with a label drawn from the KEY channel, and NEXTGEN allocate a node of their
parent's owner; what their checks refuse changes nothing. -/
def KeyTreeAllocation : Prop :=
  ∀ (s : State) (u : Submission),
    let kt (op : Byte) : KtBlock := ktBlock (underOp op u).block
    let node (b : KtBlock) (n : NewNode) (label : DWord) : Handle := { Handle.free with
      parent := b.handle, label := label, type := b.type, flags := b.flags, policy := b.policy, sliceMask := b.mask
      ops := b.ops, depth := BitVec.ofNat 4 n.depth, useLimit := storedLimit b.type b.ops b.limit }
    let makes (c : Instr) (o : Nat) (e : Handle) : Prop := ∀ i, s.allocIndex (s.owner o) = some i →
      completes c s u.origin Verdict.ok ((handleId i (newNode s o i e)).setWidth 64) fun t => allocated s t o i e
    (KtRuns s 0x01 u →
      (∀ n, s.createCheck u.issuer (kt 0x01) = .ok n → makes (.create u) n.owner (node (kt 0x01) n (kt 0x01).label)) ∧
      (∀ v, s.createCheck u.issuer (kt 0x01) = .error v → ktRefuses (.create u) s u.origin v)) ∧
    (KtRuns s 0x02 u →
      (∀ n, s.createCheck u.issuer (kt 0x02) = .ok n → s.cld.ready = true → s.cld.waiting = [] →
        8 < (s.residue .key).length →
        makes (.generate u) n.owner (node (kt 0x02) n (BitVec.ofNat 64 (ofBE ((s.residue .key).take 8))))) ∧
      (∀ n, s.createCheck u.issuer (kt 0x02) = .ok n → s.cld.ready = false → Answers (.generate u) s fun t =>
        (∃ j, t.eng.jobs = [j] ∧ j.stage = .entropy ∧ j.sub = underOp 0x02 u) ∧ t.keys = s.keys ∧ t.trivet = s.trivet ∧
        t.completions = s.completions) ∧
      (∀ v, s.createCheck u.issuer (kt 0x02) = .error v → ktRefuses (.generate u) s u.origin v)) ∧
    (KtRuns s 0x03 u →
      (∀ e, s.checkHandle u.issuer (kt 0x03).handle false = .ok e → (e.rootParent = true ∨ (s.ancestry e).1 ≠ []) →
        (e.quorum = true ∨ s.parentQuorum e = true →
          s.admitting e.owner.toNat 1 u.issuer (s.family (kt 0x03).handle e) false ≠ none) →
        s.roomFor e.owner.toNat = none → makes (.nextGen u) e.owner.toNat e) ∧
      (∀ v, s.checkHandle u.issuer (kt 0x03).handle false = .error v → ktRefuses (.nextGen u) s u.origin v))

/-- R61 to R63, R66 to R71: NARROW lowers a node's rights and clears the lines of the partitions that lose it; DESTROY frees its
node, clears its owner's lines (a stamp key that a market uses is derived again, R217) and starts the sweep, whose end frees
every node of the region whose ancestry is broken; PIN derives a node into its slice's partition, by steps of a pool engine
where the partition does not hold it, and pins it; UNPIN releases it unless a market of the slice uses it. -/
def KeyTreeRights : Prop :=
  ∀ (s : State) (u : Submission), s.Canonical →
    let kt (op : Byte) : KtBlock := ktBlock (underOp op u).block
    let h (op : Byte) : Word := (kt op).handle
    (KtRuns s 0x04 u → ∀ e, s.checkHandle u.issuer (h 0x04) false = .ok e → s.quorumCheck u.issuer (h 0x04) e 1 = none →
      let mask := e.sliceMask &&& (kt 0x04).mask
      (e.scope ≠ 1 ∨ oneBit mask = true) →
      completes (.narrow u) s u.origin Verdict.ok ((h 0x04).setWidth 64) fun t =>
        t.keys.table = sparseSet Handle.free s.keys.table (hIndex (h 0x04)) { e with
          ops := e.ops &&& (kt 0x04).ops, sliceMask := mask, useLimit := lowerLimit e.useLimit (kt 0x04).limit
          flags := e.flags ||| ((kt 0x04).flags &&& 4) } ∧
        (∀ p, (t.partition p).lines = if e.sliceMask.getLsbD p && !mask.getLsbD p
          then (s.partition p).lines.filter (fun l => l.index.toNat != hIndex (h 0x04)) else (s.partition p).lines) ∧
        t.keys.sweeps = s.keys.sweeps ∧ t.trivet = s.trivet) ∧
    (KtRuns s 0x05 u → ∀ e, s.checkHandle u.issuer (h 0x05) true = .ok e → s.quorumCheck u.issuer (h 0x05) e 1 = none →
      let r := s.owner e.owner.toNat
      completes (.destroy u) s u.origin Verdict.ok ((h 0x05).setWidth 64) fun t =>
        t.keys.table = sparseSet Handle.free s.keys.table (hIndex (h 0x05)) e.freed ∧
        ((∀ m ∈ s.mkt.table, m.2.tree = none) →
          ∀ p, (t.partition p).lines = (s.partition p).lines.filter fun l => l.owner != e.owner) ∧
        t.keys.sweeps = s.keys.sweeps ++ [{ owner := e.owner, lo := r.first, hi := r.first + r.size }] ∧
        t.trivet = s.trivet) ∧
    (∀ op c, (op, c) ∈ [(0x04, Instr.narrow u), (0x05, Instr.destroy u), (0x09, Instr.unpin u)] → KtRuns s op u →
      s.lookup (h op) = none → ktRefuses c s u.origin ⟨0x0201, 0⟩) ∧
    (s.powered = true → ∀ o w, s.keys.sweeps.find? (fun x => x.owner == o) = some w →
      Reported (.destroySweepDone o) s { s with keys := { s.keys with
        table := sparseMap Handle.free (fun i e =>
          if w.lo ≤ i && i < w.hi && e.valid && !(s.ancestry e).2 then e.freed else e) s.keys.table
        sweeps := s.keys.sweeps.erase w } } intKt 3) ∧
    (∀ o, s.keys.sweeps.find? (fun x => x.owner == o) = none → exec (.destroySweepDone o) s = .next s) ∧
    (KtRuns s 0x08 u → ∀ x e k, u.issuer.slice? = some x → s.checkHandle u.issuer (h 0x08) false = .ok e →
      s.needsPrimes u.issuer (h 0x08) = false → (s.partition x.toNat).pinnedWith (hIndex (h 0x08)) e ≤ 768 →
      (s.keySecret u.issuer (h 0x08) false).1 = some k →
      (0 < s.keyCalls u.issuer (h 0x08) false → derives (.pin u) s 0x08 u (s.keyCalls u.issuer (h 0x08) false)) ∧
      (s.keyCalls u.issuer (h 0x08) false = 0 → completes (.pin u) s u.origin Verdict.ok ((h 0x08).setWidth 64) fun t =>
        (∀ l ∈ (t.partition x.toNat).lines, l.index.toNat = hIndex (h 0x08) → l.check = false → l.pinned = true) ∧
        (∃ l ∈ (t.partition x.toNat).lines, l.index.toNat = hIndex (h 0x08) ∧ l.check = false ∧ l.secret = k) ∧
        t.keys.table = s.keys.table ∧ t.trivet = s.trivet)) ∧
    (KtRuns s 0x09 u → ∀ x e, u.issuer.slice? = some x → s.checkHandle u.issuer (h 0x09) true = .ok e →
      completes (.unpin u) s u.origin Verdict.ok ((h 0x09).setWidth 64) fun t =>
        (t.partition x.toNat).lines = (s.partition x.toNat).lines.map (fun l =>
          if l.index.toNat = hIndex (h 0x09) ∧ l.check = false then { l with pinned := s.marketPins x (hIndex (h 0x09)) }
          else l) ∧
        t.keys.table = s.keys.table ∧ t.trivet = s.trivet)

/-- The header of an image that names its owner, its device and its region, and lengths that the buffer holds (Table 2.12). -/
def imageFits (o : Owner) (img : Bytes) (len : Nat) : Bool :=
  let count := ofLE (slice 0x0C 4 img)
  img.take 4 == ascii "SHKI" && slice 4 2 img == [1#8, 0#8] && octet 7 img == o.resLog2.setWidth 8 &&
  slice 0x18 8 img == le 8 Config.deviceSerial && slice 0x20 4 img == leNat 4 o.first &&
  slice 0x24 4 img == leNat 4 o.size && zeroRange 0x3C 0x40 img && decide (count ≤ o.size) &&
  decide (80 + 48 * count ≤ len)

/-- The response of PROVE under a check key to a challenge (R76). -/
def proveResponse (s : State) (h : Word) (k challenge : Bytes) : Bytes :=
  kmac256 k (challenge ++ be 4 h ++ be 8 s.tl.ns) (ascii "SH6496 PROVE") 32 ++
    le 4 h ++ le 4 (s.timeFlags.setWidth 32 : Word) ++ le 8 s.tl.ns

/-- R66, R67, R71, R73 to R77: QUERY answers H and S in the key tree's registers and a slice in its Ladle read half; PROVE waits in
a pool engine's queue for the derivation of its check key, and answers a slice whose partition holds it at once; the images commands change their owner's generations, EPOCH and entries; a write of KT_TBL_IDX loads the snapshot; a command whose
format, issuer or mode is refused changes nothing, and one that log hold or the closed gate delays waits unexamined (R72). -/
def Obligations.KeyTreeTablesAndImages : Prop :=
  ∀ (s : State) (u : Submission), s.Canonical →
    let kt (op : Byte) : KtBlock := ktBlock (underOp op u).block
    let hs := u.issuer.slice? = none
    let same (t : State) : Prop := t.keys = s.keys ∧ t.trivet = s.trivet ∧ t.mkt = s.mkt ∧ t.cus = s.cus
    let o := s.owner ((kt 0x10).arg.extractLsb 7 0).toNat
    let c := s.owner ((kt 0x12).handle.extractLsb 7 0).toNat
    let x := s.owner ((kt 0x13).arg.extractLsb 7 0).toNat
    (KtRuns s 0x06 u → ∀ e, s.checkHandle u.issuer (kt 0x06).handle true = .ok e →
      (hs → completes (.query u) s u.origin Verdict.ok ((kt 0x06).handle.setWidth 64) fun t =>
        same t ∧ t.regBytes 0x060044 10 = e.bytes) ∧
      (∀ y, u.issuer.slice? = some y → 
        s.jobRefusal (underOp 0x06 u) true 0 (kt 0x06).arg.toNat 40 = none →
        completes (.query u) s u.origin Verdict.ok ((kt 0x06).handle.setWidth 64) fun t =>
          same t ∧ memRead (t.slc y.toNat).rbuf (kt 0x06).arg.toNat 40 = e.bytes ∧
          ∀ a, a < (kt 0x06).arg.toNat ∨ (kt 0x06).arg.toNat + 40 ≤ a →
            memByte (t.slc y.toNat).rbuf a = memByte (s.slc y.toNat).rbuf a)) ∧
    (KtRuns s 0x07 u → ∀ e, s.checkUse u.issuer (kt 0x07).handle opProve = .ok e →
      let calls := s.keyCalls u.issuer (kt 0x07).handle true
      (0 < calls → derives (.prove u) s 0x07 u calls) ∧
      (calls = 0 → ∀ y k, u.issuer.slice? = some y → (s.keySecret u.issuer (kt 0x07).handle true).1 = some k →
        s.jobRefusal (underOp 0x07 u) false 0 (kt 0x07).arg.toNat 32 = none →
        s.jobRefusal (underOp 0x07 u) true 0 (kt 0x07).arg.toNat 48 = none →
        completes (.prove u) s u.origin Verdict.ok ((kt 0x07).handle.setWidth 64) fun t =>
          t.keys.table = s.keys.table ∧ t.trivet = s.trivet ∧ t.mkt = s.mkt ∧ t.cus = s.cus ∧
          memRead (t.slc y.toNat).rbuf (kt 0x07).arg.toNat 48 =
            proveResponse s (kt 0x07).handle k (memRead (s.slc y.toNat).wbuf (kt 0x07).arg.toNat 32))) ∧
    (KtRuns s 0x10 u → s.sealCheck (kt 0x10) = none → s.cld.ready = true → s.cld.waiting = [] →
      12 < (s.residue .key).length → ∀ g, sealGen o = some g →
      completes (.imgSeal u) s u.origin Verdict.ok (BitVec.ofNat 64 (80 + 48 * (s.imageEntries o).length)) fun t =>
        t.keys = s.keys ∧ t.trivet = withOwner s ((kt 0x10).arg.extractLsb 7 0).toNat { o with pendGen := g } ∧
        (t.host.dma.map HostWrite.addr).contains (kt 0x10).label = true) ∧
    (KtRuns s 0x10 u → ∀ v r, s.sealCheck (kt 0x10) = some (v, r) → completes (.imgSeal u) s u.origin v r same) ∧
    (KtRuns s 0x11 u →
      let img := fit (kt 0x11).mask.toNat u.host
      let n := (octet 6 img).toNat
      let w := s.owner n
      let count := ofLE (slice 0x0C 4 img)
      let gen : Word := fieldLE 32 8 4 img
      let tag := gcmTag (s.imageKey n) (slice 0x30 12 img) (img.take 64) (slice 64 (48 * count) img) 16
      let body := gcmCrypt (s.imageKey n) (slice 0x30 12 img) (slice 64 (48 * count) img)
      let installed := (List.range count).map fun i => loadEntry w (fieldLE 64 0x10 8 img) (slice (48 * i) 48 body)
      imageFits w img (kt 0x11).mask.toNat = true → w.state = .live → s.regionUsed w = [] →
      (slice (64 + 48 * count) 16 img ≠ tag → ktRefuses (.imgLoad u) s u.origin ⟨0x0101, 0x24⟩) ∧
      (slice (64 + 48 * count) 16 img = tag → gen ≠ 0 → gen = w.pendGen →
        completes (.imgLoad u) s u.origin Verdict.ok (gen.setWidth 64) fun t =>
          t.keys.table = installed.foldl (fun m e => sparseSet Handle.free m e.1 e.2) s.keys.table ∧
          t.trivet = withOwner s n { w with epoch := w.epoch + 1, imgGen := gen, pendGen := 0 }) ∧
      (slice (64 + 48 * count) 16 img = tag → gen ≠ w.imgGen → gen ≠ w.pendGen →
        ktRefuses (.imgLoad u) s u.origin ⟨0x0206, 0⟩)) ∧
    (KtRuns s 0x12 u → c.state = .live → c.pendGen ≠ 0 → (kt 0x12).arg = c.pendGen →
      completes (.imgCommit u) s u.origin Verdict.ok (c.pendGen.setWidth 64) fun t =>
        t.keys = s.keys ∧ t.trivet = withOwner s ((kt 0x12).handle.extractLsb 7 0).toNat { c with imgGen := c.pendGen, pendGen := 0 }) ∧
    (KtRuns s 0x12 u → c.state = .live → (c.pendGen = 0 ∨ (kt 0x12).arg ≠ c.pendGen) →
      ktRefuses (.imgCommit u) s u.origin ⟨0x0202, 0x1C⟩) ∧
    (KtRuns s 0x13 u → x.state = .live →
      completes (.imgUnload u) s u.origin Verdict.ok (BitVec.ofNat 64 (s.regionUsed x).length) fun t =>
        t.keys.table = sparseMap Handle.free (fun i e => if x.holds i && e.valid then e.freed else e) s.keys.table ∧
        t.trivet = s.trivet) ∧
    (KtRuns s 0x13 u → x.state ≠ .live → ktRefuses (.imgUnload u) s u.origin ⟨0x0201, 0⟩) ∧
    (∀ op i, (op, i) ∈ [(0x01, Instr.create u), (0x02, .generate u), (0x03, .nextGen u), (0x04, .narrow u),
        (0x05, .destroy u), (0x06, .query u), (0x07, .prove u), (0x08, .pin u), (0x09, .unpin u), (0x10, .imgSeal u),
        (0x11, .imgLoad u), (0x12, .imgCommit u), (0x13, .imgUnload u)] →
      s.powered = true → s.eng.jobs = [] → s.stale (newJob s.eng.nextJob (underOp op u)) = false →
      s.quiesces (underOp op u) = false →
      (s.heldJob (underOp op u) = false → ∀ v, s.ktFormat (underOp op u) = some v → ktRefuses i s u.origin v) ∧
      (s.heldJob (underOp op u) = true → Answers i s fun t =>
        (∃ j, t.eng.jobs = [j] ∧ j.stage = .blocked ∧ j.sub = underOp op u) ∧ same t ∧ t.completions = s.completions)) ∧
    (s.powered = true → ∀ (who : Accessor) (v : Word), who.isSH = true → s.reaches who 0x060040 = true →
      let i := v &&& 0x000FFFFF
      let e := s.entry i.toNat
      Answers (.ktTblIdxWrite who v) s fun t => t.reg 0x060040 = i ∧ t.regBytes 0x060044 10 = e.bytes ∧
        t.reg64 0x060070 = BitVec.ofNat 64 (s.ceilingOf e) ∧ t = { s with regs := t.regs })

/-! ### Jobs and their engines (03 to 06) -/

/-- A job that nothing delays: no other job is there, its slice does not quiesce, no copy of its queue entry was dropped, it is
not a register command, and its checks pass. -/
structure JobRuns (s : State) (op : Byte) (u : Submission) : Prop where
  powered : s.powered = true
  idle : s.eng.jobs = []
  fresh : s.stale (newJob s.eng.nextJob (underOp op u)) = false
  quiet : s.quiesces (underOp op u) = false
  origin : u.origin ≠ .regs
  checked : s.jobCheck (underOp op u) = none

/-- The commands that submit a job for an engine's queue, with their opcodes (Table 1.5). -/
def engineRows (u : Submission) : List (Byte × Instr) := [
  (0x40, .digest u), (0x41, .macGen u), (0x42, .macVerify u), (0x46, .rcptCheck u), (0x50, .cipherEncrypt u),
  (0x51, .cipherDecrypt u), (0x52, .cipherMacGen u), (0x53, .cipherMacVerify u), (0x54, .wrap u), (0x55, .unwrap u),
  (0x60, .sign u), (0x61, .verify u), (0x62, .agree u), (0x63, .encap u), (0x64, .rsaDecrypt u), (0x65, .rsaEncrypt u),
  (0x66, .publicKey u)]

/-- The commands whose submission ends without an engine's queue. -/
def directRows (u : Submission) : List (Byte × Instr) := [
  (0x43, .ctxSave u), (0x44, .ctxRestore u), (0x45, .tap u), (0x70, .random u), (0x71, .draw u)]

/-- Nothing of Whisk changes but since when slices wait for a first owned grant (R173). -/
def waitsOnly (s t : State) : Prop :=
  t.whisk = { s.whisk with accounts := t.whisk.accounts } ∧
  ∀ c x, { t.account c x with since := none } = { s.account c x with since := none }

/-- R71, R84, R122, R154, R165, R259, R494: a job whose checks pass and that draws nothing waits in its home engine's queue, on the
pool first where a key is to be derived or its message hashed, with its addresses of space 2 translated; one whose addresses
have no translation completes with ACCESS_FAULT; one that draws waits for Colander before READY; one that its checks refuse, whose
slice quiesces, or that a register command names, completes with that verdict. Keys, records and the slices' accounts stay. -/
def Obligations.JobsEnterTheirQueues : Prop :=
  ∀ (s : State) (u : Submission),
    (∀ op c, (op, c) ∈ engineRows u → JobRuns s op u → jobDraws (underOp op u) = [] →
      ∀ v, s.withReach (underOp op u) = some v →
      let j := s.deriveFirst { (newJob s.eng.nextJob (underOp op u)).passed with sub := v }
      Answers c s fun t => t = { s with
        whisk := t.whisk
        eng := { s.eng with nextJob := s.eng.nextJob + 1, jobs := [{ j with
          stage := .queued
          home := s.homeEngine j.cls (match u.slice? with | some x => x.toNat | none => 0) }] } } ∧ waitsOnly s t) ∧
    (∀ op c, (op, c) ∈ engineRows u → JobRuns s op u → s.withReach (underOp op u) = none →
      completes c s u.origin ⟨0x0505, 0⟩ 0 fun t =>
        t.keys = { s.keys with exhausted := t.keys.exhausted } ∧ t.trivet = s.trivet ∧ waitsOnly s t) ∧
    (∀ op c, (op, c) ∈ engineRows u ++ directRows u → JobRuns s op u → s.cld.ready = false →
      (op = 0x71 → s.stk.hold = false) → ∀ d ds, jobDraws (underOp op u) = d :: ds →
      ∀ v, s.withReach (underOp op u) = some v → (∀ x n f, d = .slice x n f → (s.channel x.toNat).state ≠ .stopped) → Answers c s fun t =>
        ∃ r : Request, r.job = some s.eng.nextJob ∧ r.use = none ∧ t = { s with
          cld := { s.cld with waiting := s.cld.waiting ++ [r] }
          eng := { s.eng with nextJob := s.eng.nextJob + 1, jobs := [{ (newJob s.eng.nextJob (underOp op u)).passed with
            sub := v, stage := .entropy, draws := d :: ds }] } }) ∧
    (∀ op c, (op, c) ∈ engineRows u ++ directRows u → s.powered = true → s.eng.jobs = [] → u.origin ≠ .regs →
      s.stale (newJob s.eng.nextJob (underOp op u)) = false →
      (s.quiesces (underOp op u) = true →
        completes c s u.origin ⟨0x0501, 0⟩ 0 fun t => t.keys = s.keys ∧ t.trivet = s.trivet ∧ waitsOnly s t) ∧
      (s.quiesces (underOp op u) = false → ∀ v, s.jobCheck (underOp op u) = some v →
        completes c s u.origin v 0 fun t =>
          t.keys = { s.keys with exhausted := t.keys.exhausted } ∧ t.trivet = s.trivet ∧ waitsOnly s t)) ∧
    (∀ op c, (op, c) ∈ engineRows u ++ directRows u → s.powered = true → s.eng.jobs = [] → u.origin = .regs →
      s.quiesces (underOp op u) = false → s.heldJob (underOp op u) = false →
      completes c s .regs ⟨0x0101, 0x20⟩ 0 fun t => t.keys = s.keys ∧ t.trivet = s.trivet ∧ waitsOnly s t)

/-- The octets that a write of the device has put into host memory at an address. -/
def wrote (t : State) (addr : Nat) (data : Bytes) : Prop :=
  ∃ w ∈ t.host.dma, w.addr = BitVec.ofNat 64 addr ∧ w.data = data

/-- R92 to R96, R156 to R160: what the jobs without a queue do. RANDOM delivers the channel's octets; DRAW its values, after
its commitment; CTX_SAVE the slot's context, wrapped if keyed; CTX_RESTORE fills the slot or fails its authentication; TAP
takes the lowest idle pool engine, and its close gives the digest of what has passed, a comparison, or LENGTH_SHORT. -/
def Obligations.DirectJobs : Prop :=
  ∀ (s : State) (u : Submission), s.Canonical →
    let ub (op : Byte) : Submission := underOp op u
    let n := (ub 0x70).nat 0x10 8
    let k (op : Byte) : DgBlock := dgBlock (ub op)
    let slot := s.slot (ub 0x43).slotKey
    let clear := slot.context u.issuer.saveSlice
    let keyed := (octet 6 clear).getLsbD 0
    let reached (op : Byte) : Prop := s.withReach (ub op) = some { ub op with reach := some [] }
    (JobRuns s 0x70 u → reached 0x70 → rndSpace (ub 0x70) = 1 → s.cld.ready = true → s.cld.waiting = [] →
      (u.issuer.slice? = none → n < (s.residue .nonce).length →
        completes (.random u) s u.origin Verdict.ok (BitVec.ofNat 64 n) fun t =>
          wrote t ((ub 0x70).nat 0x18 8) ((s.residue .nonce).take n) ∧ t.residue .nonce = (s.residue .nonce).drop n ∧
          t.keys = s.keys) ∧
      (∀ x, u.issuer.slice? = some x → (s.channel x.toNat).state = .ready → (ub 0x70).block[2]? = some 0 →
        s.atLimit (s.channel x.toNat) = false → (s.channel x.toNat).reqs.toNat < 2047 →
        completes (.random u) s u.origin Verdict.ok (BitVec.ofNat 64 n) fun t =>
          wrote t ((ub 0x70).nat 0x18 8) (drbgGenerate (s.channel x.toNat).key n).1 ∧
          t.channel x.toNat = { s.channel x.toNat with
            key := (drbgGenerate (s.channel x.toNat).key n).2, reqs := (s.channel x.toNat).reqs + 1 } ∧
          t.keys = s.keys)) ∧
    (JobRuns s 0x71 u → reached 0x71 → rndSpace (ub 0x71) = 1 → s.cld.ready = true → s.cld.waiting = [] → s.stk.hold = false →
      32 < (s.residue .draw).length →
      let seed := (s.residue .draw).take 32
      let job : Job := { newJob s.eng.nextJob (ub 0x71) with sub := { ub 0x71 with reach := some [] }, rand := seed }
      let w := { s with eng := { s.eng with jobs := [job], nextJob := s.eng.nextJob + 1 } }.setResidue .draw
        ((s.residue .draw).drop 32)
      let cm := sha3_256 (ascii "SH6496 DRAW C" ++ drawTail (ub 0x71) ++ seed)
      let x := drawSample (ub 0x71) seed
      let vals := x.values.flatMap fun v => leNat 4 v
      let result (seq : DWord) : LogRec :=
        drawRec 0x0021 (ub 0x71) (seed ++ beNat 4 x.read ++ beNat 4 (seq.toNat % 2 ^ 32) ++ vals)
      let waits (j : Job) : Prop := Answers (.draw u) s fun t =>
        t.eng.jobs = [j] ∧ t.completions = s.completions ∧ t.cld.draws = s.cld.draws
      (w.logNow 5 (drawRec 0x0020 (ub 0x71) cm) = none → waits job) ∧
      ∀ seq w1, w.logNow 5 (drawRec 0x0020 (ub 0x71) cm) = some (seq, w1) →
      let begun : Job := { job with started := true, result := seq }
      ((w1.setJob begun).logNow 5 (result seq) = none → waits begun) ∧
      ∀ seq' w2, (w1.setJob begun).logNow 5 (result seq) = some (seq', w2) →
      (x.capped = false → completes (.draw u) s u.origin Verdict.ok
          (BitVec.ofNat 64 (4 * drawK (ub 0x71) + 2 ^ 32 * (seq.toNat % 2 ^ 32))) fun t =>
        t.cld.draws = s.cld.draws + 1 ∧ t.keys = s.keys ∧
        (x.values ≠ [] → wrote t ((ub 0x71).nat 0x18 8) vals)) ∧
      (x.capped = true → completes (.draw u) s u.origin ⟨0x0402, 0x54⟩ 0 fun t => t.cld.draws = s.cld.draws)) ∧
    (JobRuns s 0x43 u → reached 0x43 → (k 0x43).dstSpace = 1 →
      let blob := if keyed then
        clear.take 8 ++ kwpWrap (s.kctx u.issuer) (clear.drop 8 ++ s.binding u.issuer) else clear
      completes (.ctxSave u) s u.origin Verdict.ok (BitVec.ofNat 64 blob.length) fun t =>
        wrote t (k 0x43).dst blob ∧ t.eng.slots = s.eng.slots ∧ t.keys = s.keys) ∧
    (JobRuns s 0x44 u → reached 0x44 → (∀ f ∈ u.source, f.space = 1) →
      let blob := s.sourceBytes (ub 0x44) u.source u.host
      let info := algInfo (octet 5 blob)
      let fits := blob.take 5 = [0x53#8, 0x48#8, 0x44#8, 0x43#8, 1#8] ∧ info.isSome = true ∧
        octet 7 blob = u.issuer.saveSlice ∧ octet 6 blob &&& 0xFC = 0
      let isKeyed := match info with | some a => a.keyType.isSome | none => false
      let slots (t : State) (b : Bytes) : Prop :=
        t.eng.slots = sparseSet Slot.empty s.eng.slots (ub 0x44).slotKey (Slot.ofContext b)
      (fits → isKeyed = false → (octet 6 blob).getLsbD 0 = false → blob.length = 400 →
        completes (.ctxRestore u) s u.origin Verdict.ok (BitVec.ofNat 64 (ub 0x44).slotNo) fun t => slots t blob) ∧
      (fits → isKeyed = true → (octet 6 blob).getLsbD 0 = true → blob.length = 416 →
        let opened := kwpUnwrap (s.kctx u.issuer) (blob.drop 8)
        ((opened = none ∨ ∃ p, opened = some p ∧ p.drop 392 ≠ s.binding u.issuer) →
          completes (.ctxRestore u) s u.origin vCtxAuth 0 fun t =>
            t.eng.slots = s.eng.slots ∧ t.eng.ctxErr = s.eng.ctxErr + 1) ∧
        (∀ p e, opened = some p → p.drop 392 = s.binding u.issuer →
          let whole := blob.take 8 ++ p.take 392
          let x := Slot.ofContext whole
          s.checkHandle u.issuer x.handle false = .ok e → some e.type = info.bind AlgInfo.keyType →
          (opCheck e opMacGen = none ∨ opCheck e opMacVerify = none) → s.quorumCheck u.issuer x.handle e 0 = none →
          completes (.ctxRestore u) s u.origin Verdict.ok (BitVec.ofNat 64 (ub 0x44).slotNo) fun t => slots t whole)) ∧
      (¬fits → completes (.ctxRestore u) s u.origin vCtxAuth 0 fun t => t.eng.slots = s.eng.slots)) ∧
    (JobRuns s 0x45 u → reached 0x45 →
      let no := tapNo (ub 0x45)
      let job : Job := { newJob s.eng.nextJob (ub 0x45) with sub := { ub 0x45 with reach := some [] } }
      let w := { s with eng := { s.eng with jobs := [job], nextJob := s.eng.nextJob + 1 } }
      no < 3 → s.tapBusy no = false → s.derivation job = 0 → ∀ m w1 j, s.freeCompanion [] = some m →
      w.startDigest job = (w1, .ok j) → Answers (.tap u) s fun t =>
        let b := k 0x45
        t.tapOf no = { Tap.closed with
          job := some s.eng.nextJob, isOpen := true, engine := BitVec.ofNat 8 m
          digest := Slot.start b.alg b.handle b.import_ j.key j.key2 (BitVec.ofNat 16 b.outLen) } ∧
        (t.engine .pool m).tap = some (BitVec.ofNat 2 no) ∧ (t.engine .pool m).key = keyReg 512 j.key ∧ t.eng.jobs.map Job.stage = [.running] ∧
        t.completions = s.completions) ∧
    ∀ (no : BitVec 2) (stream : Bytes) (j : Job), s.powered = true → no.toNat < 3 → s.eng.jobs = [j] →
      (s.tapOf no.toNat).job = some j.id → (s.tapOf no.toNat).parked = false → j.sub.op = 0x45 →
      (no = 1 → s.worlds.admission = none) →
      let b := dgBlock j.sub
      let x := (if no = 0 then s.tapFeed 0 stream else s).tapOf no.toNat
      let out := (x.digest.absorb (x.buffer ++ x.held)).digest b.out
      let ends (v : Verdict) (r : DWord) (P : State → Prop) : Prop := Answers (.tapClose no stream) s fun t =>
        t.eng.jobs = [] ∧ t.tapOf no.toNat = { Tap.closed with bytes := x.bytes } ∧
        t.completions = s.completions ++ [{ origin := j.sub.origin, verdict := v, half := j.half, result := r }] ∧ P t
      (x.bytes.toNat < b.len → ends ⟨0x0103, 0⟩ 0 fun _ => True) ∧
      (b.len ≤ x.bytes.toNat → b.compare = true → ends Verdict.ok (if out = j.aux then 1 else 2) fun t =>
        t.eng.cmpEq = (if out = j.aux then s.eng.cmpEq + 1 else s.eng.cmpEq) ∧
        t.eng.cmpNe = (if out = j.aux then s.eng.cmpNe else s.eng.cmpNe + 1)) ∧
      (b.len ≤ x.bytes.toNat → b.compare = false → b.dstSpace = 1 → out ≠ [] →
        ends Verdict.ok (BitVec.ofNat 64 out.length) fun t => wrote t b.dst out)

/-- A job ends with a verdict and a result: it is the only job, and no job is left. -/
def jobEnds (c : Instr) (s : State) (j : Job) (v : Verdict) (result : DWord) (P : State → Prop) : Prop :=
  Answers c s fun t => t.eng.jobs = [] ∧
    t.completions = s.completions ++ [{ origin := j.sub.origin, verdict := v, half := j.half, result := result }] ∧ P t

/-- An engine runs a segment of the only job, which is no device work, and as no companion, under the rules of the current
epoch. -/
structure RunsOnly (s : State) (c : EngClass) (n : Byte) (g : Segment) (j : Job) : Prop where
  powered : s.powered = true
  canonical : s.Canonical
  running : (s.engine c n.toNat).running = some g
  own : g.device = false ∧ g.companion = false
  job : g.job = j.id ∧ s.eng.jobs = [j] ∧ j.dev = none
  rules : g.old = false ∧ j.sub.old = false

/-- R71, R103, R107, R108, R165 to R173, R180: a free engine whose turn it is starts the first segment in Whisk's order, charged if
owned, unless other slices' jobs take the uses that its handle has left; at a segment's end the engine is free, its key gone,
and its job ends with a repeated check's verdict, waits again, goes on with its own work when its keys are derived or to the
big-number engines when its message is hashed, or ends with its output. A cipher engine at its generator's limit stalls instead
(R106). -/
def Obligations.SegmentsOfEngines : Prop :=
  (∀ (s : State) (c : EngClass) (n : Byte), s.powered = true → s.Canonical →
    (s.engineFree c n.toNat = false ∨ s.turnOf c n.toNat = false → exec (.engineDispatch c n) s = .next s) ∧
    (s.engineFree c n.toNat = true → s.turnOf c n.toNat = true → s.firstCand c n.toNat = none →
      exec (.engineDispatch c n) s = .next s) ∧
    (s.engineFree c n.toNat = true → s.turnOf c n.toNat = true → ∀ d, s.firstCand c n.toNat = some d →
      s.stale d.job = false → s.usesSpoken c n.toNat d = true → Answers (.engineDispatch c n) s fun t =>
        { origin := d.job.sub.origin, verdict := ⟨0x0203, 0⟩, half := d.job.half, result := 0 } ∈ t.completions) ∧
    (s.engineFree c n.toNat = true → s.turnOf c n.toNat = true → c ≠ .bn → ∀ d, s.firstCand c n.toNat = some d →
      s.eng.jobs = [d.job] → s.stale d.job = false →
      (∀ w v, s.startWork d.job = (w, .error v) → v.status ≠ St.ok →
        jobEnds (.engineDispatch c n) s d.job v 0 fun t => (t.engine c n.toNat).running = none) ∧
      ∀ w k, s.startWork d.job = (w, .ok k) →
      let sp := w.nextSpans k
      k.own = true ∨ (w.spansVerdict k.sub sp).2 = none →
      let job : Job := { (if k.own then k else w.readPart k sp) with stage := .running, headed := false }
      Answers (.engineDispatch c n) s fun t =>
        t.eng.jobs = [job] ∧
        t.engine c n.toNat = { w.engine c n.toNat with
          key := keyReg 512 k.key, tweak := keyReg 256 k.key2, running := some (w.segmentOf { d with job := job }) } ∧
        t.whisk.devRan = (if k.dev.isSome then s.whisk.devRan ++ [c] else s.whisk.devRan) ∧
        ∀ x, k.sub.slice? = some x → (t.account c x.toNat).balance = (if d.owned
          then (w.account c x.toNat).balance - BitVec.ofNat 16 d.reserve else (w.account c x.toNat).balance))) ∧
  ∀ (s : State) (c : EngClass) (n : Byte) (g : Segment) (j : Job) (used : Nat), RunsOnly s c n g j →
    (c = .pool ∨ c = .cipher) →
    let i : Instr := .segmentBoundary c n used
    let e := s.engine c n.toNat
    let free (t : State) : Prop := (t.engine c n.toNat).running = none ∧ (t.engine c n.toNat).key = 0 ∧
      (t.engine c n.toNat).tweak = 0
    let count := e.maskCnt.toNat + s.blocksLeft n.toNat
    let b := s.dgRun j.sub
    let x := (s.slot j.sub.slotKey).absorb j.payload
    let out := x.digest b.out
    (c = .cipher → e.stalled = none → maskLimit < count → exec i s = .next (s.after (s.stall n.toNat))) ∧
    (e.stalled.isSome = true → exec i s = .next s) ∧
    (e.stalled = none → (c = .cipher → count < maskLimit) →
      (∀ v, s.boundaryCheck j = some v → v.status ≠ St.ok → jobEnds i s j v 0 free) ∧
      (s.boundaryCheck j = none → (s.nextPos j).2 = false → c = .pool → Answers i s fun t => free t ∧
        t.eng.jobs = [{ j with pos := (s.nextPos j).1, stage := .queued }] ∧ t.completions = s.completions) ∧
      (s.boundaryCheck j = none → (s.nextPos j).2 = true → c = .pool → j.deriveLeft ≠ 0 →
        let on : Job := { j with deriveLeft := 0, derived := true, pos := 0, cls := j.firstClass }
        (isDigestOp j.sub.op = true ∨ isCipherOp j.sub.op = true ∨ isBnOp j.sub.op = true →
          j.sub.op ≠ 0x43 → j.sub.op ≠ 0x44 → j.sub.op ≠ 0x45 → Answers i s fun t =>
          free t ∧ t.completions = s.completions ∧ ∃ h, t.eng.jobs = [{ on with stage := .queued, home := h }]) ∧
        (j.sub.op = 0x07 → j.sub.issuer.slice? = none → j.seal_ = none → s.heldJob j.sub = false →
          ∀ e k, s.checkUse j.sub.issuer (ktBlock j.sub.block).handle opProve = .ok e → s.deriveFresh e true = some k →
          jobEnds i s j Verdict.ok ((ktBlock j.sub.block).handle.setWidth 64) fun t => free t ∧
            t.regBytes 0x060120 12 = proveResponse s (ktBlock j.sub.block).handle k (s.regBytes 0x060100 8))) ∧
      (s.boundaryCheck j = none → (s.nextPos j).2 = true → c = .pool → j.deriveLeft = 0 →
        isBnOp j.sub.op = true → j.own = false →
        let rest : Job := { j with
          pos := 0, stage := .queued, hashing := j.hashing - 1, passes := j.passes ++ [j.payload], payload := [] }
        let home := ({ s with eng := { s.eng with jobs := [] } } : State).homeEngine .bn
          (match j.sub.slice? with | some x => x.toNat | none => 0)
        Answers i s fun t => free t ∧ t.completions = s.completions ∧
          t.eng.jobs = [if j.hashing ≤ 1 then { rest with cls := .bn, home := home } else rest]) ∧
      (s.boundaryCheck j = none → (s.nextPos j).2 = true → c = .pool → j.deriveLeft = 0 → isBnOp j.sub.op = false →
        (b.op = 0x46 → jobEnds i s j Verdict.ok (if s.rcptEqual j then 1 else 2) free) ∧
        (b.op ≠ 0x46 → b.finish = false → jobEnds i s j Verdict.ok 0 fun t => free t ∧
          t.eng.slots = sparseSet Slot.empty s.eng.slots j.sub.slotKey x) ∧
        (b.op ≠ 0x46 → b.finish = true → (dgBlock j.sub).compare = true →
          jobEnds i s j Verdict.ok (if out = j.aux then 1 else 2) fun t => free t ∧
            t.eng.cmpEq = (if out = j.aux then s.eng.cmpEq + 1 else s.eng.cmpEq) ∧
            t.eng.cmpNe = (if out = j.aux then s.eng.cmpNe else s.eng.cmpNe + 1)) ∧
        (b.op ≠ 0x46 → b.finish = true → (dgBlock j.sub).compare = false → (dgBlock j.sub).dstSpace = 1 → out ≠ [] →
          jobEnds i s j Verdict.ok (BitVec.ofNat 64 out.length) fun t => free t ∧ wrote t (dgBlock j.sub).dst out)) ∧
      (s.boundaryCheck j = none → c = .cipher → j.cls = .cipher → j.pos = 0 → (s.nextPos j).2 = true →
        (cpBlock j.sub).wraps = false → (cpBlock j.sub).dstSpace = 1 → j.cipherRun.1 ≠ [] →
        jobEnds i s j Verdict.ok j.cipherRun.2.1 fun t => free t ∧ wrote t (cpBlock j.sub).dst j.cipherRun.1) ∧
      (s.boundaryCheck j = none → c = .cipher → j.cls = .cipher → (s.nextPos j).2 = true → (cpBlock j.sub).wraps = true →
        let w := s.wrapSegment j j.pos (s.nextPos j).1
        w.2.2 = none → (cpBlock j.sub).op = 0x54 →
        jobEnds i s j Verdict.ok (BitVec.ofNat 64 (cpBlock j.sub).out) fun t => free t ∧
          ∀ x, (t.slc x).rbuf = (w.1.slc x).rbuf))

/-- R52, R113 to R138, R181, R182: a chunk's end counts it and ends a job of one run that is done; two runs are compared, a
mismatch quarantines and counts both engines and repeats the runs once; a job without a pair, and a second failed prime
generation, end with REDUNDANCY_FAIL; a scrub ends, and so does a quarantine whose time is over. -/
def Obligations.BigNumberRuns : Prop :=
  (∀ (s : State) (n : Byte) (g : Segment) (j : Job) (r : Run) (used : Nat) (done : Bool), RunsOnly s .bn n g j →
    j.run g.second = some r → r.engine.toNat = n.toNat → (s.engine .bn n.toNat).health = .online →
    (bnLattice j.sub && !j.primes && (s.companionOf g).isNone) = false → s.expels n.toNat = false →
    let i : Instr := .chunkBoundary n used done
    let r1 := r.step j.secretPart g.cycles
    let j1 := j.setRun g.second (some r1)
    let o := j.input.output
    let free (t : State) : Prop := (t.engine .bn n.toNat).running = none
    (∀ v, s.boundaryCheck j = some v → v.status ≠ St.ok → jobEnds i s j v 0 free) ∧
    (s.boundaryCheck j = none → r1.done = false ∨ j.runs = 2 →
      Answers i s fun t => t.eng.jobs = [j1] ∧ free t ∧ t.completions = s.completions) ∧
    (s.boundaryCheck j = none → r1.done = true → j.runs ≠ 2 → g.second = false →
      (r.status ≠ 0 → jobEnds i s j ⟨r.status, 0⟩ 0 free) ∧
      (r.status = 0 → j.own = false → j.sub.op = 0x61 → jobEnds i s j Verdict.ok o.2 fun t => free t ∧
        t.eng.cmpEq = (if o.2 = 1 then s.eng.cmpEq + 1 else s.eng.cmpEq) ∧
        t.eng.cmpNe = (if o.2 = 1 then s.eng.cmpNe else s.eng.cmpNe + 1)) ∧
      (r.status = 0 → j.own = false → j.sub.op ≠ 0x61 → (bnBlock j.sub).dstSpace = 1 → o.1 ≠ [] → r.outLen = o.1.length →
        jobEnds i s j Verdict.ok o.2 fun t => free t ∧ wrote t (bnBlock j.sub).dst o.1))) ∧
  (∀ (s : State) (j : Job) (a b : Run), s.powered = true → s.Canonical → s.eng.jobs = [j] → j.run1 = some a → j.run2 = some b →
    a.done = true → b.done = true →
    let out := s.runOutput a
    let quiet (n : BitVec 6) : Prop := (s.engine .bn n.toNat).health = .online ∧ (s.engine .bn n.toNat).mism = []
    let hurt (t : State) (n : BitVec 6) : Prop := (t.engine .bn n.toNat).health = .quarantined (s.now + 1500000) ∧
      (t.engine .bn n.toNat).mismatches = (s.engine .bn n.toNat).mismatches + 1
    let again : Job := { j with
      run1 := none, run2 := none, front := true, reruns := 1, excluded := j.excluded ++ [a.engine, b.engine] }
    let phase : Job := { j with key2 := publicKeyOf (bnBlock j.sub).alg j.key, run2 := none }
    let bytes := rsaBytes (s.entry (hIndex (primeHandle j.sub))).type
    let consistent := rsaConsistent bytes (rsaGenerate bytes j.key)
    (j.primes = false → j.runs = 2 →
      (j.inPhase = false → a.status = 0 → j.own = false → j.sub.op ≠ 0x61 → (bnBlock j.sub).dstSpace = 1 → out ≠ [] →
        jobEnds (.repeatCompare j.id true) s j Verdict.ok j.input.output.2 fun t => wrote t (bnBlock j.sub).dst out) ∧
      (j.inPhase = true → (s.engine .bn a.engine.toNat).health = .online → Answers (.repeatCompare j.id true) s fun t =>
        t.eng.jobs = [{ phase with run1 := some (s.newRun phase false a.engine.toNat a.base.toNat a.areas.toNat) }] ∧
        t.completions = s.completions) ∧
      (a.engine ≠ b.engine → quiet a.engine → quiet b.engine → j.reruns = 0 → Answers (.repeatCompare j.id false) s fun t =>
        t.eng.jobs = [again] ∧ hurt t a.engine ∧ hurt t b.engine ∧ (t.reg intBn).getLsbD 0 = true ∧
        (t.reg intWsk).getLsbD 0 = true) ∧
      (a.engine ≠ b.engine → quiet a.engine → quiet b.engine → 1 ≤ j.reruns → isBnOp j.sub.op = true →
        jobEnds (.repeatCompare j.id false) s j ⟨0x0309, 0x40⟩ 0 fun t =>
          hurt t a.engine ∧ hurt t b.engine ∧ (t.reg intBn).getLsbD 1 = true)) ∧
    (j.primes = true → s.heldJob j.sub = false →
      (isKtOp j.sub.op = false → consistent = true → Answers (.primeGeneration j.id a.engine b.engine true) s fun t =>
        t.eng.jobs = [{ j with
          primes := false, primed := true, key := [], reruns := 0, excluded := [], run1 := none, run2 := none }] ∧
        t.completions = s.completions) ∧
      ∀ ok, (ok && consistent) = false → a.engine ≠ b.engine → quiet a.engine → quiet b.engine →
        (j.reruns = 0 → Answers (.primeGeneration j.id a.engine b.engine ok) s fun t =>
          t.eng.jobs = [again] ∧ hurt t a.engine ∧ hurt t b.engine) ∧
        (1 ≤ j.reruns → jobEnds (.primeGeneration j.id a.engine b.engine ok) s j ⟨0x0309, 0x42⟩ 0 fun t =>
          hurt t a.engine ∧ hurt t b.engine ∧ (t.reg intBn).getLsbD 1 = true))) ∧
  (∀ (s : State) (j : Job), s.powered = true → s.eng.jobs = [j] →
    let able := ((List.range 64).filter fun n => s.eligibleRun j n).length
    let need := (if j.run1.isNone then 1 else 0) + (if j.run2.isNone then 1 else 0)
    (j.cls = .bn → j.runs = 2 → able < need → isBnOp j.sub.op = true →
      jobEnds (.noPairTimeout j.id) s j ⟨0x0309, 0x41⟩ 0 fun t =>
        t.eng.rfail = s.eng.rfail + 1 ∧ (t.reg intBn).getLsbD 1 = true) ∧
    (j.cls ≠ .bn ∨ j.runs ≠ 2 ∨ need ≤ able → exec (.noPairTimeout j.id) s = .next s) ∧
    (j.primes = false → ∀ e1 e2 ok, exec (.primeGeneration j.id e1 e2 ok) s = .next s) ∧
    (j.primes = true → ∀ equal, exec (.repeatCompare j.id equal) s = .next s)) ∧
  ∀ (s : State) (c : EngClass) (n : Byte), s.powered = true → s.Canonical →
    let e := s.engine c n.toNat
    let put (x : Engine) : State := s.setEngine c n.toNat x
    (e.scrubbing = true → exec (.scrubDone c n true) s = .next (put { e with scrubbing := false })) ∧
    (e.scrubbing = true →
      Reported (.scrubDone c n false) s (put { e with scrubbing := false, scrubFailed := true }) intBn 2) ∧
    (e.scrubbing = false → ∀ clean, exec (.scrubDone c n clean) s = .next s) ∧
    (∀ end_, e.health = .quarantined end_ → exec (.quarantineEnd c n) s =
      .next (if end_ ≤ s.now then put { e with health := .rejoining } else s)) ∧
    ((∀ end_, e.health ≠ .quarantined end_) → exec (.quarantineEnd c n) s = .next s)

/-! ### Whisk's frames and the errors (06) -/

/-- Nothing waits to land at the next frame start, and no entry of the calendar is due. -/
structure QuietFrame (s : State) : Prop where
  powered : s.powered = true
  canonical : s.Canonical
  power : s.power.pending = false
  strainer : s.str.pending = false ∧ s.str.draining = false
  markets : s.mkt.commands = []
  steady : ∀ p, p < 16 → (s.port p).steerPend = false ∧ (s.port p).restore = false
  calendar : s.cal.entries = []
  joined : ∀ g, g < 26 → (s.pgroup g).joined = true
  online : ∀ e ∈ s.eng.table, e.2.health ≠ .rejoining

/-- R31, R167, R168, R182, R457: a frame starts where the counter stands at a multiple of 8,000 ns whose frame does not run yet;
the frame number follows the counter and every slice's balance in a class becomes
the share of the class's online engines; an engine past its quarantine is online again. At any other time nothing starts. -/
def Obligations.FrameStartSharesTheEngines : Prop :=
  (∀ s : State, QuietFrame s → s.tl.ns.toNat % 8000 = 0 →
    s.whisk.ended = true ∨ s.whisk.frame.toNat ≠ s.tl.ns.toNat / 8000 →
    let count (c : EngClass) : Nat := ((List.range c.size).filter fun n => s.online c n).length
    let share (n : Nat) : Share := { q := BitVec.ofNat 16 ((n * 9000 - 3000) / 64), n := BitVec.ofNat 8 n }
    Answers .frameStart s fun t =>
      t.whisk.frame = BitVec.ofNat 64 (s.tl.ns.toNat / 8000) ∧ t.whisk.ended = false ∧ t.whisk.devRan = [] ∧ t.cld.rot = s.cld.rot + 1 ∧
      t.whisk.shareDg = share (count .pool) ∧ t.whisk.shareCp = share (count .cipher) ∧
      t.whisk.shareBn = share (count .bn) ∧
      (∀ x, x < 64 → (t.account .pool x).balance = (share (count .pool)).q ∧
        (t.account .cipher x).balance = (share (count .cipher)).q ∧ (t.account .bn x).balance = (share (count .bn)).q) ∧
      (∀ x, x < 64 → (t.account .pool x).owned = (s.account .pool x).owned ∧
        (t.account .pool x).borrowed = (s.account .pool x).borrowed) ∧
      t.eng.jobs = s.eng.jobs ∧ t.keys = s.keys ∧ t.trivet = s.trivet ∧ t.modes = s.modes ∧ t.str = s.str) ∧
  (∀ s : State, s.tl.ns.toNat % 8000 ≠ 0 ∨ (s.whisk.ended = false ∧ s.whisk.frame.toNat = s.tl.ns.toNat / 8000) →
    exec .frameStart s = .next s) ∧
  ∀ (s : State) (c : EngClass) (n : Byte), s.powered = true → s.Canonical → s.power.pending = false → s.str.pending = false →
    s.mkt.commands = [] → s.cal.entries = [] → (s.engine c n.toNat).health = .rejoining → s.frameDue = true →
    Answers .frameStart s fun t => (t.engine c n.toNat).health = .online

/-- R181, R210, R430, R431, Tables 6.4 and 6.12: each kind of error is counted in its window and has its consequence: a retry, a
quarantine, a retirement, a spare line, a cleared cache line, a fatal condition, a failover. -/
def Obligations.ErrorsAreCountedAndHandled : Prop :=
  ∀ s : State, s.powered = true → s.Canonical →
    let within (span : Nat) (l : List Nat) : List Nat := l.filter fun a => s.now < a + span
    let minute := 90000000000
    let second := 1500000000
    (∀ (c : EngClass) (n : Byte), n.toNat < c.size →
      let e := s.engine c n.toNat
      let ce := within minute e.ce ++ [s.now]
      let ue := within minute e.ue ++ [s.now]
      e.health ≠ .retired →
      (ce.length < 8 → e.health = .online →
        exec (.eccErrorEngine c n false) s = .next (s.setEngine c n.toNat { e with ce := ce })) ∧
      (8 ≤ ce.length → Answers (.eccErrorEngine c n false) s fun t =>
        (t.engine c n.toNat).health = .retired ∧ (t.engine c n.toNat).cause = 2 ∧ (t.reg intWsk).getLsbD 1 = true) ∧
      (ue.length < 2 → e.running = none → Answers (.eccErrorEngine c n true) s fun t =>
        (t.engine c n.toNat).health = .quarantined (s.now + 1500000) ∧ (t.engine c n.toNat).ue = ue ∧
        (t.reg intWsk).getLsbD 0 = true) ∧
      (2 ≤ ue.length → Answers (.eccErrorEngine c n true) s fun t =>
        (t.engine c n.toNat).health = .retired ∧ (t.engine c n.toNat).cause = 3 ∧
        (c ≠ .bn ∨ e.running = none → (t.engine c n.toNat).key = 0))) ∧
    (∀ (c : EngClass) (n : Byte) (u : Bool), (c.size ≤ n.toNat ∨ (s.engine c n.toNat).health = .retired) →
      exec (.eccErrorEngine c n u) s = .next s) ∧
    (∀ (i : BitVec 4) (line : Nat) (sl : BitVec 6) (ix : BitVec 20), i.toNat < 9 →
      let x := s.sram i.toNat
      let ts := within minute (sparseGet [] x.lines line) ++ [s.now]
      let y : Sram := { x with ce := satInc x.ce }
      (ts.length < 3 → exec (.eccErrorShared i line sl ix false) s =
        .next (s.setSram i.toNat { y with lines := sparseSet [] x.lines line ts })) ∧
      (3 ≤ ts.length → x.spares.toNat < 64 → Reported (.eccErrorShared i line sl ix false) s
        (s.setSram i.toNat { y with lines := sparseSet [] x.lines line [], spares := x.spares + 1 }) intWsk 4) ∧
      (3 ≤ ts.length → 64 ≤ x.spares.toNat → Reported (.eccErrorShared i line sl ix false) s
        (s.setSram i.toNat { y with lines := sparseSet [] x.lines line ts }) intWsk 5) ∧
      (i = 4 → Answers (.eccErrorShared i line sl ix true) s fun t =>
        t = { s with keys := { s.keys with cache := t.keys.cache } } ∧
        ∀ p, (t.partition p).lines = if p = sl.toNat then (s.partition p).lines.filter (fun l => l.index != ix)
          else (s.partition p).lines) ∧
      (i ≠ 4 → s.modes.mode = .recovery → Answers (.eccErrorShared i line sl ix true) s fun t =>
        t.trivet = { s.trivet with cause := 0x06, causeArg := i.setWidth 8 })) ∧
    (∀ (i : BitVec 4) (line : Nat) (sl : BitVec 6) (ix : BitVec 20) (u : Bool), 10 ≤ i.toNat ∨ (i.toNat = 9 ∧ u = false) →
      exec (.eccErrorShared i line sl ix u) s = .next s) ∧
    (exec .lcrcError s = .next { s with whisk := { s.whisk with lcrc := within second s.whisk.lcrc ++ [s.now] } }) ∧
    (∀ p : BitVec 4,
      let x := s.port p.toNat
      let y := s.port (partner p.toNat)
      let ts := within second x.fecErrs ++ [s.now]
      let fails (i : Instr) (z : Port) : Prop := Answers i s fun t =>
        t.port p.toNat = { z with failed := true, receipts := [], restore := false } ∧
        t.port (partner p.toNat) = { y with receipts := y.receipts ++ x.receipts.map (fun a => a.redirect y.mac), steerPend := true } ∧
        (t.reg intWsk).getLsbD 7 = true ∧ t.keys = s.keys ∧ t.mkt.table = s.mkt.table
      (ts.length < 32 → exec (.rsfecUncorrectable p) s =
        .next (s.setPort p.toNat { x with fecErrs := ts, drop := x.drop + 1 })) ∧
      (32 ≤ ts.length → x.failed = false → fails (.rsfecUncorrectable p) { x with fecErrs := ts, drop := x.drop + 1 }) ∧
      (x.failed = false → fails (.streamLossOfLock p) { x with lock := false }) ∧
      (x.failed = true → exec (.streamLossOfLock p) s = .next (s.setPort p.toNat { x with lock := false })) ∧
      (x.lock = false → exec (.streamBlockLock p) s =
        .next (s.setPort p.toNat { x with lock := true, lockSince := s.now })) ∧
      (x.lock = true → exec (.streamBlockLock p) s = .next s)) ∧
    ∀ port : Bool,
      let ts := within second (if port then s.aud.errsB else s.aud.errsA) ++ [s.now]
      let bad : Audit := { s.aud with rxBad := s.aud.rxBad + 1 }
      let kept (a : Audit) (l : List Nat) : Audit := if port then { a with errsB := l } else { a with errsA := l }
      let unlocked : Audit := if port then { s.aud with lockB := false } else { s.aud with lockA := false }
      let switched (a : Audit) : Audit := { a with active := !a.active, switches := a.switches + 1 }
      (s.audEnable = false → exec (.auditFrameError port) s = .next { s with aud := bad }) ∧
      (s.audEnable = true → (ts.length < 32 ∨ s.aud.active ≠ port) →
        exec (.auditFrameError port) s = .next { s with aud := kept bad ts }) ∧
      (s.audEnable = true → 32 ≤ ts.length → s.aud.active = port → Answers (.auditFrameError port) s fun t =>
        t.aud = switched (kept bad []) ∧ t.stk.exp = s.stk.ack + 1 ∧ (t.reg intAud).getLsbD 2 = true ∧
        (t.reg intWsk).getLsbD 7 = true) ∧
      (s.audEnable = true → s.aud.active = port → Answers (.auditLossOfLock port) s fun t =>
        t.aud = switched unlocked ∧ t.stk.exp = s.stk.ack + 1 ∧ (t.reg intAud).getLsbD 4 = true ∧
        (t.reg intWsk).getLsbD 7 = true) ∧
      (s.audEnable = false ∨ s.aud.active ≠ port →
        Reported (.auditLossOfLock port) s { s with aud := unlocked } intAud 4)

/-! ### The timeline and the calendar (07) -/

/-- A reference's edge and message, judged consistent (R190): what the reference then holds, with what Table 7.1 has recorded and
not used. -/
def consistent (x : Tref) (m : Bytes) : Tref := { x with
  taiUtc := fieldBE 16 12 2 m, accuracy := fieldBE 32 14 4 m, msgSeq := fieldBE 16 18 2 m
  windowOpen := false, quality := (octet 10 m).extractLsb 3 0, cnt := satInc x.cnt, prevOk := true
  prevSec := BitVec.ofNat 48 (ofBE (slice 4 6 m)), goodEdge := x.edge }

/-- R189 to R201, R205: a PPS edge samples the counter; a consistent edge with its message steps the counter once, at first
lock, and slews it within ±50 ppm afterwards; a failed or missing edge starts its reference again; the selected reference's
failure switches to the other one, if that agrees, or enters HOLDOVER; its expiry enters UNTRUSTED and closes the windows; a
good reference resumes the lock, and where time was untrusted a dispatch pass follows at once. No tick of a market has ended
that is still to close. -/
def Obligations.TimelineDiscipline : Prop :=
  ∀ (s : State) (r : Bool), s.powered = true → s.meetTicks = s →
    let x := s.tref r
    let o := s.tref !r
    let sel := s.tref s.tl.sel
    let kept := (s.tl.span :: s.tl.past).take pastSpans
    let fails (y : Tref) : State := s.setTref r { y with cnt := 0, prevOk := false, windowOpen := false }
    let free (u : State) : State :=
      if s.tl.following = some r then { u with tl := { u.tl with inc := s.tl.learned, following := none } } else u
    let far (y : Tref) : Tref := { y with freqOk := y.freqOk && decide (s.tl.ns.toNat < y.edge.toNat + 1000010000) }
    (∀ i f, exec (.ppsEdge r i f) s = .next (s.setTref r { x with
      edge := s.tl.ns, seen := true, windowOpen := true, interval := i, freqOk := f })) ∧
    (x.windowOpen = false → ∀ m y d, exec (.todMessageClose r m y d) s = .next s) ∧
    (∀ (i : Instr) (y : Tref), ((i = .edgeMissing r ∧ y = far x) ∨ (i = .referenceFail ∧ y = x ∧ s.tl.state = .locked ∧
        r = s.tl.sel ∧ x.windowOpen = false ∧ x.lateAt ≤ s.tl.ns.toNat)) →
      let w := fails { y with lastErr := 8 }
      (s.tl.state = .locked → r ≠ s.tl.sel → exec i s = .next w) ∧
      (s.tl.state ≠ .locked → exec i s = .next (free w)) ∧
      (s.tl.state = .locked → r = s.tl.sel → o.qualified = true → (s.phaseOf o).natAbs ≤ 100 → o.residOk = true →
        Reported i s { w with tl := { w.tl with
          sel := !r, resid := BitVec.ofNat 32 o.resid, phase := BitVec.ofInt 32 (s.phaseOf o)
          learned := match o.offset? with | some a => incFor a | none => s.tl.learned } } intTl 4) ∧
      (s.tl.state = .locked → r = s.tl.sel → o.qualified = true → (s.phaseOf o).natAbs ≤ 100 → o.residOk = false →
        Answers i s fun t => t.tl.state = .untrusted ∧ t.tl.sel = !r ∧ t.tl.residHigh = true ∧ t.cus.windows = [] ∧
          (t.reg intTl).getLsbD 4 = true ∧ (t.reg intTl).getLsbD 2 = true) ∧
      (s.tl.state = .locked → r = s.tl.sel → o.qualified = false → s.tl.resid = 0 →
        Reported i s { w with tl := { w.tl with
          state := .holdover, hold := x.goodEdge, untr := x.goodEdge + 10000000000, inc := s.tl.learned, past := kept
          following := none } } intTl 1)) ∧
    (s.tl.state ≠ .locked ∨ sel.windowOpen = true ∨ s.tl.ns.toNat < sel.lateAt → exec .referenceFail s = .next s) ∧
    (x.windowOpen = true → ∀ m y d,
      (todFramed m = false →
        let w := fails { x with crcErr := satInc x.crcErr, lastErr := 1 }
        (s.tl.state = .locked → r ≠ s.tl.sel → exec (.todMessageClose r (some m) y d) s = .next w) ∧
        (s.tl.state ≠ .locked → exec (.todMessageClose r (some m) y d) s = .next (free w))) ∧
      (todGood (some m) true = true → ∀ k,
        let z : Tref := { x with
          windowOpen := false, quality := (octet 10 m).extractLsb 3 0
          taiUtc := fieldBE 16 12 2 m, accuracy := fieldBE 32 14 4 m, msgSeq := fieldBE 16 18 2 m }
        s.edgeFails z (some m) true (x.cnt == 0) = some k →
        (s.tl.state = .locked → r ≠ s.tl.sel →
          exec (.todMessageClose r (some m) true d) s = .next (fails { z with lastErr := k })) ∧
        (s.tl.state ≠ .locked →
          exec (.todMessageClose r (some m) true d) s = .next (free (fails { z with lastErr := k }))))) ∧
    (x.windowOpen = true → ∀ m (d : Int), todGood (some m) true = true →
      s.edgeFails { x with windowOpen := false, quality := (octet 10 m).extractLsb 3 0 } (some m) true (x.cnt == 0) = none →
      let y := (consistent x m).learn (todSec m - x.prevSec.toNat) d
      let phi := s.phaseOf y
      let i : Instr := .todMessageClose r (some m) true d
      (s.tl.state = .unset → s.modes.mode = .startup → s.tl.stepped = false → 7 ≤ x.cnt.toNat → o.cnt = 0 →
        y.residOk = true → ∃ u : State, exec i s = .next (s.after u.calDispatch) ∧
          u.tl.state = .locked ∧ u.tl.stepped = true ∧ u.tl.sel = r ∧
          u.tl.ns = s.tl.ns + BitVec.ofInt 64 (s.secValue y.prevSec.toNat - (x.edge.toNat : Int)) ∧
          u.tl.untrustedTo = u.tl.ns ∧ u.whisk = s.whisk.endFrame ∧
          u.modes = { s.modes with firstLock := true, steps := s.modes.steps ||| 32 } ∧ (u.reg intTl).getLsbD 0 = true) ∧
      (s.tl.state = .locked → r = s.tl.sel → y.residOk = true → Answers i s fun t =>
        t.tl.state = .locked ∧ t.tl.ns = s.tl.ns ∧ t.tl.phase = BitVec.ofInt 32 phi ∧ t.tl.learned = incFor d ∧
        incMin ≤ t.tl.inc.toNat ∧ t.tl.inc.toNat ≤ incMax ∧ t.modes = s.modes) ∧
      (s.tl.state = .holdover → 7 ≤ x.cnt.toNat → phi.natAbs ≤ 20 → y.residOk = true → Answers i s fun t =>
        t.tl.state = .locked ∧ t.tl.sel = r ∧ t.tl.ns = s.tl.ns ∧ t.tl.holdoverTo = s.tl.ns ∧
        t.tl.untrustedTo = s.tl.untrustedTo ∧ (t.reg intTl).getLsbD 3 = true) ∧
      (s.tl.state = .untrusted → s.tl.stepNeeded = false → 7 ≤ x.cnt.toNat → phi.natAbs ≤ 20 → y.residOk = true →
        ∃ u : State, exec i s = .next (s.after u.calDispatch) ∧ u.tl.state = .locked ∧ u.tl.sel = r ∧ u.tl.ns = s.tl.ns ∧
          u.tl.untrustedTo = s.tl.ns ∧ u.cal = s.cal ∧ (u.reg intTl).getLsbD 3 = true) ∧
      (s.tl.state = .untrusted → 1000000 < phi.natAbs → s.tl.stepNeeded = false → Answers i s fun t =>
        t.tl.state = .untrusted ∧ t.tl.stepNeeded = true ∧ t.tl.ns = s.tl.ns ∧ t.tl.inc = s.tl.learned ∧
        t.tl.learned = s.tl.learned ∧ t.tl.following = none ∧
        (t.reg intTl).getLsbD 6 = true)) ∧
    (s.tl.state = .holdover → s.tl.untr.toNat ≤ s.tl.ns.toNat → Answers .holdoverExpiry s fun t =>
      t.tl = { s.tl with state := .untrusted, holdoverTo := s.tl.ns, inc := s.tl.learned, past := kept, following := none } ∧
      t.cus.windows = [] ∧ t.modes = s.modes ∧ t.keys = s.keys ∧ t.trivet = s.trivet ∧ (t.reg intTl).getLsbD 2 = true) ∧
    (s.tl.state ≠ .holdover ∨ s.tl.ns.toNat < s.tl.untr.toNat → exec .holdoverExpiry s = .next s) ∧
    (s.str.firstRefusal false (s.accessAttr .manager) true permR (barCheck 0x0B0008) 4 = none →
      exec (.tlNowLoRead .manager) s = .next { s with tl := { s.tl with nowHi := (s.tl.ns >>> 32).setWidth 32 } }) ∧
    (∀ h, Answers (.tlNowLoRead (.host h)) s fun t => t.tl = s.tl) ∧
    (∀ who, who = .s ∨ (∃ c, who = .h c ∨ who = .n c) → exec (.tlNowLoRead who) s = .next s)

/-- What a calendar command leaves in its status register. -/
def calStatus (v : Verdict) (found : Bool) : Word :=
  v.status.setWidth 32 ||| (v.detail.setWidth 32 <<< 16) ||| (if found then 0x80000000#32 else 0)

/-- R202 to R208: ADD places the entry that the registers describe in the lowest free index, due at the next whole µs where
its instant has come or passed, or refuses it; CANCEL removes the
entry named, READ shows it, each for S and H any entry, for N its slice's; a pass fires a due entry with its effect, once
or again after its period, and holds a user's entry while time is untrusted. -/
def Obligations.CalendarCommandsAndDispatch : Prop :=
  ∀ (s : State) (who : Accessor), s.powered = true → s.Canonical → who.commands = true →
    s.reaches who 0x0C0004 = true →
    let copy := who.copy
    let b := s.regBytes (copy + 0x0C0010) 6
    let i := s.issuerOf who
    let e := CalEntry.ofBytes b i
    let index := freeIndex 0 (s.cal.entries.map Prod.fst)
    let status (t : State) : Word := t.reg (copy + 0x0C0008)
    let below := s.cal.entries.filter fun x => x.1 < index
    let above := s.cal.entries.filter fun x => index < x.1
    let due := if e.atUs.toNat * 1000 ≤ s.tl.ns.toNat then some (BitVec.ofNat 64 (s.tl.ns.toNat / 1000 + 1)) else none
    let placed := below ++ [(index, { e with due := due })] ++ above
    (s.calRefusal i b = none → s.calUsed e.slice < (if e.slice = 0xFF then 16384 else 768) →
      Answers (.calAdd who) s fun t => status t = calStatus Verdict.ok false ∧
        t.reg (copy + 0x0C000C) = BitVec.ofNat 32 index ∧
        t = { s with regs := t.regs, cal := { s.cal with entries := placed } }) ∧
    (s.calRefusal i b = none → 768 ≤ s.calUsed e.slice → e.slice ≠ 0xFF → Answers (.calAdd who) s fun t =>
      status t = calStatus ⟨0x0202, 0x60⟩ false ∧ t = { s with regs := t.regs }) ∧
    (∀ v, s.calRefusal i b = some v → Answers (.calAdd who) s fun t =>
      status t = calStatus v false ∧ t = { s with regs := t.regs }) ∧
    (∀ k x, s.calNamed who = some (k, x) →
      (x.kind ≠ 0x06 → Answers (.calCancel who) s fun t => status t = calStatus Verdict.ok true ∧
        t = { s with regs := t.regs, cal := { s.cal with
          entries := s.cal.entries.filter (fun y => y.1 != k), held := s.cal.held.filter (fun n => n != k) } }) ∧
      Answers (.calRead who) s fun t => status t = calStatus Verdict.ok true ∧
        t.regBytes (copy + 0x0C0010) 6 = x.bytes ∧ t = { s with regs := t.regs }) ∧
    (s.calNamed who = none → ∀ c ∈ [Instr.calCancel who, .calRead who], Answers c s fun t =>
      status t = calStatus Verdict.ok false ∧ t = { s with regs := t.regs }) ∧
    (∀ h, exec (.calAdd (.host h)) s = .next (s.after (s.denied (.host h) 0x0C0004))) ∧
    ((∀ x ∈ s.cal.entries, s.nowUs < x.2.dueUs) → s.cal.held = [] →
      exec .calendarDispatch s = .next { s with cal := { s.cal with passTo := s.now } }) ∧
    ∀ (k : Nat) (x : CalEntry), s.cal.entries = [(k, x)] → s.cal.held = [] → x.dueUs ≤ s.nowUs →
      let p := x.period.toNat
      let now := s.nowUs
      let late := x.due.isSome || decide (x.atUs.toNat < now)
      let moved : CalEntry := { x with
        atUs := BitVec.ofNat 64 (x.atUs.toNat + ((now - x.atUs.toNat) / p + 1) * p), late := late, due := none }
      let pass : Calendar := { s.cal with passTo := s.now + 2 }
      let still : Calendar := { s.cal with passTo := s.now, held := [k] }
      let cal : Calendar := { pass with
        entries := if p = 0 then [] else [(k, moved)], late := if late then s.cal.late + 1 else s.cal.late }
      let event : Event := { kind := x.kind, arg := x.arg, tag := x.tag, index := BitVec.ofNat 32 k }
      (s.timeUntrusted = true → x.kind ≠ 0x03 → x.kind ≠ 0x05 →
        Reported .calendarDispatch s { s with cal := still } intCal 1) ∧
      (s.timeUntrusted = false → (x.kind = 0x04 ∨ x.kind = 0x07) → Answers .calendarDispatch s fun t =>
        Reports { s with cal := cal } t ∧ t = s.after (({ s with cal := cal }).postEvent x.queueKey event)) ∧
      (s.timeUntrusted = false → x.kind = 0x01 → p = 0 → (s.market x.arg.toNat).state = .scheduled →
        Answers .calendarDispatch s fun t => t.cal = cal ∧
          t.market x.arg.toNat = { s.market x.arg.toNat with state := .open_ } ∧ t.keys = s.keys) ∧
      (s.timeUntrusted = false → x.kind = 0x02 → p = 0 → (s.market x.arg.toNat).state = .open_ →
        Answers .calendarDispatch s fun t => t.cal = cal ∧
          t.market x.arg.toNat = { s.market x.arg.toNat with state := .closing, closingAt := s.tl.ns } ∧ t.keys = s.keys) ∧
      (s.timeUntrusted = false → x.kind = 0x06 → p = 0 →
        ∀ rd, (s.ctx x.arg.toNat).state = .waiting → (s.ctx x.arg.toNat).wait = .tlwait rd →
        Answers .calendarDispatch s fun t => t.cal = cal ∧
          ((t.ctx x.arg.toNat).state = .ready ∨ (t.ctx x.arg.toNat).state = .running) ∧
          (t.ctx x.arg.toNat).g = ((s.ctx x.arg.toNat).setG rd (if late then 1 else 0)).g)


/-! ### Wagers, stamps and markets (08) -/

/-- The stamp key and the seal keys of a market can be used (R221): a seal key has a use left. -/
def usableKeys (s : State) (m : Market) : Prop :=
  let usable (op : Nat) (h : Word) : Bool :=
    (s.recheck (.slice m.slice6) h op).isNone && !(op == opSeal && limitReached (s.entry (hIndex h)))
  usable opStamp m.stampHandle = true ∧ (m.sealHandle ≠ 0 → usable opSeal m.sealHandle = true) ∧
  (m.seal2Handle ≠ 0 → usable opSeal m.seal2Handle = true)

/-- No market's tick end has passed that the market has still to meet (R234). -/
def ticksMet (s : State) : Prop := ∀ e ∈ s.mkt.table, ∀ d ∈ e.2.dueEnds, s.tl.ns.toNat < d

/-- A wager that reaches the last rows of Table 8.6 at its market, whose key the slice's partition holds and whose port's two
lane engines have room: nothing stands in the way of a leaf with a MAC. -/
structure Stampable (s : State) (p : Nat) (f : WagerFrame) (l : CacheLine) (a b : EngPlace) : Prop where
  powered : s.powered = true
  canonical : s.Canonical
  room : s.receiptsHeld p < 24
  ticks : ticksMet s
  open_ : s.rowsTo2 = none
  well : badWager f.payload = false
  mine : s.rowsTo7 p (s.market (ofBE (slice 4 4 f.payload))) (fieldBE 64 8 8 f.payload) = none
  left : (s.market (ofBE (slice 4 4 f.payload))).exhausted = false
  kept : (s.market (ofBE (slice 4 4 f.payload))).keyLost = false ∧ ∀ e ∈ s.mkt.table, usableKeys s e.2
  uses : 0 < s.usesLeft (s.market (ofBE (slice 4 4 f.payload))).stampHandle
  held : (s.partition (s.market (ofBE (slice 4 4 f.payload))).slice6.toNat).find
    (hIndex (s.market (ofBE (slice 4 4 f.payload))).stampHandle) false = some l
  lanes : s.lanesFor p = some (a, b)
  gate : s.tamper.gateClosed = false

/-- R194, R210, R211, R213 to R215, R222 to R231: a frame that the MAC of a port with block lock accepts waits in its FIFO with
its arrival value and the bound and condition of the timeline at that value, a full FIFO drops it; the allocator, which serves
frames of one instant in rotated port order, answers it with one receipt from the port's address: without a leaf where rows 1 to 3
say so and no orphan market takes it, else with the next sequence number of its market, one stamp use, and two MAC
computations, whose agreement releases the receipt with the MAC and whose second disagreement releases it without. -/
def Obligations.WagersAreDecidedAndStamped : Prop :=
  ∀ (s : State) (port : BitVec 4), s.powered = true → s.Canonical →
    let p := port.toNat
    let x := s.port p
    let onlyPorts (t : State) : Prop :=
      t = { s with mkt := { s.mkt with ports := t.mkt.ports } } ∧ ∀ q, q ≠ p → t.port q = s.port q
    (∀ fr a, x.lock = false ∨ s.tl.ns.toNat < a.toNat → exec (.wagerFrameReceive port fr a) s = .next s) ∧
    (∀ fr a, x.lock = true → a.toNat ≤ s.tl.ns.toNat → x.accepts fr = false →
      exec (.wagerFrameReceive port fr a) s = .next (s.setPort p { x with drop := x.drop + 1 })) ∧
    (∀ fr a, x.lock = true → a.toNat ≤ s.tl.ns.toNat → x.accepts fr = true → 32 ≤ x.fifo.length → x.ovrRecord = none →
      Reported (.wagerFrameReceive port fr a) s
        (s.setPort p { x with ovr := x.ovr + 1, ovrRecord := some s.now }) intMk 5) ∧
    (∀ fr a, x.lock = true → a.toNat ≤ s.tl.ns.toNat → x.accepts fr = true → x.fifo.length < 32 →
      let c := tlSpanAt s.tl.span a s.tl.past
      let drift := (c.resid.toNat * (a.toNat - c.hold.toNat) + 999999999) / 1000000000
      Answers (.wagerFrameReceive port fr a) s fun t => onlyPorts t ∧ t.port p = { x with
        rxWait := x.rxWait || !x.fifo.isEmpty || decide (24 ≤ s.receiptsHeld p)
        fifo := x.fifo ++ [{
          src := fieldBE 48 6 6 fr, vlan := vlanOf fr, payload := payloadOf fr, arrival := a
          bound := BitVec.ofNat 32 (if c.state = .locked then 20 else if c.state = .holdover then 20 + drift else 0)
          untrusted := decide (c.state = .unset ∨ c.state = .untrusted ∨ (c.state = .holdover ∧ c.untr.toNat ≤ a.toNat))
          holdover := decide (c.state = .holdover), lastBit := a + BitVec.ofNat 64 (fr.length * 8 / 25) }] }) ∧
    ((24 ≤ s.receiptsHeld p ∨ x.fifo = []) → exec (.wagerDecide port) s = .next s) ∧
    (∀ f fs q g, x.fifo = f :: fs → q ∈ s.portsBefore p → s.atAllocator q = some g → g.lastBit = f.lastBit →
      exec (.wagerDecide port) s = .next s) ∧
    (∀ f fs, x.fifo = f :: fs → s.receiptsHeld p < 24 → x.failed = false → ticksMet s →
      (∀ q ∈ s.portsBefore p, ∀ g, s.atAllocator q = some g → g.lastBit ≠ f.lastBit) →
      let answered (v : Verdict) (index : Word) (id : DWord) : Prop := Answers (.wagerDecide port) s fun t =>
        let block (v : Verdict) : Bytes := stampBlock {
          verdict := v, port := p, index := index, id := id, gen := 0, seq := BitVec.allOnes 64
          sflags := (if f.holdover then 1 else 0) ||| (if f.untrusted then 2 else 0) } f
        onlyPorts t ∧ t.port p = { x with
          fifo := fs, unmac := x.unmac + 1, hold := x.hold + 1
          receipts := x.receipts ++
            [{ dst := f.src, src := x.mac, vlan := f.vlan, lastBit := f.lastBit, payload := receiptBytes 3 (block v) (zeros 32) }] }
      let index := fieldBE 32 4 4 f.payload
      let id := fieldBE 64 8 8 f.payload
      (s.modes.mode ≠ .service → answered ⟨0x0602, 0x75⟩ index id) ∧
      (s.modes.mode = .service → s.tamper.responding = none → s.stk.hold = true → answered ⟨0x0604, 0⟩ index id) ∧
      (s.rowsTo2 = none → badWager f.payload = true → (s.market x.orphan.toNat).orphan = false →
        answered ⟨0x0606, 0x70⟩ 0 0) ∧
      (s.rowsTo2 = none → badWager f.payload = false → (s.market x.orphan.toNat).orphan = false →
        ∀ v, s.rowsTo7 p (s.market index.toNat) id = some v → answered v index id) ∧
      ∀ l a b, Stampable s p f l a b →
        let i := index.toNat
        let m := s.market i
        let v := (rowsTo10 m f).getD Verdict.ok
        let block := stampBlock {
          verdict := v, port := p, index := index, id := m.id, gen := m.stampGen, seq := m.nextSeq
          sflags := (if f.holdover then 1 else 0) ||| (if f.untrusted then 2 else 0) } f
        let leaf : Leaf := { at_ := s.tl.ns, hash := leafHash block, refused := decide (v.status ≠ 0) }
        Answers (.wagerDecide port) s fun t =>
          t.market i = { m with
            nextSeq := m.nextSeq + 1
            tree := m.tree.map fun y => { y with leaves := y.leaves ++ [leaf] } } ∧
          (∀ q, q ≠ i → t.market q = s.market q) ∧
          t.usesLeft m.stampHandle = s.usesLeft m.stampHandle - 1 ∧
          t.port p = { x with
            fifo := fs, acc := if v.status = 0 then x.acc + 1 else x.acc
            ref := if v.status = 0 then x.ref else x.ref + 1 } ∧
          t.mkt.stamps = s.mkt.stamps ++ [{
            number := s.mkt.nextStamp, port := port, dst := f.src, vlan := f.vlan, block := block
            market := BitVec.ofNat 17 i, handle := m.stampHandle, mac := hmacSha256 l.secret block
            engA := a, engB := b, rerun := false, lastBit := f.lastBit }] ∧
          t.mkt.nextStamp = s.mkt.nextStamp + 1 ∧ t.tl = s.tl ∧ t.modes = s.modes ∧ t.stk = s.stk) ∧
    (∀ n e, (∀ y ∈ s.mkt.stamps, y.number ≠ n) → exec (.stampMacCompare n e) s = .next s) ∧
    (∀ y : Stamp, y ∈ s.mkt.stamps → (∀ z ∈ s.mkt.stamps, z.number = y.number → z = y) → y.port = port → x.failed = false →
      let rest := s.mkt.stamps.filter fun z => z.number != y.number
      let apart (e : EngPlace) : Prop := e.engine ≠ y.engA.engine ∧ e.engine ≠ y.engB.engine
      let quiet (e : EngPlace) : Prop := (s.engine e.engine.1 e.engine.2).mism = []
      let sent (flags : Byte) (mac : Bytes) : Receipt :=
        { dst := y.dst, src := x.mac, vlan := y.vlan, payload := receiptBytes flags y.block mac, lastBit := y.lastBit }
      (Answers (.stampMacCompare y.number true) s fun t =>
        t.mkt.stamps = rest ∧ t.port p = { x with receipts := x.receipts ++ [sent 0 y.mac] } ∧ t.keys = s.keys ∧
        t.mkt.table = s.mkt.table) ∧
      (y.rerun = true → quiet y.engA → quiet y.engB → (∀ z ∈ rest, apart z.engA ∧ apart z.engB) →
        Answers (.stampMacCompare y.number false) s fun t =>
        t.mkt.stamps = rest ∧
        t.port p = { x with unmac := x.unmac + 1, receipts := x.receipts ++ [sent 1 (zeros 32)] } ∧
        t.mkt.table = s.mkt.table)) ∧
    ((x.lock = false ∨ x.receipts = []) → exec (.receiptTransmit port) s = .next s) ∧
    (x.lock = true → ∀ r rs, x.receipts = r :: rs → Answers (.receiptTransmit port) s fun t =>
      let lat := min 0xFFFFFFFF (s.tl.ns.toNat - r.lastBit.toNat)
      let tag : Bytes := match r.vlan with | some v => [0x81, 0x00] ++ be 2 v | none => []
      let frame := be 6 r.dst ++ be 6 r.src ++ tag ++ [0x88, 0xB5] ++ r.payload
      t.mkt.sent = s.mkt.sent ++ [(port, frame ++ le 4 (fcs frame))] ∧ t.port p = { x with receipts := rs } ∧
      t.mkt.latMax.toNat = max s.mkt.latMax.toNat lat ∧ t.mkt.table = s.mkt.table ∧ t.mkt.stamps = s.mkt.stamps)

/-- R226, R229, R236 to R240: a market's next block of stamp uses is taken when half of one is spent, and a key that can no
longer be used closes the market; a key near its roll gets a pinned sibling, or the market closes; an ended signature makes
its SEAL record ready, is left out when its key was refused, and is made again after any other failure. -/
def StampUsesRollsAndSeals : Prop :=
  ∀ (s : State) (i : BitVec 17), s.powered = true → s.Canonical →
    let m := s.market i.toNat
    let h := m.stampHandle
    let e := s.entry (hIndex h)
    ((m.tree = none ∨ 32768 < s.usesLeft h ∨ s.stk.hold = true) →
      exec (.stampUseBlockTake i) s = .next s) ∧
    (m.tree.isSome = true → s.usesLeft h ≤ 32768 → s.stk.hold = false →
      (∀ g, s.checkUse (.slice m.slice6) h opStamp = .ok g → limitOf g.useLimit = none → e.quorum = false →
        e.useCount.toNat + 65536 < ceiling (s.owner e.owner.toNat) e → Answers (.stampUseBlockTake i) s fun t =>
          t.usesLeft h = s.usesLeft h + 65536 ∧
          t.entry (hIndex h) = { e with useCount := BitVec.ofNat 48 (e.useCount.toNat + 65536) } ∧
          t.mkt.table = s.mkt.table) ∧
      (∀ v, s.checkUse (.slice m.slice6) h opStamp = .error v → m.keyLost = false → Answers (.stampUseBlockTake i) s fun t =>
        (t.market i.toNat).keyLost = true ∧ (t.reg intMk).getLsbD 6 = true ∧ t.keys = { s.keys with exhausted := t.keys.exhausted } ∧
        ((m.state = .scheduled ∨ m.state = .open_) →
          (t.market i.toNat).closeNs.toNat = min m.closeNs.toNat s.tl.ns.toNat))) ∧
    ((m.tree = none ∨ m.nextStamp ≠ 0 ∨ m.rollFail.isSome = true ∨ m.keyLost = true ∨ s.stk.hold = true ∨
        s.tamper.gateClosed = true ∨ e.useCount.toNat < 2 ^ 40 - 2 ^ 33) →
      exec (.stampKeyPrepare i) s = .next s) ∧
    (m.tree.isSome = true → m.nextStamp = 0 → m.rollFail = none → m.keyLost = false → s.stk.hold = false →
      s.tamper.gateClosed = false → 2 ^ 40 - 2 ^ 33 ≤ e.useCount.toNat →
      let r := s.doNextGen .s (ktBlock ([3#8, 0, 0, 0] ++ le 4 h ++ zeros 40))
      (r.2.1.status ≠ 0 → Answers (.stampKeyPrepare i) s fun t =>
        t.market i.toNat = { m with rollFail := some s.tl.ns } ∧
        (t.reg intMk).getLsbD 3 = true) ∧
      (r.2.1.status = 0 → ∀ t, r.1.pinStamp m.slice6 (r.2.2.setWidth 32) = some t →
        exec (.stampKeyPrepare i) s = .next (s.after (t.setMarket i.toNat { m with
          nextStamp := r.2.2.setWidth 32, nextGen := t.genOf (r.2.2.setWidth 32) })))) ∧
    (∀ pq, (∀ d ∈ s.mkt.signed, ¬(d.market = i ∧ d.pq = pq)) → exec (.sealSignatureDone i pq) s = .next s) ∧
    ∀ (d : SignedSeal) (q : PendingSeal), s.mkt.signed = [d] → d.market = i → m.pending = [q] → q.sealSeq = d.sealSeq →
      q.issued = false →
      (d.verdict.status = 0 → d.pq = false → s.stk.hold = true → Answers (.sealSignatureDone i false) s fun t =>
        t.mkt.signed = [] ∧ (t.market i.toNat).pending = [{ q with ecdsa := false, signature := d.signature }] ∧
        t.mkt.issued = s.mkt.issued) ∧
      (d.verdict.status = 0 → d.pq = false → s.stk.hold = false → q.pq = false → q.final = false → q.unpin = 0 →
        Answers (.sealSignatureDone i false) s fun t =>
          t.mkt.signed = [] ∧ (t.market i.toNat).pending = [] ∧ t.mkt.issued = s.mkt.issued + 1 ∧
          t.mkt.outbox = s.mkt.outbox ++ [{ slice := m.slice6, ring := m.sealRing, pq := false, sealSeq := q.sealSeq }] ∧
          (50000 < s.tl.ns.toNat - q.ended.toNat → t.mkt.late = s.mkt.late + 1 ∧ (t.reg intSeal).getLsbD 0 = true)) ∧
      (d.verdict.status = 0 → d.pq = true → q.ecdsa = true → Answers (.sealSignatureDone i true) s fun t =>
        t.mkt.signed = [] ∧ (t.market i.toNat).pending = [{ q with pq := false }] ∧ t.mkt.issued = s.mkt.issued ∧
        t.mkt.outbox = s.mkt.outbox ++ [{ slice := m.slice6, ring := m.sealRing, pq := true, sealSeq := q.sealSeq }] ∧
        (t.reg intSeal).getLsbD 2 = true) ∧
      (d.pq = false → 0x0201 ≤ d.verdict.status.toNat → d.verdict.status.toNat ≤ 0x0205 → s.stk.hold = true →
        Answers (.sealSignatureDone i false) s fun t =>
          t.mkt.signed = [] ∧ (t.market i.toNat).pending = [{ q with ecdsa := false }] ∧
          (t.market i.toNat).keyLost = true ∧ (t.market i.toNat).sealLost = true) ∧
      (d.verdict.status ≠ 0 → ¬(0x0201 ≤ d.verdict.status.toNat ∧ d.verdict.status.toNat ≤ 0x0205) →
        exec (.sealSignatureDone i d.pq) s =
          .next (s.after (({ s with mkt := { s.mkt with signed := [] } }).signSeal i.toNat d.sealSeq d.pq q.statement)))

/-- The market commands with their OP (Table 8.5). -/
def marketRows (who : Accessor) : List (BitVec 3 × Instr) :=
  [(1, .mkAdd who), (2, .mkSetClose who), (3, .mkRemove who), (4, .mkRead who)]

/-- R218, R220, R241, R244, R442, R456: a market command is refused at once to another slice, by the mode, or while one waits;
READ shows the entry; the others wait for the frame boundary, where REMOVE frees a CLOSED market and SETCLOSE moves the
instant of closing. ENABLE needs an open orphan market, RESTORE a second of block lock, and the lock stays set. -/
def MarketCommandsAndPorts : Prop :=
  ∀ (s : State) (who : Accessor), s.powered = true → s.Canonical →
    let copy := who.copy
    let i := (s.reg (copy + 0x0D000C)).toNat % 0x20000
    let status (v : Verdict) : Word := v.status.setWidth 32 ||| (v.detail.setWidth 32 <<< 16) ||| 0x80000000#32
    let p := (s.reg 0x0D0060).toNat % 16
    let x := s.port p
    (∀ op c, (op, c) ∈ marketRows who →
      (who.commands = false → exec c s = .next (s.after (s.denied who 0x0D0004))) ∧
      (who.commands = true → s.reaches who 0x0D0004 = true → ∀ v, s.marketRefusal who op i = some v →
        Reported c s (s.setReg (copy + 0x0D0008) (status v)) intMk 0) ∧
      (who.commands = true → s.reaches who 0x0D0004 = true → s.marketRefusal who op i = none → op ≠ 4 →
        exec c s = .next { s.setReg (copy + 0x0D0008) 0 with mkt := { s.mkt with commands := s.mkt.commands ++
          [{ op := op, issuer := s.issuerOf who, ctx := who.ctx?, index := BitVec.ofNat 17 i
             entry := s.regBytes (copy + 0x0D0010) 16 }] } })) ∧
    (who.commands = true → s.reaches who 0x0D0004 = true → s.marketRefusal who 4 i = none →
      Reported (.mkRead who) s ((s.setRegs (copy + 0x0D0010) (words 16 (s.market i).bytes)).setReg (copy + 0x0D0008)
        (status Verdict.ok)) intMk 0) ∧
    (∀ op, s.mkt.commands ≠ [] → op ≠ 4 → (∃ k, who = .h k) → s.modes.mode = .service →
      s.marketRefusal who op i = some ⟨0x0202, 0xA8⟩) ∧
    (∀ op k, who = .n k → op ≠ 1 → (s.market i).slice ≠ (s.ctx k.toNat).slice.setWidth 8 →
      s.marketRefusal who op i = some ⟨0x0202, 0x19⟩) ∧
    (∀ c : MkCommand, s.landRemove c =
      if (s.market c.index.toNat).state = .closed ∧ (s.market c.index.toNat).pending = [] then
        (s.setMarket c.index.toNat Market.empty, Verdict.ok) else (s, ⟨0x0202, 0x7D⟩)) ∧
    (∀ (c : MkCommand) (t : DWord), s.cal.entries = [] →
      let m := s.market c.index.toNat
      let new : DWord := fieldLE 64 0x10 8 c.entry
      let r := s.landSetClose c t
      ((m.state ≠ .scheduled ∧ m.state ≠ .open_) → r = (s, ⟨0x0202, 0x7D⟩)) ∧
      ((m.state = .scheduled ∨ m.state = .open_) → m.closeNs.toNat < new.toNat → m.closeNs.toNat ≤ t.toNat →
        r = (s, ⟨0x0202, 0x7D⟩)) ∧
      ((m.state = .scheduled ∨ m.state = .open_) → m.openNs.toNat < new.toNat → t.toNat < m.closeNs.toNat →
        r.2 = Verdict.ok ∧
        r.1.market c.index.toNat = { m with closeNs := if new.toNat < t.toNat then t else new })) ∧
    (∀ w, who.isS = false → exec (.mkPortEnableWrite who w) s = .next (s.after (s.denied who 0x0D0064)) ∧
      exec (.mkLockWrite who w) s = .next (s.after (s.denied who 0x0D00A4))) ∧
    (∀ w, who.isSH = false → exec (.mkPortRestore who w) s = .next (s.after (s.denied who 0x0D0064))) ∧
    (∀ w : Word, who.isS = true →
      let orphan := s.market x.orphan.toNat
      (w.getLsbD 0 = false → exec (.mkPortEnableWrite who w) s = .next (s.setPort p { x with enable := false })) ∧
      (w.getLsbD 0 = true → orphan.orphan = true → orphan.state = .open_ →
        exec (.mkPortEnableWrite who w) s = .next (s.setPort p { x with enable := true })) ∧
      (w.getLsbD 0 = true → ¬(orphan.orphan = true ∧ orphan.state = .open_) →
        exec (.mkPortEnableWrite who w) s = .next s) ∧
      exec (.mkLockWrite who w) s = .next (s.setReg 0x0D00A4 (s.reg 0x0D00A4 ||| (w &&& 1)))) ∧
    (∀ w : Word, who.isSH = true → s.reaches who 0x0D0064 = true →
      let ready := w.getLsbD 1 = true ∧ x.failed = true ∧ x.lock = true ∧ x.lockSince + 1500000000 ≤ s.now
      (ready → exec (.mkPortRestore who w) s = .next (s.setPort p { x with restore := true })) ∧
      (¬ready → exec (.mkPortRestore who w) s = .next s))


/-! ### The kernel's services, the loader and restarts, memory protection (09, 10) -/

/-- Context `n` of a powered device runs the kernel's code, in a gate call of a level or, for S, in the kernel's own name. -/
structure Serves (s : State) (n : BitVec 7) (level : Level) : Prop where
  powered : s.powered = true
  canonical : s.Canonical
  running : (s.ctx n.toNat).state = .running
  secure : (s.ctx n.toNat).level = .s
  caller : (s.ctx n.toNat).startLevel = level

/-- The admission that a request's registers name (R273). -/
def admissionOf (ctx : BitVec 7) (c : Context) : Admission :=
  { caller := ctx, target := (c.greg 2).setWidth 8, length := (c.greg 3).toNat, base := c.greg 4, pages := c.greg 5
    deadline := c.greg 6, seen := [], waiting := [], decided := none
    carrier := if c.greg 2 = 0xFF then (c.greg 7).setWidth 6 else (c.greg 2).setWidth 6 }

/-- R273, R274, R293, R295, Table 10.4: VERSION answers the kernel's version and slot; PORT writes a port's orphan market and
ENABLE for the manager, or is refused; ADMIT, which level N has for its refusal alone, opens tap 1, or uses the one that is open,
and waits for the image's bytes, or is refused at once; past its deadline an admission ends with LENGTH_SHORT. -/
def Obligations.ServicesOfTheKernel : Prop :=
  ∀ (s : State) (n : BitVec 7),
    let c := s.ctx n.toNat
    (∀ level, Serves s n level → level ≠ .s → exec (.version n) s = .next (s.withCtx n
      ((c.answered Verdict.ok s.worlds.kversion).setG 3 (BitVec.ofNat 64 (s.fuses.kernel.length - 1))))) ∧
    (s.powered = true → (c.state ≠ .running ∨ c.level ≠ .s ∨ c.startLevel = .s) → exec (.version n) s = .next s) ∧
    (∀ level, Serves s n level → level ≠ .h → exec (.portService n) s = .next s) ∧
    (Serves s n .h →
      let port := (c.greg 2).toNat
      let orphan := (c.greg 3).toNat
      let market := s.market orphan
      let locked := (s.reg 0x0D00A4).getLsbD 0 = true ∧ (s.port port).orphan.toNat ≠ orphan
      let inRange := port < 16 ∧ orphan < 131072 ∧ (c.greg 4).toNat < 2
      let answers (v : Verdict) : Prop := exec (.portService n) s = .next (s.withCtx n (c.answered v (c.greg 2)))
      (¬inRange → answers ⟨0x0101, 0x35⟩) ∧
      (inRange → locked → answers ⟨0x0202, 0xA3⟩) ∧
      (inRange → ¬locked → ¬(market.orphan = true ∧ market.state = .open_) → answers ⟨0x0202, 0x7D⟩) ∧
      (inRange → ¬locked → market.orphan = true → market.state = .open_ →
        exec (.portService n) s = .next ((s.setPort port { s.port port with
          orphan := (c.greg 3).setWidth 17, enable := (c.greg 4).getLsbD 0 }).withCtx n
          (c.answered Verdict.ok (c.greg 2))))) ∧
    (∀ stream, Serves s n .n → c.greg 2 ≠ 0xFF → exec (.admitImage n stream) s = .next s) ∧
    (∀ level stream, Serves s n level → (level ≠ .n ∨ c.greg 2 = 0xFF) →
      let a := admissionOf n c
      (∀ v, s.admitRefusal c = some v →
        (s.logNow 1 (admissionRec a (admissionPayload a [] v (zeros 48))) = none →
          exec (.admitImage n stream) s = .next s) ∧
        (∀ seq w, s.logNow 1 (admissionRec a (admissionPayload a [] v (zeros 48))) = some (seq, w) →
          Answers (.admitImage n stream) s fun t => t.ctx n.toNat = (w.ctx n.toNat).answered v 0 ∧
            t.worlds.recipe =
              (if 64 ≤ (c.greg 2).toNat ∧ c.greg 2 ≠ 0xFF then w else w.zeroNamed a).worlds.recipe ∧ t.worlds.admission = s.worlds.admission ∧
            t.worlds.maps = s.worlds.maps)) ∧
      (s.admitRefusal c = none → ((s.freeCompanion [] = none ∧ s.tapBusy 1 = false) ∨ s.worlds.admission.isSome = true) →
        exec (.admitImage n stream) s = .next s) ∧
      (s.admitRefusal c = none → s.worlds.admission = none → s.tapBusy 1 = true → 0 < a.length →
        Answers (.admitImage n []) s fun t =>
          t.worlds.admission = some a ∧ (t.ctx n.toNat).state = .waiting ∧ (t.ctx n.toNat).wait = .admission ∧
          t.tapOf 1 = s.tapOf 1 ∧ t.worlds.maps = s.worlds.maps ∧ t.keys = s.keys) ∧
      (s.admitRefusal c = none → s.worlds.admission = none → s.tapBusy 1 = false → 0 < a.length →
        ∀ e, s.freeCompanion [] = some e → Answers (.admitImage n []) s fun t =>
          t.worlds.admission = some a ∧ (t.ctx n.toNat).state = .waiting ∧ (t.ctx n.toNat).wait = .admission ∧
          t.tapOf 1 = { Tap.closed with
            isOpen := true, engine := BitVec.ofNat 8 e, digest := Slot.start 0x02 0 false [] [] 0 } ∧
          (t.engine .pool e).tap = some 1 ∧ t.worlds.maps = s.worlds.maps ∧ t.keys = s.keys)) ∧
    (s.powered = true → (∀ a, s.worlds.admission = some a → a.decided ≠ none ∨ s.tl.ns.toNat < a.deadline.toNat) →
      exec .admissionDeadline s = .next s) ∧
    (∀ a, s.powered = true → s.worlds.admission = some a → a.decided = none → a.deadline.toNat ≤ s.tl.ns.toNat →
      (s.tapOf 1).job = none →
      Answers .admissionDeadline s fun t =>
        let v : Verdict := ⟨0x0103, 0⟩
        t.tapOf 1 = { Tap.closed with bytes := (s.tapOf 1).bytes } ∧ t.worlds.maps = s.worlds.maps ∧ t.keys = s.keys ∧
        (∀ b, t.worlds.admission = some b → b = { a with decided := some (v, admissionPayload a [] v (zeros 48)) }) ∧
        (t.worlds.admission = none → (s.ctx a.caller.toNat).state ≠ .waiting →
          (t.ctx a.caller.toNat).greg 1 = 0x0103 ∧ (t.ctx a.caller.toNat).greg 2 = 0))

/-- A boot header of R299, with or without a fallback image. -/
def bootHeader (b : Bytes) (fallback : Bool) : Prop :=
  slice 0 4 b = ascii "SHBT" ∧ slice 4 2 b = [1#8, 0#8] ∧ zeroRange 6 8 b = true ∧ zeroRange 0x10 0x20 b = true ∧
  zeroRange 0x0C 0x10 b = !fallback

/-- What the loader leaves of a kernel image that it has accepted (R302). -/
def loaded (s t : State) (img : Bytes) : Prop :=
  t.worlds.kmeas = sha384 (fit (ofLE (slice 0x0C 4 img)) img) ∧ t.worlds.fallback = false ∧
  t.worlds.gateBase = fieldLE 32 0x18 4 img ∧ t.worlds.gateCnt = fieldLE 11 0x1C 2 img ∧
  t.worlds.kversion = fieldLE 64 0x10 8 img ∧ t.worlds.wmarkMin.toNat = (octet 7 img).toNat ∧
  (t.ctx 0).pc = fieldLE 32 0x08 4 img &&& 0xFFFFFFFC ∧ (t.ctx 0).level = .s ∧ (t.ctx 0).g = Vector.replicate 32 0 ∧
  ((t.ctx 0).state = .ready ∨ (t.ctx 0).state = .running) ∧ t.fuses = s.fuses

/-- R299 to R306: the loader takes a well-formed image whose SHA-384 is the active digest, starts context 0 at its entry, and
KSTATE waits for READY; with no such image KSTATE is FAILED, with cause KERNEL_LOAD. KICK, READY and RESTART are S's. A
trigger, the watchdog's among them after 5 ms with no KICK or in one S context, begins a restart, which ends S's contexts and
services, discards the rule list that S has staged and loads the kernel again once a pool engine is free for its tap; the
third restart in 60 s, and a READY that does not come, are fatal. -/
def LoaderWatchdogAndRestart : Prop :=
  ∀ (s : State), s.powered = true → s.Canonical →
    let w := s.worlds
    let fatal (i : Instr) (cause : Byte) : Prop := Answers i s fun t =>
      (s.modes.mode = .service → s.trivet.resume = 0x66 → s.eng.jobs = [] →
        t.modes.mode = .recovery ∧ t.trivet.cause = cause ∧ t.trivet.resume = 0x99) ∧
      (s.modes.mode = .startup → t.modes = { s.modes with failed := true } ∧ t.trivet.cause = cause)
    let loads := s.modes.mode = .startup ∧ s.modes.steps.getLsbD 0 = true ∧ w.kstate = .absent ∧
      (s.freeCompanion []).isSome = true
    (∀ images, ¬loads → exec (.kernelLoad images) s = .next s) ∧
    (∀ boot img rest b, loads → bootHeader boot b → kernelOk img = true →
      s.fuses.kernel.getLast? = some (sha384 (fit (ofLE (slice 0x0C 4 img)) img)) →
      Answers (.kernelLoad (boot :: img :: rest)) s fun t =>
        loaded s t img ∧ t.worlds.kstate = .loading ∧ t.modes = { s.modes with kernelStarted := true } ∧
        t.trivet = s.trivet) ∧
    (∀ boot img rest, loads → bootHeader boot false → kernelOk img = false →
      Answers (.kernelLoad (boot :: img :: rest)) s fun t =>
        t.worlds.kstate = .failed ∧ t.worlds.lcause = 2 ∧ t.trivet.cause = 0x03 ∧
        t.modes = { s.modes with steps := s.modes.steps ||| 16, failed := true } ∧ t.worlds.maps = w.maps) ∧
    (∀ who v, who ≠ .s → ∀ i ∈ [Instr.swCtlKick who v, .swCtlReady who v, .swCtlRestart who v],
      exec i s = .next (s.after (s.denied who 0x000108))) ∧
    (∀ v : Word,
      (v.getLsbD 0 = false → exec (.swCtlKick .s v) s = .next s) ∧
      (v.getLsbD 0 = true → exec (.swCtlKick .s v) s = .next { s with worlds := { w with kickAt := s.now } }) ∧
      ((v.getLsbD 1 = false ∨ w.restartDue = true ∨ (w.kstate ≠ .loading ∧ w.kstate ≠ .restarting)) → exec (.swCtlReady .s v) s = .next s) ∧
      (v.getLsbD 1 = true → w.kstate = .loading → w.restartDue = false → w.restarting = false → exec (.swCtlReady .s v) s = .next { s with
        worlds := { w with kstate := .running, armed := true, kickAt := s.now }
        modes := if s.modes.mode = .startup then { s.modes with steps := s.modes.steps ||| 16 } else s.modes }) ∧
      (v.getLsbD 1 = true → w.kstate = .restarting → w.restartDue = false → w.restarting = true → s.modes.mode ≠ .startup →
        Answers (.swCtlReady .s v) s fun t => Reports { s with worlds := { w with
          kstate := .running, restarting := false, armed := true, kickAt := s.now } } t) ∧
      (v.getLsbD 2 = false → exec (.swCtlRestart .s v) s = .next s)) ∧
    let past (t : Nat) : Prop := t + 7500000 ≤ s.now
    let due := w.armed = true ∧
      (past w.kickAt ∨ ∃ x ∈ w.ctxs, x.2.state = .running ∧ x.2.level = .s ∧ past x.2.ranFrom)
    (¬due → exec .watchdogExpiry s = .next s) ∧
    (∀ i cause, (i = .watchdogExpiry ∧ cause = 1 ∧ due) ∨ (i = .swCtlRestart .s 4 ∧ cause = 3) →
      let recent := w.restartTimes.filter fun a => s.now < a + 90000000000
      (s.modes.mode = .startup → fatal i 0x0A) ∧
      (s.modes.mode ≠ .startup → (w.restarting = true ∨ w.kstate = .failed) → exec i s = .next s) ∧
      (s.modes.mode ≠ .startup → w.restarting = false → w.kstate ≠ .failed → recent.length < 2 →
        Answers i s fun t => Reports { s with worlds := { w with
          restarting := true, restartDue := true, kstate := .restarting, rcause := cause, t0 := s.tl.ns
          restarts := satInc w.restarts, restartTimes := recent ++ [s.now], armed := false } } t) ∧
      (s.modes.mode = .service → w.restarting = false → w.kstate ≠ .failed → 2 ≤ recent.length → fatal i 0x04)) ∧
    (∀ images, w.restartDue = false → exec (.secureWorldRestart images) s = .next s) ∧
    (∀ images, w.restartDue = true → s.stopWorld.freeCompanion [] = none →
      exec (.secureWorldRestart images) s = .next s.stopWorld) ∧
    (∀ boot img rest b, w.restartDue = true → s.eng.jobs = [] → (s.stopWorld.freeCompanion []).isSome = true → bootHeader boot b → kernelOk img = true →
      s.fuses.kernel.getLast? = some (sha384 (fit (ofLE (slice 0x0C 4 img)) img)) →
      Answers (.secureWorldRestart (boot :: img :: rest)) s fun t =>
        loaded s t img ∧ t.worlds.restartDue = false ∧ t.worlds.kstate = w.kstate ∧ t.worlds.admission = none ∧
        t.cus.running = none ∧ t.cus.requests = [] ∧ t.mkt.table = s.mkt.table ∧
        (s.cus.running = none → t.keys = s.keys ∧ t.trivet = s.trivet) ∧
        (s.str.owner = some .s → s.str.pending = false → t.str.staged = [] ∧ t.str.owner = none) ∧ t.modes.mode = s.modes.mode ∧
        ∀ k, 0 < k → k < 128 → (s.ctx k).gate = none → (s.ctx k).level = .s → (t.ctx k).state = .idle) ∧
    ((w.restarting = false ∨ w.kstate = .failed) → exec .restartReadyTimeout s = .next s) ∧
    (w.restarting = true → w.kstate ≠ .failed → fatal .restartReadyTimeout 0x05)

/-- R280, R286 to R288: MOD_WMARK takes a watermark from 1 to 256, not below the kernel's, in Start-up until it is locked, by S
alone; a stage-2 entry is refused below the watermark, where another slice shares the page for writing, and while a change
of the slice's is pending; a change of a VALID entry waits until its users have finished. -/
def WatermarkAndStageTwo : Prop :=
  ∀ (s : State) (who : Accessor) (v : Word), s.powered = true → s.Canonical →
    let w := s.worlds
    let p := (v.extractLsb' 0 9).toNat
    let fits := s.modes.mode = .startup ∧ w.wmarkLock = false ∧ 1 ≤ p ∧ p ≤ 256 ∧ w.wmarkMin.toNat ≤ p
    let lock := w.wmarkLock || v.getLsbD 31
    let sel := s.reg 0x020180
    let slice : BitVec 6 := sel.setWidth 6
    let page : BitVec 6 := sel.extractLsb' 8 6
    let i := slice.toNat * 64 + page.toNat
    let e := S2Entry.ofWord v
    let old := sparseGet S2Entry.none w.s2 i
    let shares (f : S2Entry) : Prop := f.valid = true ∧ f.ppn = e.ppn ∧ (e.w = true ∨ f.w = true)
    let shared := (∃ x ∈ w.s2, x.1 / 64 ≠ slice.toNat ∧ shares x.2) ∨ ∃ c ∈ w.s2Pending, c.slice ≠ slice ∧ shares c.entry
    let busy := ∃ c ∈ w.s2Pending, c.slice = slice
    let below := e.valid = true ∧ e.ppn.toNat < w.wmark.toNat
    let refused (k : BitVec 3) : Prop := Answers (.slcS2EntWrite who v) s fun t =>
      Reports { s with worlds := { w with s2Err := k } } t
    (who.isS = false → exec (.modWmarkWrite who v) s = .next (s.after (s.denied who 0x000100))) ∧
    (who.isS = true → fits → exec (.modWmarkWrite who v) s =
      .next { s with worlds := { w with wmark := v.extractLsb' 0 9, wmarkLock := lock } }) ∧
    (who.isS = true → ¬fits → exec (.modWmarkWrite who v) s = .next { s with worlds := { w with wmarkLock := lock } }) ∧
    (who.isSH = false → exec (.slcS2EntWrite who v) s = .next (s.after (s.denied who 0x020184))) ∧
    (who.isSH = true → s.reaches who 0x020184 = true →
      (below → refused 1) ∧ (¬below → e.valid = true → shared → refused 2) ∧
      (¬below → ¬(e.valid = true ∧ shared) → busy → refused 3) ∧
      (¬below → ¬(e.valid = true ∧ shared) → ¬busy →
        (old.valid = true → old ≠ e → exec (.slcS2EntWrite who v) s = .next { s with worlds := { w with
          s2Pending := w.s2Pending ++ [⟨slice, page, e⟩] } }) ∧
        (¬(old.valid = true ∧ old ≠ e) → exec (.slcS2EntWrite who v) s = .next { s with worlds := { w with
          s2 := sparseSet S2Entry.none w.s2 i e } }))) ∧
    ∀ sl pg : BitVec 6,
      ((∀ c ∈ w.s2Pending, ¬(c.slice = sl ∧ c.page = pg)) → exec (.s2ChangeComplete sl pg) s = .next s) ∧
      (s.s2InUse sl pg = true → exec (.s2ChangeComplete sl pg) s = .next s) ∧
      (∀ new, w.s2Pending = [⟨sl, pg, new⟩] → s.s2InUse sl pg = false → exec (.s2ChangeComplete sl pg) s = .next { s with worlds := { w with
        s2 := sparseSet S2Entry.none w.s2 (sl.toNat * 64 + pg.toNat) new, s2Pending := [] } })


/-! ### The host link, the slices and their rings (11) -/

/-- A request's fault of a kind, the first since the status was cleared, is captured and counted (R311, R313). -/
def faultLogged (s t : State) (bit : Nat) (addr : DWord) : Prop :=
  t.reg 0x020034 = 1#32 <<< bit ∧ t.reg64 0x020038 = addr ∧ t.reg 0x020044 = s.reg 0x020044 + 1 ∧
  (t.reg 0x020050).getLsbD 4 = true

/-- R16, R36, R37, R311, R313, R334, R335, R350: a request to BAR0 outside its parts, of another width or alignment, or one that
its sender may not make is not performed but logged, and a read of it returns zeros; one with a byte enable off is of no aligned width; a poisoned write
is logged, recorded by AER and dropped. A slice's Ladle write in DIRECT mode puts its enabled octets at their offsets of the
write part and nothing else changes there; a read of the read part returns what stands there; a page register reads for the slice itself. -/
def Obligations.HostRequestsAndTheLadle : Prop :=
  ∀ (s : State) (req : HostReq), s.powered = true → s.Canonical →
    let a := req.addr.toNat
    let n := if req.write then req.data.length else req.len
    let i : Instr := .hostRequest req
    let quiet (t : State) : Prop :=
      t.worlds.recipe = s.worlds.recipe ∧ t.keys = s.keys ∧ t.trivet = s.trivet ∧ t.modes = s.modes ∧ t.eng = s.eng ∧
      t.mkt = s.mkt ∧ t.power = s.power
    let dropped (bit : Nat) : Prop := Answers i s fun t =>
      faultLogged s t bit (BitVec.ofNat 64 a) ∧ quiet t ∧
      (req.write = false → t.host.readData = zeros n) ∧ t.host.slices = s.host.slices
    let regs := a < 0x150000
    let msix := 0x200000 ≤ a ∧ a < 0x208100
    let pages := 0x400000 ≤ a ∧ a < 0x800000
    let whole := ∀ k < n, k ∉ req.offBytes
    let access := ((n = 4 ∧ a % 4 = 0) ∨ (n = 8 ∧ a % 8 = 0)) ∧ whole
    (4096 < n → exec i s = .next s) ∧
    (n ≤ 4096 → s.reg 0x020034 = 0 →
      (req.write = true → req.poisoned = true → req.bar2 = false → ¬pages → dropped 3 ∧
        Answers i s fun t => t.host.aerUe = s.host.aerUe ||| 0x1000 ∧ t.host.aerCe = s.host.aerCe ||| 0x2000) ∧
      (req.poisoned = false → req.bar2 = false → ¬regs → ¬msix → ¬pages → dropped 0) ∧
      (req.poisoned = false → req.bar2 = false → (regs ∨ msix) → ¬access → dropped 1) ∧
      (req.poisoned = false → req.bar2 = false → regs → access → req.pasid = none → s.host.untagged = false →
        dropped 2)) ∧
    (∀ x : BitVec 6, ∀ b, req.poisoned = false → req.bar2 = false → req.write = false → n = 4 → req.len = 4 → whole →
      a = 0x400000 + x.toNat * 0x10000 → s.hostAttr (s.reqPasid req) = b → b.slice = some x →
      s.str.firstRefusal false b (s.bar0Base b false a n) permR (barCheck a) n = none →
      exec i s = .next (s.answer (le 4 (s.pageStatus x.toNat)))) ∧
    ∀ (x : BitVec 6) (off : Nat), req.poisoned = false → req.bar2 = true → 0 < n → n ≤ 4096 →
      a = x.toNat * 0x100000 + off → s.modes.mode = .service →
      (∀ p ∈ ladlePieces a n, s.pieceRefusal (s.hostAttr (s.reqPasid req)) req.write p = none) →
      s.admissionHolds x.toNat = false → (s.slc x.toNat).state ≠ .resetting →
      (req.write = true → off + n ≤ (s.slc x.toNat).writePart → (s.slc x.toNat).wStream = false → Answers i s fun t =>
        (∀ k, k < n → memByte (t.slc x.toNat).wbuf (off + k) =
          if k ∈ req.offBytes then memByte (s.slc x.toNat).wbuf (off + k) else octet k req.data) ∧
        (∀ o, (o < off ∨ off + n ≤ o) → memByte (t.slc x.toNat).wbuf o = memByte (s.slc x.toNat).wbuf o) ∧
        (t.slc x.toNat) = { s.slc x.toNat with wbuf := (t.slc x.toNat).wbuf } ∧
        (∀ y, y ≠ x.toNat → t.slc y = s.slc y) ∧ t.regs = s.regs ∧ quiet t) ∧
      (req.write = false → 0x80000 ≤ off → off - 0x80000 + n ≤ (s.slc x.toNat).readPart →
        (s.slc x.toNat).rStream = false → s.eng.jobs = [] →
        exec i s = .next (s.answer ((List.range n).map fun k => memByte (s.slc x.toNat).rbuf (off - 0x80000 + k))))

/-- R309, R312 to R317, R334, R451, R474: the events of the link. A failure of a job's request ends the job with ACCESS_FAULT; one
of a ring's stops the ring; D3hot and a link reset quiesce the ACTIVE slices, and a link reset returns the function's own
state; a configuration request before the link is up is retried; the binding table and the split change only in FREE or
QUIESCED, the manager's PASID until it is locked. -/
def Obligations.HostLinkEventsAndBindings : Prop :=
  ∀ s : State, s.powered = true → s.Canonical →
    let h := s.host
    let idle := ∀ e ∈ h.slices, e.2.state ≠ .active
    let n := (s.reg 0x020000).toNat % 64
    let k := (s.reg 0x020010).toNat % 16
    let x := s.slc n
    let fixed := x.state = .free ∨ x.state = .quiesced
    (∀ (j : Job) (addr : DWord) (w ats : Bool), s.eng.jobs = [j] → s.reg 0x020034 = 0 → j.sub.origin = .device →
      j.stage = .queued → j.sub.op = 0x40 → ∀ i bit, ((i = .dmaFailure (.job j.id) addr w ats ∧ bit = if ats then 6 else 4) ∨
        (i = .dmaTimeout (.job j.id) addr w ∧ bit = 5)) → Answers i s fun t =>
        faultLogged s t bit addr ∧ t.eng.jobs = [] ∧ t.completions = s.completions ++ [{
          origin := .device, verdict := ⟨0x0505, 0x95⟩, half := j.half, result := 0 }] ∧ t.keys = s.keys) ∧
    (∀ (y : BitVec 6) (r : BitVec 4) (addr : DWord), (s.ring y.toNat r.toNat).state = .running →
      let g := s.ring y.toNat r.toNat
      Answers (.dmaFailure (.fetch y r) addr false false) s fun t =>
        t.ring y.toNat r.toNat = { g with
          state := .stopped, errIdx := g.head + BitVec.ofNat 32 (g.chain.length + g.fetched.length), chain := []
          fetched := [] } ∧
        (t.slc y.toNat).pgErr.getLsbD 4 = true ∧ t.eng = s.eng) ∧
    (∀ (y : BitVec 6) (r : BitVec 4) (addr : DWord) (f : FetchedEntry), (s.ring y.toNat r.toNat).state = .running →
      let g := s.ring y.toNat r.toNat
      g.chain = [] → 0 < (g.tail - g.head).toNat → g.fetched.head? = some f → g.owned f = false →
      Answers (.dmaFailure (.refetch y r) addr false false) s fun t =>
        t.ring y.toNat r.toNat = { g with state := .stopped, errIdx := f.index, chain := [], fetched := [] } ∧
        (t.slc y.toNat).pgErr.getLsbD 4 = true ∧ t.eng = s.eng) ∧
    (∀ (y : BitVec 6) (r : BitVec 4) (addr : DWord) (w : HostWrite),
      let g := s.ring y.toNat r.toNat
      g.state ≠ .stopped → h.dma = [w] → w.slice = some y → w.data.length = 16 →
      w.addr = g.cq + BitVec.ofNat 64 (16 * ((g.cqTail - 1).toNat % g.cqSize)) →
      Answers (.dmaTimeout (.completion y r) addr true) s fun t =>
        t.ring y.toNat r.toNat = { g with
          cqTail := g.cqTail - 1, state := .stopped, errIdx := fieldLE 32 4 4 w.data, chain := [], fetched := [] } ∧
        t.host.dma = [] ∧ (t.slc y.toNat).pgErr.getLsbD 5 = true ∧ t.eng = s.eng) ∧
    (∀ (y : BitVec 6) (r : BitVec 4) (addr : DWord) (i : Instr),
      (i = .dmaTimeout (.sealBuffer y r) addr true ∨
        ((s.ring y.toNat r.toNat).state = .stopped ∧ i = .dmaTimeout (.completion y r) addr true) ∨
        ((s.ring y.toNat r.toNat).state ≠ .running ∧
          (i = .dmaTimeout (.fetch y r) addr true ∨ i = .dmaTimeout (.refetch y r) addr true))) →
      Answers i s fun t => t.reg 0x020044 = s.reg 0x020044 + 1 ∧ t.host.slices = h.slices ∧ t.eng = s.eng) ∧
    (h.atsEn = true → (∀ e ∈ s.eng.table, e.2.running = none) → exec .atsInvalidation s = .next { s with
      host := { h with ats := [], atsDue := 0, invalidated := h.invalidated + (h.atsDue + 1) } }) ∧
    (h.atsEn = true → (∃ e ∈ s.eng.table, ∃ g, e.2.running = some g ∧ s.usesHost g = true) →
      Answers .atsInvalidation s fun t => t.host = { h with ats := [], atsDue := h.atsDue + 1 } ∧
        (∀ e ∈ t.eng.table, ∀ g, e.2.running = some g → s.usesHost g = true → g.awaited = true) ∧ t.eng.jobs = s.eng.jobs) ∧
    (h.atsEn = false → exec .atsInvalidation s = .next s) ∧
    exec .d0Return s = .next { s with host := { h with d3hot := false } } ∧
    (h.d3hot = true → exec .d3hotEntry s = .next s) ∧
    (h.d3hot = false → idle → exec .d3hotEntry s = .next { s with host := { h with d3hot := true } }) ∧
    (∀ (y : BitVec 6), h.d3hot = false → s.eng.jobs = [] → (s.slc y.toNat).state = .active → Answers .d3hotEntry s fun t =>
      t.host.d3hot = true ∧ (t.slc y.toNat).state = .quiescing ∧ (t.slc y.toNat).quiesce = true ∧ (t.slc y.toNat).d3 = true) ∧
    (s.eng.jobs = [] → idle → exec (.linkReset []) s = .next { s with host := { h with
      config := [], atsEn := false, ats := [], pasidEn := false, msixEn := false, funcMask := false, d3hot := false, linkUp := false
      speed := 0, width := 0, pba := []
      msix := sparseMap MsixEntry.reset (fun _ e => { e with masked := true }) h.msix } }) ∧
    (∀ (y : BitVec 6), s.eng.jobs = [] → (s.slc y.toNat).state = .active → Answers (.linkReset []) s fun t =>
      t.host.linkUp = false ∧ (t.slc y.toNat).state = .quiescing ∧ (t.slc y.toNat).quiesce = true) ∧
    (∀ speed width, (∀ e ∈ h.slices, e.2.rings = []) → exec (.hostLinkUp speed width) s =
      .next { s with host := { h with linkUp := true, speed := speed, width := width } }) ∧
    (∀ w o v, h.linkUp = false → exec (.pcieConfigurationRequest w o v) s = .next { s with host := { h with retry := true } }) ∧
    (∀ v, h.linkUp = true → exec (.pcieConfigurationRequest false 8 v) s = .next { s with host := { h with
      retry := false, readData := [0xB0, 0x00, 0x80, 0x10] } }) ∧
    (∀ v, h.linkUp = true → Answers (.pcieConfigurationRequest true 8 v) s fun t => t.host.config = h.config ∧
      t.host.retry = false) ∧
    (∀ who v, who.isSH = true → s.reaches who 0x020014 = true → s.reaches who 0x040004 = true →
      let e := v &&& 0x800FFFFF#32
      let taken := e.getLsbD 31 = true ∧ s.pasidTaken n (e.setWidth 20) = true
      let named := x.names k = true ∧ e ≠ sparseGet 0#32 x.binds k
      let i : Instr := .slcPasidEntWrite who v
      let refused (bit : Nat) : Prop := Answers i s fun t =>
        t.slc n = { x with err := x.err ||| (1#8 <<< bit) } ∧ (t.reg 0x020050).getLsbD 3 = true
      (taken → refused 3) ∧ (¬taken → (named ∨ ¬fixed) → refused 4) ∧
      (¬taken → ¬named → fixed → exec i s = .next (s.setSlc n { x with binds := sparseSet 0#32 x.binds k e })) ∧
      let y := s.slc ((s.reg 0x040000).toNat % 64)
      let changes := (v.setWidth 5 : BitVec 5).toNat ≤ 16 ∧ v.setWidth 5 ≠ y.split ∧ (y.state = .free ∨ y.state = .quiesced)
      (changes → exec (.ldlSplitWrite who v) s = .next (s.setSlc ((s.reg 0x040000).toNat % 64)
        { y with split := v.setWidth 5, wbuf := [], rbuf := [] })) ∧
      (¬changes → exec (.ldlSplitWrite who v) s = .next s)) ∧
    (∀ v : Word, (h.mgrLock = true → exec (.slcMgrPasidWrite .s v) s = .next s) ∧
      (h.mgrLock = false → exec (.slcMgrPasidWrite .s v) s = .next { s with host := { h with
        mgrPasid := v.setWidth 20, untagged := v.getLsbD 30, mgrLock := v.getLsbD 31 } })) ∧
    (∀ k v, exec (.slcMgrPasidWrite (.h k) v) s = .next (s.after (s.denied (.h k) 0x020020)) ∧
      exec (.slcPasidEntWrite (.host none) v) s = .next (s.after (s.denied (.host none) 0x020014)) ∧
      exec (.ldlSplitWrite (.n 3) v) s = .next (s.after (s.denied (.n 3) 0x040004)))

/-- What a slice reset leaves (Table 11.4): its rings, buffers and page registers at reset, its Colander channel fresh, its
entries of the calendar gone, its counters cleared, one reset more. -/
def sliceCleared (s t : State) (n : Nat) : Prop :=
  (t.slc n).rings = [] ∧ (t.slc n).wbuf = [] ∧ (t.slc n).rbuf = [] ∧ (t.slc n).se = (s.slc n).se + 1 ∧
  (t.slc n).split = (s.slc n).split ∧ t.channel n = Channel.reset ∧ (∀ e ∈ t.cal.entries, e.2.slice.toNat ≠ n) ∧
  (∀ e ∈ t.eng.slots, e.1 / 16 ≠ n) ∧ sparseGet 0#32 t.whisk.busy n = 0 ∧ ∀ c, (t.account c n).owned = 0 ∧ (t.account c n).balance = (s.account c n).balance

/-- R318 to R321: the slice that SLC_SEL names: ACTIVATE from FREE with a PASID, and elsewhere ENABLE_UNBOUND; QUIESCE from ACTIVE drops what the fetcher holds;
the drain ends in QUIESCED; RESET and REMOVE run from QUIESCED alone, clear the slice, and end in QUIESCED and in FREE. The
commands are S's and the manager's. -/
def Obligations.SliceLifecycle : Prop :=
  ∀ (s : State) (who : Accessor), s.powered = true → s.Canonical → s.eng.jobs = [] →
    let n := (s.reg 0x020000).toNat % 64
    let x := s.slc n
    let reports (i : Instr) (u : State) : Prop := Answers i s fun t => Reports u t
    let error (i : Instr) (bit : Nat) (q : Bool) : Prop := Answers i s fun t =>
      t.slc n = { x with quiesce := q, err := x.err ||| (1#8 <<< bit) } ∧ (t.reg 0x020050).getLsbD 3 = true ∧ t.keys = s.keys
    let quiesced (y : Slice) : Slice := { y with
      state := .quiescing, quiesce := true
      rings := sparseMap Ring.reset (fun _ g => { g with chain := [], fetched := [], waitCq := false }) y.rings }
    (who.isSH = false →
      ∀ i ∈ [Instr.sliceActivate who, .sliceQuiesce who, .sliceUnquiesce who, .sliceReset who, .sliceRemove who],
        exec i s = .next (s.after (s.denied who 0x020004))) ∧
    (who.isSH = true → s.reaches who 0x020004 = true →
      (x.state = .free → x.bound ≠ [] → s.modes.mode = .service →
        reports (.sliceActivate who) (s.setSlc n { x with quiesce := false, state := .active })) ∧
      (x.state = .free → x.bound = [] → s.modes.mode = .service → error (.sliceActivate who) 2 false) ∧
      (x.state ≠ .free → x.state ≠ .quiescing → x.state ≠ .quiesced → error (.sliceActivate who) 2 false) ∧
      ((x.state = .quiescing ∨ x.state = .quiesced) → Answers (.sliceActivate who) s fun t =>
        t.slc n = { x with quiesce := false, d3 := false, state := .active, err := x.err ||| 4 } ∧
        (t.reg 0x020050).getLsbD 3 = true ∧ t.keys = s.keys) ∧
      (x.state = .active → reports (.sliceQuiesce who) (s.setSlc n (quiesced x))) ∧
      (x.state ≠ .active → exec (.sliceQuiesce who) s = .next (s.setSlc n { x with quiesce := true })) ∧
      ((x.state = .quiescing ∨ x.state = .quiesced) → reports (.sliceUnquiesce who)
        (s.setSlc n { x with quiesce := false, d3 := false, state := .active })) ∧
      (x.state ≠ .quiescing → x.state ≠ .quiesced →
        exec (.sliceUnquiesce who) s = .next (s.setSlc n { x with quiesce := false })) ∧
      (x.state ≠ .active → x.state ≠ .quiesced →
        error (.sliceReset who) 0 true ∧ error (.sliceRemove who) 1 true) ∧
      (x.state = .quiesced → Answers (.sliceReset who) s fun t =>
        (t.slc n).state = .resetting ∧ (t.slc n).binds = x.binds ∧ sliceCleared s t n ∧ t.trivet = s.trivet) ∧
      (x.state = .quiesced → Answers (.sliceRemove who) s fun t =>
        (t.slc n).state = .removing ∧ (t.slc n).binds = [] ∧ sliceCleared s t n ∧ (∀ e ∈ t.worlds.s2, e.1 / 64 ≠ n) ∧
        t.worlds.maps = s.worlds.maps ∧ t.trivet = s.trivet)) ∧
    ∀ z : BitVec 6,
      let m := z.toNat
      let y := s.slc m
      let set (bit : Nat) (st : SliceState) (i : Instr) : Prop := Answers i s fun t =>
        t.slc m = { y with state := st, resetDrop := false } ∧ (t.reg 0x020050).getLsbD bit = true ∧ t.keys = s.keys
      exec (.quiesceDrainTimeout z) s = .next s ∧
      (y.state ≠ .quiescing → exec (.sliceQuiesced z) s = .next s) ∧
      (y.state = .quiescing → y.resetDrop = false → set 0 .quiesced (.sliceQuiesced z)) ∧
      (y.state ≠ .resetting → exec (.sliceResetDone z) s = .next s) ∧
      (y.state = .resetting → y.resetDrop = false → set 1 .quiesced (.sliceResetDone z)) ∧
      (y.state = .resetting → y.resetDrop = true → Answers (.sliceResetDone z) s fun t =>
        (t.slc m).state = .quiesced ∧ (t.slc m).pgErr.getLsbD 2 = true ∧ (t.slc m).resetDrop = false) ∧
      ((y.state ≠ .removing ∨ s.worlds.restarting = true) → exec (.sliceRemoved z) s = .next s) ∧
      (y.state = .removing → s.worlds.restarting = false → y.resetDrop = false → set 2 .free (.sliceRemoved z) ∧
        Answers (.sliceRemoved z) s fun t => t.mapFor .n z = [])

/-- A ring that the fetcher serves, whose registers a host of its slice writes. -/
structure RingServes (s : State) (n : BitVec 6) (r : BitVec 4) : Prop where
  powered : s.powered = true
  canonical : s.Canonical
  enabled : (s.ring n.toNat r.toNat).enable = true
  running : (s.ring n.toNat r.toNat).state = .running
  active : (s.slc n.toNat).state = .active
  mode : s.modes.mode = .service

/-- R322 to R333: ENABLE of a well-configured ring starts it at zero, clearing it drops what is held; a tail or a head that goes
too far is a bad doorbell; the fetcher takes copies within its window; an owned malformed entry, one not owned in time, and
an open chain that another entry breaks complete with their verdicts in order; the coalescing time signals. A host of
another slice writes none of them. -/
def Obligations.RingsAndTheirEntries : Prop :=
  ∀ (s : State) (n : BitVec 6) (r : BitVec 4), s.powered = true → s.Canonical →
    let g := s.ring n.toNat r.toNat
    let put (x : Ring) : State := s.setRing n.toNat r.toNat x
    let sq := 2 ^ g.sqLog2.toNat
    let cq := 2 ^ g.cqLog2.toNat
    let good := 4 ≤ g.sqLog2.toNat ∧ g.sqLog2.toNat ≤ g.cqLog2.toNat ∧ g.cqLog2.toNat ≤ 16 ∧
      ((s.slc n.toNat).pasid g.pasidIdx.toNat).isSome = true
    let covered := (g.tail - g.head).toNat
    let lone := ∀ e ∈ s.host.slices, ∀ k ∈ e.2.rings, k.2.fetched = [] ∨ (e.1 = n.toNat ∧ k.1 = r.toNat)
    let used (i : Word) (u : State) : State :=
      u.atsUse (s.ringPasid n.toNat r.toNat) (g.sq + BitVec.ofNat 64 (64 * (i.toNat % sq))) 64
    let bad (i : Instr) : Prop := Answers i s fun t =>
      t.ring n.toNat r.toNat = { g with badDoorbell := true } ∧ (t.slc n.toNat).pgErr.getLsbD 3 = true ∧ t.eng = s.eng
    (∀ k v, ∀ i ∈ [Instr.ringEnable .s n r, .ringDisable (.h k) n r, .sqDoorbell (.n 3) n r v, .cqHeadWrite .s n r v],
      exec i s = .next s) ∧
    (∀ who, (who = .manager ∨ who = .host none ∨ who = .host (some n)) →
      (∀ reg ∈ [0x10, 0x14, 0x1C], s.pageRefusal who n (ringAddr n.toNat r.toNat reg) = none) →
      (g.enable = true → exec (.ringEnable who n r) s = .next s) ∧
      (g.enable = false → good → s.eng.jobs = [] → exec (.ringEnable who n r) s = .next (put { g with
        enable := true, state := .running, tail := 0, head := 0, cqHead := 0, cqTail := 0, sealDrop := 0, chain := []
        fetched := [], inFlight := 0, unsignalled := 0, waitCq := false })) ∧
      (g.enable = false → ¬good → exec (.ringEnable who n r) s = .next (put { g with badCfg := true })) ∧
      (g.enable = false → exec (.ringDisable who n r) s = .next s) ∧
      (g.enable = true → exec (.ringDisable who n r) s = .next (put { g with
        enable := false, chain := [], fetched := [], waitCq := false
        state := if g.state = .stopped ∨ g.inFlight = 0 then .disabled else g.state })) ∧
      (∀ v : Word,
        let fits := (v - g.tail).toNat ≤ sq ∧ (v - g.head).toNat ≤ sq
        (fits → g.fetched = [] → exec (.sqDoorbell who n r v) s = .next (put { g with tail := v })) ∧
        (¬fits → bad (.sqDoorbell who n r v))) ∧
      ∀ v : Word,
        let fits := (v - g.cqHead).toNat ≤ cq ∧ (g.cqTail - v).toNat ≤ cq
        (fits → g.fetched = [] → exec (.cqHeadWrite who n r v) s = .next (put { g with cqHead := v, waitCq := false })) ∧
        (¬fits → bad (.cqHeadWrite who n r v))) ∧
    (∀ x v, x ≠ n → Answers (.sqDoorbell (.host (some x)) n r v) s fun t =>
      t.ring n.toNat r.toNat = g ∧ (t.slc n.toNat).pgErr.getLsbD 0 = true ∧ t.reg 0x020044 = s.reg 0x020044 + 1) ∧
    ((g.enable = false ∨ g.state ≠ .running ∨ s.host.linkUp = false) → ∀ e o,
      exec (.entryFetch n r e o) s = .next s ∧ exec (.entryRefetch n r e o) s = .next s) ∧
    (RingServes s n r → s.host.linkUp = true → ∀ e o, min (covered + 8) sq ≤ g.chain.length + g.fetched.length →
      exec (.entryFetch n r e o) s = .next s) ∧
    (RingServes s n r → s.host.linkUp = true → lone → ∀ e o, g.fetched = [] → g.chain = [] → covered = 0 → e.length = 64 →
      exec (.entryFetch n r e o) s =
        .next (used g.head (put { g with fetched := [{ index := g.head, body := e, host := o }] }))) ∧
    (RingServes s n r → s.host.linkUp = true → lone → ∀ (e : Bytes) o (f : FetchedEntry), g.fetched = [f] → g.chain = [] →
      0 < covered → g.owned f = false → e.length = 64 → g.owned { f with body := e } = false →
      exec (.entryRefetch n r e o) s = .next (used f.index (put { g with fetched := [{ f with body := e, host := o }] }))) ∧
    (RingServes s n r → g.inFlight = 0 → g.cqTail - g.cqHead = 0 → 2 ≤ cq → g.chain = [] → 0 < covered → g.irqEn = false →
      ∀ f : FetchedEntry, g.fetched = [f] →
      let consumed (i : Instr) (v : Verdict) : Prop := Answers i s fun t =>
        t.ring n.toNat r.toNat = { g with
          head := g.head + 1, fetched := [], waitCq := false, cqTail := g.cqTail + 1, unsignalled := g.unsignalled + 1
          firstUnsignalled := if g.unsignalled = 0 then s.now else g.firstUnsignalled } ∧
        t.completions = s.completions ++ [{ origin := .ring n r f.index, verdict := v, half := false, result := 0 }] ∧
        t.eng = s.eng ∧ t.keys = s.keys
      (g.owned f = false → consumed (.notOwnedTimeout n r) ⟨0x0101, 0x90⟩) ∧
      (g.owned f = true → exec (.notOwnedTimeout n r) s = .next s) ∧
      (g.owned f = false → s.host.linkUp = true → lone → ∀ (e : Bytes) o, e.length = 64 → g.owned { f with body := e } = true →
        (octet 0 e &&& 0xF8 ≠ 0 → consumed (.entryRefetch n r e o) ⟨0x0101, 0x21⟩) ∧
        (zeroRange 1 15 e = true → octet 15 e &&& 0xFE = 0 → octet 0 e = 0 →
          consumed (.entryRefetch n r e o) ⟨0x0102, 0x93⟩))) ∧
    (let signals := g.irqEn = true ∧ g.coalUs ≠ 0 ∧ g.unsignalled ≠ 0
     (¬signals → exec (.coalesceTimeout n r) s = .next s) ∧
     (signals → Answers (.coalesceTimeout n r) s fun t => Reports (put { g with unsignalled := 0 }) t))


/-! ### Strainer (12) -/

/-- A staging write of Strainer's: its place, whether that place is locked, whether the staged entry is malformed, whether it
would overlap (R349, R351). -/
structure StageWrite where
  instr : Accessor → Instr
  entry : Staged
  locked : Bool
  bad : Bool
  overlaps : Bool

/-- The staging writes that the registers of Strainer spell: a device rule and a window. -/
def stageWrites (s : State) : List StageWrite :=
  let d := s.strData 0x0F0044
  let e := s.strData 0x0F0064
  let i : BitVec 12 := (s.reg 0x0F0040).extractLsb 11 0
  let k : BitVec 9 := (s.reg 0x0F0060).extractLsb 13 8 ++ (s.reg 0x0F0060).extractLsb 2 0
  let r := ruleOfWords d
  let w := windowOfWords e
  [{ instr := .stageRule, entry := .rule i r, locked := (sparseGet Rule.none s.str.rules i.toNat).lock, overlaps := false
     bad := !rangeOk r.base r.limit || d.1.extractLsb 5 0 != 0 || d.2.1.extractLsb 5 0 != 0 || d.2.2.1.extractLsb 31 19 != 0 },
   { instr := .stageWin, entry := .win k w, locked := (sparseGet Window.none s.str.wins k.toNat).lock
     overlaps := s.str.overlap k.toNat w
     bad := !rangeOk w.base w.limit || e.1.extractLsb 5 0 != 0 || e.2.1.extractLsb 5 0 != 0 ||
       e.2.2.1.extractLsb 7 3 != 0 || e.2.2.1.extractLsb 31 13 != 0 || e.2.2.2.extractLsb 31 16 != 0 }]

/-- R349, R351 to R356, R358 to R360: a staging write is refused in the order of R351, or staged for its level, at most 256
entries; COMMIT needs the next epoch and something staged and then waits for its frame; DISCARD drops both; the drain of the
previous epoch ends when its segments have; a commit that waits 16 frames stalls, once; clearing the fault status re-arms
the capture. The commands are S's and H's. -/
def StrainerStagingAndCommits : Prop :=
  ∀ (s : State) (who : Accessor), s.powered = true → s.Canonical →
    let t := s.str
    let status (st : Half) (detail : Nat) (found done : Bool) (u : State) : State :=
      u.setReg 0x0F0010 (BitVec.ofNat 32 (st.toNat + 0x10000 * detail + (if found then 2 ^ 30 else 0) + (if done then 2 ^ 31 else 0)))
    let own : StageOwner := if who = .s then .s else .h
    (who.isSH = false → ∀ v, exec (.strFltStsClear who v) s = .next (s.after (s.denied who 0x0F0080)) ∧
      ∀ i ∈ [Instr.stageRule who, .stageWin who, .strCommit who, .strDiscard who],
        exec i s = .next (s.after (s.denied who 0x0F0008))) ∧
    (who.isSH = true → s.reaches who 0x0F0008 = true → s.reaches who 0x0F0080 = true →
      (∀ x ∈ stageWrites s,
        let refused (st : Half) (d : Nat) : Prop := exec (x.instr who) s = .next (status st d false true s)
        let other := t.staged ≠ [] ∧ t.owner ≠ some own
        let listed := ∃ y ∈ t.staged, y.target = x.entry.target
        let low := x.entry.lock = true ∧ own = .h
        (t.pending = true → refused 0x0202 0xA8) ∧
        (t.pending = false → other → refused 0x0202 0xA6) ∧
        (t.pending = false → ¬other → x.locked = true → refused 0x0202 0xA3) ∧
        (t.pending = false → ¬other → x.locked = false → low → refused 0x0202 0x19) ∧
        (t.pending = false → ¬other → x.locked = false → ¬low → x.bad = true → refused 0x0101 0x35) ∧
        (t.pending = false → ¬other → x.locked = false → ¬low → x.bad = false → x.overlaps = true → refused 0x0202 0xA4) ∧
        (t.pending = false → ¬other → x.locked = false → ¬low → x.bad = false → x.overlaps = false →
          (¬listed → 256 ≤ t.staged.length → refused 0x0202 0xA5) ∧
          (¬listed → t.staged.length < 256 → exec (x.instr who) s = .next (status 0 0 false true
            { s with str := { t with staged := t.staged ++ [x.entry], owner := some own } })) ∧
          (listed → exec (x.instr who) s = .next (status 0 0 false true { s with str := { t with
            staged := t.staged.map (fun y => if y.target = x.entry.target then x.entry else y), owner := some own } })))) ∧
      (t.pending = true → exec (.strCommit who) s = .next (status 0x0202 0xA8 false true s)) ∧
      (t.pending = false → (s.reg 0x0F000C ≠ t.epoch + 1 ∨ t.staged = []) →
        exec (.strCommit who) s = .next (status 0x0202 0xA7 false true s)) ∧
      (t.pending = false → s.reg 0x0F000C = t.epoch + 1 → t.staged ≠ [] → exec (.strCommit who) s =
        .next (status 0 0 false false { s with str := { t with pending := true, waitFrames := 0 } })) ∧
      exec (.strDiscard who) s = .next (status 0 0 (decide (t.staged ≠ [])) true { s with str := { t with
        staged := [], owner := none, pending := false, stalled := false } }) ∧
      ∀ v, exec (.strFltStsClear who v) s = .next (s.setReg 0x0F0080 (s.reg 0x0F0080 &&& ~~~(v &&& 3)))) ∧
    let flying := ∃ e ∈ s.eng.table, ∃ g, e.2.running = some g ∧ g.old = true ∧ g.device = false
    ((t.draining = false ∨ flying) → exec .strDrainEnd s = .next s) ∧
    (t.draining = true → ¬flying → Answers .strDrainEnd s fun u =>
      u.str = { t with draining := false, oldRules := [], oldWins := [] } ∧ (u.reg 0x0F00A0).getLsbD 1 = true ∧
      (t.pending = false → (u.reg 0x0F0010).getLsbD 31 = true) ∧
      (u.reg 0x0F0020).toNat = max (s.reg 0x0F0020).toNat (min 0xFFFFFFFF (cyclesNs (s.now - t.landedAt))) ∧
      u.keys = s.keys ∧ u.eng = s.eng) ∧
    (t.pending = true → t.stalled = false → 16 ≤ t.waitFrames.toNat →
      Reported .strCommitStall s { s with str := { t with stalled := true } } intStr 2) ∧
    ((t.pending = false ∨ t.stalled = true ∨ t.waitFrames.toNat < 16) → exec .strCommitStall s = .next s)

/-- R342 to R350, R353, R357: what Strainer decides on one piece. The baseline refuses first; then, for level N of a slice that has
VALID windows in the region, the window that holds the piece, or their lack; then the lowest-numbered matching rule that
lacks the permission; nothing else refuses. While a drain runs, the previous epoch's values decide for its segments. -/
def StrainerDecisions : Prop :=
  ∀ (t : Strainer) (old : Bool) (q : ReqAttr) (need : BitVec 3) (a : Nat),
    let rules := t.rulesFor old
    let wins := t.winsFor old
    let lacks (perm : BitVec 3) : Prop := need &&& perm ≠ need
    let within (b l : BitVec 26) : Prop := b.toNat ≤ a / 64 ∧ a / 64 ≤ l.toNat
    let mine (e : Nat × Window) : Prop := ∃ x, q.slice = some x ∧ q.level = .n ∧ e.1 / 8 = x.toNat ∧ e.2.valid = true ∧
      e.2.base.toNat * 64 / 0x10000000 = a / 0x10000000
    let admits (w : Window) : Prop := w.origin.getLsbD q.origin.code = true ∧ ¬lacks w.perm ∧
      (q.origin = .host → ∃ b, q.bind = some b ∧ w.pasidMask.getLsbD b.toNat = true)
    let refuses (e : Nat × Rule) : Prop := e.2.matches q = true ∧ within e.2.base e.2.limit ∧ lacks e.2.perm
    let apart := ∀ e ∈ wins, ∀ f ∈ wins, mine e → mine f → within e.2.base e.2.limit → within f.2.base f.2.limit → e = f
    t.piece old q false need a = some ⟨0, 0, 0⟩ ∧
    (apart → (t.piece old q true need a = none ↔
      ((∀ e ∈ wins, ¬mine e) ∨ ∃ e ∈ wins, mine e ∧ within e.2.base e.2.limit ∧ admits e.2) ∧ ∀ e ∈ rules, ¬refuses e)) ∧
    (∀ e ∈ wins, mine e → (∀ f ∈ wins, mine f → ¬within f.2.base f.2.limit) →
      ∃ x, q.slice = some x ∧ t.piece old q true need a = some ⟨1, 8 * x.toNat, 0⟩) ∧
    (apart → ∀ e ∈ wins, mine e → within e.2.base e.2.limit → ¬admits e.2 → t.piece old q true need a = some ⟨1, e.1, 0⟩) ∧
    (∀ e ∈ rules, refuses e → (∀ f ∈ wins, ¬mine f) → (∀ f ∈ rules, refuses f → f = e ∨ e.1 < f.1) →
      t.piece old q true need a = some ⟨2, e.1, e.2.tag⟩)


/-! ### The custodian stations (13) -/

/-- A station that alone is enabled, idle, with room in the FIFO. -/
structure LoneStation (s : State) (n : Nat) : Prop where
  powered : s.powered = true
  canonical : s.Canonical
  inRange : n < 8
  enabled : (s.stn n).enable = true
  alone : ∀ m, m < 8 → m ≠ n → (s.stn m).enable = false
  off : (s.stn n).card = .off ∧ (s.stn n).dropout = none ∧ (s.stn n).auto = false ∧ (s.stn n).turn = none
  none_ : s.cus.due = [] ∧ s.cus.running = none
  room : s.cus.fifo.length < 60

/-- R361 to R369, R486, Tables 13.1 and 13.17: a scan tick counts, and debounces presence, keys and touch into events; a card is
activated at class C, then B, and by its ATR becomes ACTIVE or faults; one exchange at a time runs on an ACTIVE card and
ends with its response, with OVERFLOW beyond 256 octets, or, when a fifth block of it fails, with a fault; an event without room is lost and seen. The
commands are S's. -/
def Obligations.StationsCardsAndEvents : Prop :=
  ∀ (s : State) (st : BitVec 3), s.powered = true → s.Canonical →
    let n := st.toNat
    let x := s.stn n
    let fault (i : Instr) (cause : BitVec 4) : Prop := Answers i s fun t =>
      (t.stn n).card = .fault ∧ (t.stn n).cause = cause ∧ (t.stn n).busy = false ∧ (t.stn n).turn = none ∧
      (t.reg 0x1000C0).getLsbD 3 = true ∧ (x.enable = true → t.cus.due = s.cus.due ++ [(st, 8, cause)]) ∧ t.keys = s.keys
    let put (y : Station) : State := s.setStn n y
    let ended (y : Station) : Station := { y with busy := false, secret := [] }
    (∀ scans, (∀ m, m < 8 → (s.stn m).enable = false) →
      exec (.scanTick scans) s = .next { s with cus := { s.cus with tick := s.cus.tick + 1 } }) ∧
    (LoneStation s n → ∀ (scans : List Scan) (sc : Scan), scans[n]? = some sc →
      (if x.touch then x.touchTh.toNat ≤ sc.touch.toNat else sc.touch.toNat ≤ x.touchTh.toNat) →
      let samples := (sc.present :: x.samples).take 10
      let flips := 8 ≤ (samples.filter fun b => b != x.present).length
      let event (kind key : BitVec 4) : StnEvent :=
        { station := st, kind := kind, key := key, tick := s.cus.tick + 1, touch := x.touch }
      (∀ k, ¬flips → sc.keys = [k] → x.closing = some (k, 2) → x.pressed = none → Answers (.scanTick scans) s fun t =>
        t.cus.fifo = s.cus.fifo ++ [event 3 k] ∧ (t.stn n).pressed = some k ∧ (t.reg 0x1000C0).getLsbD 0 = true) ∧
      (∀ k, ¬flips → sc.keys = [] → x.pressed = some k → x.openScans = 2 → Answers (.scanTick scans) s fun t =>
        t.cus.fifo = s.cus.fifo ++ [event 4 k] ∧ (t.stn n).pressed = none) ∧
      (∀ k, ¬flips → sc.keys = [k] → x.pressed = none → (x.closing = none ∨ x.closing = some (k, 1)) →
        Answers (.scanTick scans) s fun t => t.cus.fifo = s.cus.fifo ∧ (t.stn n).pressed = none ∧
          (t.stn n).present = x.present) ∧
      (flips → sc.keys = [] → x.pressed = none → Answers (.scanTick scans) s fun t =>
        t.cus.fifo = s.cus.fifo ++ [event (if x.present then 2 else 1) 0] ∧ (t.stn n).present = !x.present ∧
        (t.stn n).samples = samples)) ∧
    (∀ who a, who ≠ .s →
      exec (.cardActivate (some who) st a) s = .next (s.after (s.denied who 0x100014)) ∧
      exec (.cardDeactivate who st) s = .next (s.after (s.denied who 0x100014)) ∧
      exec (.apduSend who st) s = .next (s.after (s.denied who 0x10001C)) ∧
      exec (.cusEvtPop who) s = .next (s.after (s.denied who 0x100008)) ∧
      exec (.cusClrOvf who) s = .next (s.after (s.denied who 0x100008))) ∧
    (x.card ≠ .activating → x.card ≠ .active →
      exec (.cardActivate (some .s) st none) s =
        .next (put { x with card := .activating, classB := false, cause := 0, link := CardLink.default })) ∧
    ((x.card = .activating ∨ x.card = .active) → exec (.cardActivate (some .s) st none) s = .next s) ∧
    (x.card ≠ .activating → ∀ a, exec (.cardActivate none st a) s = .next s) ∧
    (x.card = .activating → x.turn = none → ∀ a : Bytes,
      let i : Instr := .cardActivate none st (some a)
      (∀ m, atrOf a = some m → m.classes ≠ some 1 → (x.classB = true ∨ m.classes ≠ some 2) →
        (m.one = true → Answers i s fun t =>
          t.stn n = { x with card := .active, cause := 0, link := m.link } ∧ m.link.ifsd = 254 ∧
          (x.enable = true → t.cus.due = s.cus.due ++ [(st, 9, 0)]) ∧ t.cus.fifo = s.cus.fifo) ∧
        (m.one = false → fault i 6)) ∧
      (∀ m, atrOf a = some m → m.classes = some 1 → fault i 2) ∧
      (x.classB = false → (atrOf a = none ∨ ∃ m, atrOf a = some m ∧ m.classes = some 2) →
        exec i s = .next (put { x with classB := true })) ∧
      (x.classB = true → atrOf a = none → fault i 1)) ∧
    (x.card ≠ .activating → exec (.atrTimeout st) s = .next s) ∧
    (x.card = .activating → x.classB = false → exec (.atrTimeout st) s = .next (put { x with classB := true })) ∧
    (x.card = .activating → x.classB = true → x.turn = none → fault (.atrTimeout st) 1) ∧
    (x.card = .off → exec (.cardDeactivate .s st) s = .next s) ∧
    (x.card ≠ .off → x.busy = false → exec (.cardDeactivate .s st) s = .next (put { x with card := .off })) ∧
    (x.card ≠ .off → x.busy = true →
      Reported (.cardDeactivate .s st) s (put { ended x with err := true, card := .off }) 0x1000C0 2) ∧
    ((x.card ≠ .active ∨ x.busy = true) → exec (.apduSend .s st) s = .next s) ∧
    (x.card = .active → x.busy = false → exec (.apduSend .s st) s =
      .next (put { x with busy := true, done := false, overflow := false, err := false, link := { x.link with failures := 0 } })) ∧
    (x.busy = false → ∀ r, exec (.apduDone st r) s = .next s) ∧
    (x.busy = true → x.link.failures < 4 → exec (.apduDone st .failedBlock) s =
      .next (put { x with link := { x.link with failures := x.link.failures + 1 } })) ∧
    (x.busy = true → x.turn = none → ∀ b : Bytes,
      (b.length ≤ 256 → Answers (.apduDone st (.response b)) s fun t =>
        t.stn n = { ended x with done := true, rLen := BitVec.ofNat 9 b.length, apduBuf := b } ∧
        (t.reg 0x1000C0).getLsbD 2 = true) ∧
      (256 < b.length → Answers (.apduDone st (.response b)) s fun t =>
        t.stn n = { ended x with err := true, overflow := true, rLen := 0 } ∧ (t.reg 0x1000C0).getLsbD 2 = true) ∧
      (4 ≤ x.link.failures → fault (.apduDone st .failedBlock) 3)) ∧
    ((x.card = .active ∨ x.card = .activating) → x.turn = none → fault (.cardOvercurrent st) 5) ∧
    (x.card ≠ .active → x.card ≠ .activating → exec (.cardOvercurrent st) s = .next s) ∧
    exec (.cusEvtPop .s) s = .next { s with cus := { s.cus with fifo := s.cus.fifo.drop 1 } } ∧
    exec (.cusClrOvf .s) s = .next { s with cus := { s.cus with ovf := false } }


/-! ### Ceremonies and quorum windows (13) -/

/-- The running ceremony has ended with an outcome (R377, R378): combiner and shares zeroed, no turn left but those whose card's
session is still to end, the outcome kept. -/
def ceremonyEnded (s t : State) (c : Ceremony) (outcome : BitVec 3) : Prop :=
  t.cus.running = none ∧ t.cus.combiner = [] ∧ t.cus.shares = [] ∧ t.cus.lastOutcome = outcome ∧
  t.cus.lastCer = c.request.cer ∧ (∀ n, n < 8 → ∀ u, (t.stn n).turn = some u → u.over = true) ∧ t.cus.windows = s.cus.windows ∧
  t.cus.requests = s.cus.requests ∧ t.keys = s.keys ∧ (c.generated = false → t.trivet = s.trivet)

/-- R377 to R380, R383 to R385, Table 13.9: the services that request a ceremony (H) or a window (N and H), close a window and
cancel a request answer their caller: LEVEL to the others, BAD_PARAM to what is no descriptor, the refusal of the checks,
or the identifier and the display code of the queued request. A window's END closes it; a notice ends after its time. -/
def CeremonyRequestsAndWindows : Prop :=
  ∀ (s : State) (n : BitVec 7),
    let c := s.ctx n.toNat
    let same (t : State) : Prop := t.keys = s.keys ∧ t.trivet = s.trivet ∧ t.modes = s.modes ∧ t.eng = s.eng
    let answers (i : Instr) (v : Verdict) (g2 : DWord) (P : State → Prop) : Prop := Answers i s fun t =>
      t.ctx n.toNat = c.answered v g2 ∧ same t ∧ P t
    let waits (t : State) : Prop := t.cus.requests = s.cus.requests ∧ t.cus.nextId = s.cus.nextId
    let level := ⟨0x0202, 0x19⟩
    let bad := ⟨0x0101, 0x35⟩
    (s.powered = true → (c.state ≠ .running ∨ c.level ≠ .s) →
      ∀ i ∈ [Instr.ceremonyRequest n, .windowRequest n, .windowClose n, .cerCancel n], exec i s = .next s) ∧
    (∀ l, Serves s n l → l ≠ .h → answers (.ceremonyRequest n) level 0 (fun t => t.cus = s.cus) ∧
      answers (.cerCancel n) level 0 fun t => t.cus = s.cus) ∧
    (Serves s n .s → answers (.windowRequest n) level 0 (fun t => t.cus = s.cus) ∧
      answers (.windowClose n) level 0 fun t => t.cus = s.cus) ∧
    (∀ l i w, Serves s n l → ((i = .ceremonyRequest n ∧ l = .h ∧ w = false) ∨ (i = .windowRequest n ∧ l ≠ .s ∧ w = true)) →
      (s.callerRead c (c.greg 2).toNat (if w then 32 else 64) = none → answers i bad 0 fun t => t.cus = s.cus) ∧
      (∀ d, s.callerRead c (c.greg 2).toNat (if w then 32 else 64) = some d →
        let r : CerRequest := { id := s.cus.nextId, who := c.requester, desc := d, window := w }
        (s.worlds.restarting = true → answers i ⟨0x0502, 0⟩ 0 waits) ∧
        (s.worlds.restarting = false → s.descBad r = true → answers i bad 0 waits) ∧
        (s.worlds.restarting = false → s.descBad r = false → s.cerMode r.cer = false → answers i ⟨0x0202, 0xB1⟩ 0 fun t =>
          waits t ∧ t.cus.banner = some "REFUSED") ∧
        (s.worlds.restarting = false → s.descBad r = false → s.cerMode r.cer = true → ∀ v, s.needs r = some v →
          answers i v 0 waits) ∧
        (s.requestRefusal r = none → Answers i s fun t =>
          t.ctx n.toNat = (c.answered Verdict.ok (s.cus.nextId.setWidth 64)).setG 3 (r.code.setWidth 64) ∧ same t ∧
          t.cus = { s.cus with requests := s.cus.requests ++ [r], nextId := s.cus.nextId + 1 }))) ∧
    (∀ l, Serves s n l → l ≠ .s →
      let w := (c.greg 2).toNat
      let free := ∀ e ∈ s.cus.windows, e.1 ≠ w
      (16 ≤ w → answers (.windowClose n) bad 0 fun t => t.cus = s.cus) ∧
      (w < 16 → free → answers (.windowClose n) Verdict.ok (c.greg 2) fun t => t.cus = s.cus) ∧
      (w < 16 → ∀ q, s.cus.windows = [(w, q)] →
        (l = .n → q.who ≠ c.requester → answers (.windowClose n) level 0 fun t => t.cus = s.cus) ∧
        ((l = .h ∨ q.who = c.requester) → answers (.windowClose n) Verdict.ok (c.greg 2) fun t =>
          t.cus = { s.cus with windows := [] }))) ∧
    (Serves s n .h →
      let id := c.greg 2
      ((∀ r ∈ s.cus.requests, id ≠ r.id.setWidth 64) → s.cus.running = none →
        answers (.cerCancel n) bad 0 fun t => t.cus = s.cus) ∧
      (∀ r, s.cus.requests = [r] → s.cus.running = none → id = r.id.setWidth 64 →
        answers (.cerCancel n) Verdict.ok id fun t => t.cus = { s.cus with requests := [] }) ∧
      (∀ k, s.cus.running = some k → k.ending = none → k.generated = false → id = k.request.id.setWidth 64 →
        Answers (.cerCancel n) s fun t => t.ctx n.toNat = c.answered Verdict.ok id ∧ ceremonyEnded s t k 1)) ∧
    (s.powered = true → ∀ w : BitVec 4,
      ((∀ e ∈ s.cus.windows, e.1 ≠ w.toNat) → exec (.windowEnd w) s = .next s) ∧
      (∀ q, s.cus.windows = [(w.toNat, q)] → Answers (.windowEnd w) s fun t =>
        t.cus = { s.cus with windows := [] } ∧ same t)) ∧
    (s.powered = true → s.Canonical →
      (s.cus.banner = none → exec .refusedDisplayEnd s = .next s) ∧
      (s.cus.banner.isSome = true → Answers .refusedDisplayEnd s fun t => t.cus.banner = none ∧
        (∀ k, k < 8 → t.stn k = { s.stn k with show_ := patterns (s.stn k).text (s.stn k).lamp }) ∧ same t))

/-- R369, R373 to R378, R381: a queued ceremony starts with the parts of Table 13.11; a card that is inserted starts a turn; ENTER
with touch approves and asks for the share, CANCEL declines; the card's session ends before its share goes on; its blob is
unwrapped by the device's own cipher work; the M-th share combines, EQUAL ends the part, NOT_EQUAL settles QUORUM_FAIL, and
the registers are zeroed; a share behind those is SURPLUS; the timeouts and a held CANCEL abort; generation makes the
shares of a pending generation from KEY's octets. -/
def TurnsQuorumAndGeneration : Prop :=
  ∀ s : State, s.powered = true → s.Canonical →
    let started (r : CerRequest) : Ceremony :=
      { request := r, parts := s.partsOf r, drawn := [], generated := false, ending := none, seen := [], assigned := []
        collected := [], places := 0 }
    let ends (i : Instr) (c : Ceremony) (o : BitVec 3) : Prop := Answers i s fun t => ceremonyEnded s t c o
    ((s.cus.running.isSome = true ∨ s.cus.requests = []) → exec .ceremonyStart s = .next s) ∧
    (s.cus.running = none → ∀ r rs, s.cus.requests = r :: rs → Answers .ceremonyStart s fun t =>
      t.cus.running = some (started r) ∧ t.cus.requests = rs ∧ t.cus.combiner = [] ∧ t.keys = s.keys ∧
      t.trivet = s.trivet) ∧
    let waits := ∀ m, m < 8 → ∀ v, (s.stn m).turn = some v → v.step ≠ .filling ∧ v.step ≠ .wrapping
    (s.cus.fifo = [] → (waits ∨ s.cus.running = none ∨ s.tamper.gateClosed = true) → exec .turnStep s = .next s) ∧
    (∀ e es, s.cus.fifo = e :: es → (s.cus.running = none ∨ ∃ c, s.cus.running = some c ∧ c.ending ≠ none) →
      let n := e.station.toNat
      let x := s.stn n
      (x.turn = none → exec .turnStep s = .next { s with cus := { s.cus with fifo := es } }) ∧
      (∀ u, x.turn = some u → u.step = .closing → u.won = false → e.kind = 7 → Answers .turnStep s fun t =>
        t.cus.fifo = es ∧ (t.stn n).turn = none ∧ (t.stn n).card = .off)) ∧
    (∀ (c : Ceremony) (e : StnEvent) (es : List StnEvent) (o : Byte) (ps : List Part), s.cus.running = some c →
      c.ending = none → c.parts = .q o :: ps → s.cus.fifo = e :: es → waits →
      let n := e.station.toNat
      let x := s.stn n
      let a := s.auth o.toNat
      (x.turn = none → x.card = .off → e.kind = 1 → Answers .turnStep s fun t =>
        t.cus.fifo = es ∧ (t.stn n).card = .activating ∧ ∃ u, (t.stn n).turn = some u ∧ u.kind = .quorum ∧
          u.step = .activating ∧ u.part = c.parts.length ∧ u.owner = o ∧ u.m = a.m.toNat ∧ u.agen = a.agen ∧ u.won = false) ∧
      (∀ u, x.turn = some u → u.kind = .quorum →
        let sends (u : Turn) (cmd : Bytes) : Station := { x with
          apduBuf := cmd, secret := [], apduLen := BitVec.ofNat 9 cmd.length, busy := true, done := false, err := false
          overflow := false, link := { x.link with failures := 0 }, turn := some u }
        let gone : Turn := { u with won := false, work := none, result := none, blob := [], step := .closing }
        (u.step = .approving → e.kind = 3 →
          (e.key = 0xE → e.touch = true → x.card = .active → x.busy = false → Answers .turnStep s fun t =>
            t.stn n = sends { u with step := .sharing, place := c.places } [0x80, 0x30, 0, 0, 0x38] ∧ t.cus.fifo = es ∧
            t.cus.running = some { c with places := c.places + 1 }) ∧
          (e.key = 0xC → Answers .turnStep s fun t =>
            (x.card ≠ .active → (t.stn n).turn = none) ∧
            (x.card = .active → x.busy = false → (t.stn n).turn = some gone ∧ (t.stn n).apduBuf = [0x80, 0x40, 0, 0] ∧
              (t.stn n).busy = true) ∧
            (t.stn n).text = "DECLINED" ∧ t.cus.running = some c ∧ t.cus.combiner = s.cus.combiner ∧ t.cus.fifo = es)) ∧
        (u.step = .authenticating → e.kind = 7 → s.tamper.gateClosed = true → exec .turnStep s = .next s) ∧
        (∀ blob, u.step = .sharing → e.kind = 7 → x.done = true → x.rLen = 58 → x.apduBuf = blob ++ [0x90, 0] →
          blob.length = 56 → x.card = .active → x.busy = false → Answers .turnStep s fun t =>
            t.stn n = sends { u with step := .closing, won := true, blob := blob } [0x80, 0x40, 0, 0] ∧ t.cus.fifo = es ∧
            t.cus.running = some c ∧ t.cus.combiner = s.cus.combiner) ∧
        (u.step = .closing → u.won = true → e.kind = 7 → x.done = true → x.rLen = 2 → x.apduBuf = [0x90, 0] →
          x.card = .active → x.busy = false →
          let y : Station := { x with card := .off, turn := some { u with step := .filling } }
          exec .turnStep s = .next { s with cus := { (s.setStn n y).cus with fifo := es } }))) ∧
    (∀ (c : Ceremony) (o : Byte) (ps : List Part) (st : BitVec 3) (u : Turn), s.cus.running = some c → c.ending = none →
      c.parts = .q o :: ps → s.tamper.gateClosed = false → (s.stn st.toNat).turn = some u →
      (∀ m, m < 8 → m ≠ st.toNat → (s.stn m).turn = none) → u.kind = .quorum → u.step = .filling → u.work = none →
      let part := c.parts.length
      (u.part ≠ part → Answers .turnStep s fun t =>
        (t.stn st.toNat).turn = none ∧ (t.stn st.toNat).text = doneText u.m u.m ∧ t.cus.running = some c ∧
        t.cus.combiner = s.cus.combiner ∧ t.cus.fifo = s.cus.fifo) ∧
      (u.part = part → u.result = none → (∀ j ∈ s.eng.jobs, j.id ≠ s.eng.nextJob) → Answers .turnStep s fun t =>
        (t.stn st.toNat).turn = some { u with work := some s.eng.nextJob } ∧ t.cus = { s.cus with stations := t.cus.stations } ∧
        ∃ j ∈ t.eng.jobs, j.id = s.eng.nextJob ∧ j.dev = some (.share st) ∧ j.payload = u.blob ∧
          j.key = s.shareKey u.owner.toNat u.agen) ∧
      (∀ plain, u.part = part → u.result = some (some plain) → u.blob.length = 56 →
        slice 0 1 plain = [u.owner] → octet 1 plain = u.index → slice 4 4 plain = be 4 u.agen → slice 8 8 plain = be 8 u.serial →
        (∀ y ∈ c.collected, y ≠ (part, u.index)) →
        let held := s.cus.combiner ++ [(u.index, slice 16 32 plain)]
        let after : Ceremony := { c with collected := c.collected ++ [(part, u.index)] }
        let zeroed (t : State) : Prop := t.cus.combiner = [] ∧ t.cus.shares = []
        (held.length < u.m → Answers .turnStep s fun t =>
          t.cus.combiner = held ∧ t.cus.running = some after ∧ (t.stn st.toNat).turn = none ∧
          (t.stn st.toNat).text = doneText held.length u.m) ∧
        (u.m ≤ held.length → combineShares held = s.authSecret u.owner.toNat u.agen → Answers .turnStep s fun t =>
          zeroed t ∧ t.cus.running = some { after with parts := ps } ∧ t.eng.cmpEq = s.eng.cmpEq + 1) ∧
        (u.m ≤ held.length → combineShares held ≠ s.authSecret u.owner.toNat u.agen → Answers .turnStep s fun t =>
          zeroed t ∧ t.cus.running = some { after with ending := some 3 } ∧ t.eng.cmpNe = s.eng.cmpNe + 1))) ∧
    (∀ st : BitVec 3,
      let x := s.stn st.toNat
      (x.turn = none → exec (.turnStepTimeout st) s = .next s) ∧
      (∀ u, x.turn = some u → u.over = true → Answers (.turnStepTimeout st) s fun t =>
        (t.stn st.toNat).turn = none ∧ (t.stn st.toNat).card = (if x.card = .fault then .fault else .off)) ∧
      (∀ u, x.turn = some u → u.over = false → Answers (.turnStepTimeout st) s fun t =>
        (x.card ≠ .active → (t.stn st.toNat).turn = none) ∧
        (∀ v, (t.stn st.toNat).turn = some v → v.over = true) ∧
        (x.card = .active → x.busy = false → (t.stn st.toNat).apduBuf = [0x80, 0x40, 0, 0] ∧ (t.stn st.toNat).busy = true) ∧
        t.cus.combiner = s.cus.combiner ∧ t.keys = s.keys) ∧
      (x.pressed ≠ some 0xC → exec (.cancelHeld st) s = .next s)) ∧
    (s.cus.running = none → (∀ st, exec (.cancelHeld st) s = .next s) ∧
      ∀ i ∈ [Instr.ceremonyStepTimeout, .ceremonyTimeout, .codeDisplayEnd, .generationStep, .ceremonyEnd],
        exec i s = .next s) ∧
    ∀ c, s.cus.running = some c →
      let r := c.request
      let put (d : Ceremony) (t : State) : Prop := t.cus.running = some d ∧ t.cus.combiner = []
      (c.turnKind.isSome = true → exec .ceremonyStepTimeout s = .next s) ∧
      (∀ o, c.ending = some o →
        ends .ceremonyEnd c o ∧ ends .ceremonyTimeout c o ∧ exec .codeDisplayEnd s = .next s ∧
        exec .generationStep s = .next s) ∧
      (c.ending = none →
        exec .ceremonyEnd s = .next s ∧
        (c.turnKind = none → ends .ceremonyStepTimeout c 2) ∧ ends .ceremonyTimeout c 2 ∧
        (∀ st : BitVec 3, (s.stn st.toNat).pressed = some 0xC → ends (.cancelHeld st) c 1) ∧
        (c.parts.head? ≠ some .c → exec .codeDisplayEnd s = .next s) ∧
        (∀ ps, c.parts = .c :: ps → Answers .codeDisplayEnd s fun t =>
          put { c with parts := ps } t ∧ t.trivet = s.trivet) ∧
        ((c.parts.head? ≠ some .g ∨ s.tamper.gateClosed = true) → exec .generationStep s = .next s) ∧
        (∀ ps, c.parts = .g :: ps → s.tamper.gateClosed = false → s.newRoots r = [] →
          let d := s.deviceDraw .generation .key (32 * (r.quorum.1 - 1))
          (d.1 = none → exec .generationStep s = .next (s.after d.2)) ∧
          (d.1.isSome = true → Answers .generationStep s fun t =>
            put { c with parts := ps, drawn := [], generated := true } t ∧
            (t.auth r.subject).pendAgen = (s.auth r.subject).agen + 1 ∧ (t.auth r.subject).agen = (s.auth r.subject).agen ∧
            t.cus.shares.map Prod.fst = (List.range r.quorum.2).map (fun i => BitVec.ofNat 8 (i + 1)) ∧
            t.trivet.roots = s.trivet.roots)))

/-- A ceremony of a number stands at its X, in its mode, with what it needs (R378, R379). -/
structure AtX (s : State) (cer : Byte) (c : Ceremony) : Prop where
  powered : s.powered = true
  canonical : s.Canonical
  running : s.cus.running = some c
  number : c.request.cer = cer
  next_ : c.parts.head? = some .x
  open_ : c.ending = none

/-- The X of each ceremony (Table 13.11). -/
def isX (test : SelfTest) (cer : Byte) (i : Instr) : Prop :=
  (cer = 0x01 ∧ i = .daCreate) ∨ (cer = 0x02 ∧ i = .daReshare) ∨ (cer = 0x03 ∧ i = .kernelAdmit) ∨
  (cer = 0x04 ∧ i = .fuseBurn) ∨ (cer = 0x05 ∧ i = .ownerCreate) ∨ (cer = 0x06 ∧ i = .ownerDelete) ∨
  (cer = 0x07 ∧ i = .evidenceClear test) ∨ (cer = 0x08 ∧ i = .serviceEnter) ∨ (cer = 0x09 ∧ i = .recoveryExit test) ∨
  (cer = 0x10 ∧ i = .windowOpen) ∨ (cer = 0x11 ∧ i = .ownerReshare) ∨ (cer = 0x12 ∧ i = .admitKey) ∨
  (cer = 0x13 ∧ i = .recommission test)

/-- R44, R48, R301, R378, R379, R386, R406, R407, R441, R444, Table 13.11: without its ceremony at X a row does nothing; a log
hold makes it wait, but refuses RECOMMISSION; a check that fails now refuses it; else it has its effect and the ceremony is
to end with DONE, or a device reset follows. -/
def Obligations.CeremonyEffects : Prop :=
  ∀ (s : State) (c : Ceremony),
    let r := c.request
    let o := r.owner.toNat
    let a := s.auth r.subject
    let done (i : Instr) (P : State → Prop) : Prop := Answers i s fun t =>
      t.cus.running = some { c with ending := some 0 } ∧ P t
    let ready (cer : Byte) : Prop := AtX s cer c ∧ s.stk.hold = false ∧ s.cerMode cer = true ∧ s.needs r = none
    let renewed (t : State) : Prop := t.auth r.subject = { a with
        agen := a.pendAgen, pendAgen := 0, m := BitVec.ofNat 4 r.quorum.1, n := BitVec.ofNat 4 r.quorum.2 } ∧
      ∀ e ∈ t.cus.windows, e.2.owner.toNat ≠ r.subject
    let resets (t : State) (resume : Byte) : Prop := t.modes.mode = .startup ∧ t.modes.lastReset = .device ∧
      t.trivet.resume = resume ∧ t.keys = KeyTree.reset ∧ t.mkt = Markets.reset ∧ t.trivet.roots = s.trivet.roots
    let keeps (v : Byte) : Byte := if s.trivet.resume = 0xAA ∨ s.trivet.resume = 0x99 then s.trivet.resume else v
    (∀ cer i, isX passingTest cer i →
      (s.powered = true → (s.cus.running = none ∨ (s.cus.running = some c ∧
        (r.cer ≠ cer ∨ c.parts.head? ≠ some .x ∨ c.ending ≠ none))) → exec i s = .next s) ∧
      (AtX s cer c → cer ≠ 0x13 → s.stk.hold = true → Answers i s fun t =>
        t.cus.running = some c ∧ t.trivet = s.trivet ∧ t.fuses = s.fuses ∧ t.modes = s.modes ∧
        ∀ k, k < 8 → (t.stn k).text = "LOG HOLD") ∧
      (AtX s cer c → (if cer = 0x13 then s.stk.hold = true ∨ 0 < s.slotsHeld else
        s.stk.hold = false ∧ (s.cerMode cer = false ∨ (s.needs r).isSome = true)) →
        exec i s = .next { s with cus := { s.cus with combiner := [], running := some { c with ending := some 4 } } })) ∧
    (ready 0x01 → done .daCreate fun t => t.owner 0 = { s.owner 0 with state := .live } ∧ renewed t) ∧
    (ready 0x05 → done .ownerCreate fun t => t.owner o = { s.owner o with state := .live } ∧ renewed t) ∧
    (ready 0x02 → done .daReshare fun t => renewed t ∧ t.trivet.owners = s.trivet.owners) ∧
    (ready 0x11 → done .ownerReshare fun t => renewed t ∧ t.trivet.owners = s.trivet.owners) ∧
    (ready 0x03 → done .kernelAdmit fun t =>
      t.fuses = { s.fuses with kernel := s.fuses.kernel ++ [slice 16 48 r.desc] } ∧ t.trivet = s.trivet) ∧
    (ready 0x04 → done .fuseBurn fun t =>
      t.fuses = { s.fuses with sources := s.fuses.sources ||| (1#64 <<< r.arg.toNat) } ∧ t.trivet = s.trivet) ∧
    (ready 0x06 → done .ownerDelete fun t =>
      t.owner o = Owner.absent ∧ t.auth o = Authority.none ∧ (t.reg intKt).getLsbD 3 = true ∧ (∀ e ∈ t.trivet.roots, ∀ x ∈ (s.owner o).roots, e.1 ≠ x.toNat) ∧
      (∀ i, (s.owner o).first ≤ i → i < (s.owner o).first + (s.owner o).size → t.entry i = (s.entry i).freed) ∧
      (∀ i, ¬((s.owner o).first ≤ i ∧ i < (s.owner o).first + (s.owner o).size) → t.entry i = s.entry i) ∧
      ∀ e ∈ t.cus.windows, e.2.owner.toNat ≠ o) ∧
    (ready 0x07 → s.modes.mode ≠ .erased → done (.evidenceClear passingTest) fun t =>
      t.trivet = { s.trivet with flags := 0, evidence := [], evCnt := 0, evNext := 0, erased := none } ∧ t.modes = s.modes) ∧
    (ready 0x07 → s.modes.mode = .erased → Answers (.evidenceClear passingTest) s fun t =>
      resets t (if s.trivet.resume = 0x99 then 0x99 else 0x55) ∧ t.trivet.flags = 0 ∧ t.trivet.evidence = []) ∧
    (ready 0x08 → done (.serviceEnter) fun t => t.modes.mode = .service ∧ t.trivet.resume = keeps 0x66 ∧ t.tamper.lock = true) ∧
    (ready 0x09 → r.arg = 0 → Answers (.recoveryExit passingTest) s fun t => resets t
      (if s.trivet.resume = 0xAA then 0xAA else if s.trivet.recFrom = 0x66 ∧ s.trivet.flags ≠ 0 then 0x55 else s.trivet.recFrom) ∧
      t.trivet.owners = s.trivet.owners ∧ t.fuses = s.fuses) ∧
    (ready 0x10 → s.cus.windows = [] → done .windowOpen fun t => ∃ w, t.cus.windows = [(0, w)] ∧
      w.owner = octet 0 r.desc ∧ w.handle = fieldLE 32 4 4 r.desc ∧ w.sliceMask = fieldLE 64 8 8 r.desc ∧ w.who = r.who ∧
      w.end_ = s.tl.ns + BitVec.ofNat 64 (ofLE (slice 0x14 4 r.desc) * 1000000000)) ∧
    (ready 0x12 → done .admitKey fun t =>
      (t.auth o).admitKeys.toList = ((s.auth o).admitKeys.toList.set ((octet 12 r.desc).toNat % 4) r.arg) ∧
      (t.auth o).agen = (s.auth o).agen ∧ t.trivet.owners = s.trivet.owners) ∧
    (ready 0x13 → s.slotsHeld = 0 → Answers (.recommission passingTest) s fun t => resets t (keeps 0x55) ∧
      t.trivet.owners = s.trivet.owners ∧ t.fuses = s.fuses)


/-! ### Stockpot (15) -/

/-- The entry that a record becomes at its acceptance, `after` records later, with further flags (R412, R414). -/
def entryOf (s : State) (r : LogRec) (after : DWord) (extra : Half) : LogEntry :=
  { record := r, seq := s.stk.nextSeq + after, tl := s.tl.ns, flags := s.timeFlags ||| extra, exported := false }

/-- Sequence, chain and count after records have been accepted (R414, R421). -/
def Numbered (k u : Stockpot) (es : List LogEntry) : Prop :=
  u.nextSeq = k.nextSeq + BitVec.ofNat 64 es.length ∧
  u.chain = es.foldl (fun c e => if 2 ≤ e.record.severity.toNat then sha256 (c ++ e.bytes) else c) k.chain ∧
  u.chainedCount = k.chainedCount + BitVec.ofNat 32 (es.filter fun e => 2 ≤ e.record.severity.toNat).length

/-- A placed record keeps its slots from a record of a severity (Table 15.2, R416). -/
def Blocks (k : Stockpot) (sev : BitVec 2) (p : Placed) : Prop :=
  if 2 ≤ p.entry.record.severity.toNat then k.ack = BitVec.allOnes 64 ∨ k.ack.toNat < p.entry.seq.toNat
  else sev.toNat < p.entry.record.severity.toNat

/-- `p` begins the first run of `n` slots, in ring order from the write pointer, that a record may take (R417). -/
def FirstRun (k : Stockpot) (sev : BitVec 2) (n p : Nat) : Prop :=
  let fits (q : Nat) : Prop := q + n ≤ 126976 ∧ ∀ x ∈ k.ring, Blocks k sev x → x.slot + x.slots ≤ q ∨ q + n ≤ x.slot
  let dist (q : Nat) : Nat := if k.wptr ≤ q then q - k.wptr else q + 126976 - k.wptr
  fits p ∧ ∀ q < 126976, dist q < dist p → ¬fits q

/-- The evidence region has room for one more record, beside those in the side buffer that are to go there (R416). -/
def EvidenceRoom (k : Stockpot) : Prop :=
  k.evidence.length + (k.side.countP fun e => e.record.severity == 3 && !e.flags.getLsbD 3) < 4096

/-- A record goes to the evidence region (R416). -/
def Homed (k : Stockpot) (r : LogRec) : Prop := r.severity = 3 ∧ k.frozen = false ∧ EvidenceRoom k

/-- A record must wait: the side buffer takes new records and has no room for it (R426). -/
def Waits (k : Stockpot) (r : LogRec) : Prop :=
  ¬Homed k r ∧ (k.hold = true ∨ k.frozen = true ∨ k.side ≠ []) ∧
  262144 < (k.side.map fun e => e.record.size).sum + r.size ∧ r.severity ≠ 0

/-- What the acceptance of a record leaves of Stockpot, apart from its ports, its own waiting records and the turn. -/
structure Accepted (s : State) (r : LogRec) (u : Stockpot) : Prop where
  kept : ∃ x : Stockpot, u = { x with ports := u.ports, own := u.own, turn := u.turn } ∧
    let k := s.stk
    let homed := Homed k r
    let aside := k.hold = true ∨ k.frozen = true ∨ k.side ≠ []
    let room := (k.side.map fun e => e.record.size).sum + r.size ≤ 262144
    let same := x = { k with
      nextSeq := x.nextSeq, chain := x.chain, chainedCount := x.chainedCount, evidence := x.evidence, side := x.side,
      ring := x.ring, wptr := x.wptr, drop := x.drop, hold := x.hold, holds := x.holds }
    let holds := holdRec true k.nextSeq
    ∃ main : Half, (r.severity = 3 ∧ ¬EvidenceRoom k → main = 8) ∧ (r.severity ≠ 3 ∨ EvidenceRoom k → main = 0) ∧
    same ∧
    (homed → Numbered k x [entryOf s r 0 0] ∧ x.ring = k.ring ∧ x.wptr = k.wptr ∧ x.side = k.side ∧ x.drop = k.drop ∧
      x.hold = k.hold ∧ x.holds = k.holds ∧ ∃ i < 4096, (∀ p ∈ k.evidence, p.slot ≠ i) ∧
        (∀ j < i, ∃ p ∈ k.evidence, p.slot = j) ∧ ∀ p, p ∈ x.evidence ↔ p ∈ k.evidence ∨ p = ⟨i, entryOf s r 0 0⟩) ∧
    (¬homed → aside → room → Numbered k x [entryOf s r 0 (4 ||| main)] ∧ x = { k with
      nextSeq := x.nextSeq, chain := x.chain, chainedCount := x.chainedCount, side := k.side ++ [entryOf s r 0 (4 ||| main)] }) ∧
    (¬homed → aside → ¬room → x = { k with drop := k.drop + 1 }) ∧
    (¬homed → ¬aside → ∀ p, FirstRun k r.severity r.slots p →
      let e := entryOf s r 0 main
      let apart (q : Placed) : Prop := q.slot + q.slots ≤ p ∨ p + r.slots ≤ q.slot
      Numbered k x [e] ∧ x.evidence = k.evidence ∧ x.side = [] ∧ x.hold = false ∧ x.wptr = (p + r.slots) % 126976 ∧
      (∀ q, q ∈ x.ring ↔ q = ⟨p, e⟩ ∨ q ∈ k.ring ∧ apart q) ∧
      x.drop = k.drop + BitVec.ofNat 32 (k.ring.countP fun q =>
        !q.entry.exported && decide (p < q.slot + q.slots) && decide (q.slot < p + r.slots))) ∧
    (¬homed → ¬aside → (∀ p, ¬FirstRun k r.severity r.slots p) → r.severity.toNat < 2 → x = { k with drop := k.drop + 1 }) ∧
    (¬homed → ¬aside → (∀ p, ¬FirstRun k r.severity r.slots p) → 2 ≤ r.severity.toNat →
      Numbered k x [entryOf s r 0 (4 ||| main), entryOf s holds 1 4] ∧
      x = { k with nextSeq := x.nextSeq, chain := x.chain, chainedCount := x.chainedCount
                   hold := true, holds := k.holds + 1, side := [entryOf s r 0 (4 ||| main), entryOf s holds 1 4] })

/-- R414 to R417, R420, R421, R425, R426: one turn of Stockpot. Its own oldest record goes first, else the first port in
round-robin order whose head need not wait; records that producers hold back follow into the port. The record takes its
sequence, time and place in the chain, and goes to the evidence region, the side buffer or the first run of the main ring;
with no such run a Trace or Notice is dropped and counted, and for others log hold begins, with its LOG_HOLD record. -/
def RecordsAreAccepted : Prop :=
  ∀ s : State, s.powered = true → s.Canonical →
    let k := s.stk
    (k.started = false → exec .logRecordAccept s = .next s) ∧
    (k.started = true →
      (∀ r rs, k.own = r :: rs →
        (Waits k r → exec .logRecordAccept s = .next s) ∧
        (¬Waits k r → Answers .logRecordAccept s fun t => Accepted s r t.stk ∧ t.stk.own = rs ∧ t.stk.turn = k.turn ∧
          t.stk.ports = k.ports ∧ Reports { s with stk := t.stk } t)) ∧
      (k.own = [] →
        ((∀ p : Fin 8, ∀ r rs, k.ports[p] = r :: rs → Waits k r) → exec .logRecordAccept s = .next s) ∧
        ∀ i : Nat, i < 8 →
          let port (j : Nat) : Fin 8 := (k.turn + BitVec.ofNat 3 j).toFin
          ∀ r rs, k.ports[port i] = r :: rs → ¬Waits k r → (∀ j < i, ∀ x xs, k.ports[port j] = x :: xs → Waits k x) →
            Answers .logRecordAccept s fun t =>
              let mine := (s.waitingLog.filter fun w => w.1.toFin = port i).map Prod.snd
              Accepted s r t.stk ∧ t.stk.own = [] ∧ t.stk.turn = k.turn + BitVec.ofNat 3 (i + 1) ∧
              (∃ n, t.stk.ports[port i] = rs ++ mine.take n ∧ (fifoBytes (rs ++ mine.take n) ≤ 4096 ∨ n = 0) ∧
                (n < mine.length → 4096 < fifoBytes (rs ++ mine.take (n + 1))) ∧
                (∀ q : Fin 8, q ≠ port i → t.stk.ports[q] = k.ports[q]) ∧
                t.waitingLog.length + n = s.waitingLog.length) ∧
              (port i ≠ 2 ∨ (r.type ≠ 0x0030 ∧ r.type ≠ 0x0031) → Reports { s with stk := t.stk, waitingLog := t.waitingLog } t)))

/-- R238: once Stockpot has accepted the record of a seal, the record's octets go to the next slot of the slice's seal
buffer, unless the write is skipped, and a notice with the slot, the kind and the seal's sequence to the seal's ring,
or it is dropped and counted where the ring takes none (R332). -/
def AcceptedSealsReachTheirSlice : Prop :=
  ∀ (s : State) (r : LogRec) (rs : List LogRec) (o : SealOut) (os : List SealOut), s.powered = true → s.Canonical →
    s.stk.started = true → s.stk.own = [] → s.stk.turn = 2 → s.stk.ports[2] = r :: rs → ¬Waits s.stk r →
    r.severity = 2 → (r.type = 0x0030 ∨ r.type = 0x0031) → s.mkt.outbox = o :: os →
    (∀ e ∈ s.stk.stored ++ s.stk.side, e.seq ≠ s.stk.nextSeq) →
    let n := o.slice.toNat
    let g := s.ring n o.ring.toNat
    let b := s.sealBuf n
    let skip : Bool := b.slots == 0 || !g.enable || s.host.d3hot
    let takes : Bool := g.enable && g.state == .running && !s.host.d3hot && decide (0 < g.slots)
    let result : DWord := (o.sealSeq.setWidth 32 : Word) ++
      (BitVec.ofNat 32 ((if skip then 0xFFFF else b.head.toNat) + (if o.pq then 0x20000 else 0x10000)))
    Answers .logRecordAccept s fun t => Accepted s r t.stk ∧ t.mkt.outbox = os ∧
      (∃ e, (e ∈ t.stk.stored ∨ e ∈ t.stk.side) ∧ e.record = r ∧ e.seq = s.stk.nextSeq ∧
        (skip = false → ∃ rest, t.host.dma = s.host.dma ++ { slice := some o.slice, pasid := s.ringPasid n o.ring.toNat
                                                             addr := b.base + BitVec.ofNat 64 (4096 * b.head.toNat)
                                                             data := e.bytes } :: rest)) ∧
      t.sealBuf n = (if skip then b else
        { b with head := if b.slots.toNat ≤ b.head.toNat + 1 then 0 else b.head + 1 }) ∧
      (takes = true → (t.ring n o.ring.toNat).cqTail = g.cqTail + 1 ∧ (t.ring n o.ring.toNat).sealDrop = g.sealDrop ∧
        ∃ front, t.host.dma = front ++ [{ slice := some o.slice, pasid := s.ringPasid n o.ring.toNat
                                          addr := g.cq + BitVec.ofNat 64 (16 * (g.cqTail.toNat % 2 ^ g.cqLog2.toNat))
                                          data := completionBytes Verdict.ok (decide (g.cqTail.toNat / 2 ^ g.cqLog2.toNat % 2 = 0))
                                            false true 0xFFFFFFFF result }] ∧
        front.length = s.host.dma.length + (if skip then 0 else 1)) ∧
      (takes = false → (t.ring n o.ring.toNat).cqTail = g.cqTail ∧
        (t.ring n o.ring.toNat).sealDrop = satInc g.sealDrop ∧ (t.slc n).pgErr.getLsbD 6 = true ∧
        t.host.dma.length = s.host.dma.length + (if skip then 0 else 1))

/-- Stockpot accepts one of its own records at once, if the log runs, none of its own waits and this need not wait; else it
is kept behind those that wait (R420). -/
def TakesOwn (s : State) (r : LogRec) (t : State) : Prop :=
  (s.stk.started = true → s.stk.own = [] → ¬Waits s.stk r → Accepted s r t.stk ∧ t.stk.own = []) ∧
  (s.stk.started = false ∨ s.stk.own ≠ [] ∨ Waits s.stk r → t.stk = { s.stk with own := s.stk.own ++ [r] })

/-- The signed half of an STK_SEAL payload (Table 15.4). -/
def sealHead (x : SealTake) (unsigned : Bool) : Bytes :=
  be 8 x.first ++ be 8 x.last ++ be 8 x.tl ++ be 8 Config.deviceSerial ++ be 4 x.chained ++ be 4 x.dropped ++ be 4 x.keyGen ++
    [BitVec.ofNat 8 (unsigned.toNat + 2 * x.untrusted.toNat + 4 * x.hold.toNat), 0, 0, 0] ++ x.chain

/-- R405, R422 to R424, R446: the Log step of Start-up draws the boot nonce and begins the log with LOG_START, the evidence
written on VBAT that Stockpot lacks and the record of an interrupted seal; it waits while NONCE has no octets. A seal waits for its signature,
whose end gives a signed record, or, where it has failed, an UNSIGNED one and SIGN_FAIL. -/
def Obligations.LogStartAndSeals : Prop :=
  (∀ s : State, s.powered = true →
    let due := s.trivet.evidence.filter fun e => e.2.flags.getLsbD 0 && !e.2.copied
    let startRec (nonce : Bytes) : LogRec :=
      { type := 1, severity := 2, slice := 0xFF
        payload := be 8 Config.deviceSerial ++ be 8 s.trivet.tick ++ [s.trivet.lastMode] ++ zeros 3 ++ be 4 s.trivet.erases ++ nonce }
    let evRec (e : Evidence) : LogRec :=
      { type := 0x50, severity := 3, slice := 0xFF
        payload := [e.source, e.cls, e.cause, e.flags] ++ le 4 e.detail ++ le 8 e.time }
    let at_ (r : LogRec) (seq : Nat) : LogEntry :=
      { record := r, seq := BitVec.ofNat 64 seq, tl := s.tl.ns, flags := s.timeFlags, exported := false }
    ((s.modes.mode ≠ .startup ∨ s.modes.steps.getLsbD 3 = true) → exec .logStart s = .next s) ∧
    (s.modes.mode = .startup → s.modes.steps.getLsbD 3 = false →
      let d := s.deviceDraw .bootNonce .nonce 32
      (s.stk.started = false → d.1 = none → exec .logStart s = .next (s.after d.2)) ∧
      (s.stk.started = true ∨ d.1.isSome = true → Answers .logStart s fun t =>
        t.stk.started = true ∧ t.modes = { s.modes with steps := s.modes.steps ||| 8 } ∧
        t.trivet = { s.trivet with evidence := s.trivet.evidence.map fun e => (e.1, { e.2 with copied := true }) } ∧
        t.stk.interrupted = none ∧ (s.cal.entries = [] → ∃ e ∈ t.cal.entries, e.2.kind = kindStkSeal)) ∧
      (∀ nonce u, d = (some nonce, u) → due.length ≤ 4096 →
        s.stk = { Stockpot.reset with ports := s.stk.ports, drop := s.stk.drop, interrupted := s.stk.interrupted } →
        nonce.length = 32 → (∀ x ∈ s.stk.interrupted, x.chain.length = 32) →
        Answers .logStart s fun t => t.aud.nonce = nonce ∧ t.cld = u.cld ∧ t.stk.side = [] ∧ t.stk.own = [] ∧
          t.stk.evidence = due.zipIdx.map (fun x => ⟨x.2, at_ (evRec x.1.2) (x.2 + 1)⟩) ∧
          t.stk.ring = ⟨0, at_ (startRec nonce) 0⟩ :: (match s.stk.interrupted with
            | .none => []
            | some x => [⟨2, at_ { type := 2, severity := 2, slice := 0xFF, payload := sealHead x true ++ zeros 64 }
                (due.length + 1)⟩]) ∧
          t.stk.nextSeq = BitVec.ofNat 64 (due.length + 1 + (if s.stk.interrupted.isSome then 1 else 0))))) ∧
  ∀ s : State, s.powered = true → s.Canonical →
    let done : State := { s with stk := { s.stk with sealing := none, signed := none } }
    let sealRec (x : SealTake) (sig : Option Bytes) : LogRec :=
      { type := 2, severity := 2, slice := 0xFF, payload := sealHead x sig.isNone ++ sig.getD (zeros 64) }
    (s.stk.sealing = none ∨ s.stk.signed = none → ∀ failed, exec (.stkSealSigned failed) s = .next s) ∧
    ∀ x sig, s.stk.sealing = some x → s.stk.signed = some sig → Answers (.stkSealSigned sig.isNone) s fun t =>
      TakesOwn done (sealRec x sig) t ∧ (sig = none → (t.reg intStk).getLsbD 5 = true)

/-- Nothing waits for the end of a hold: no job, market or admission. -/
def NoneWaits (s : State) : Prop := s.eng.jobs = [] ∧ s.mkt.table = [] ∧ s.worlds.admission = none

/-- What a drain leaves: an empty side buffer and no hold, or a hold whose head is a chained record that finds no place. -/
def DrainLeaves (u : Stockpot) : Prop :=
  (u.hold = false ∧ u.side = []) ∨
  (u.hold = true ∧ ∃ e es, u.side = e :: es ∧ 2 ≤ e.record.severity.toNat ∧ (e.record.severity = 3 → e.flags.getLsbD 3 = false → 4096 ≤ u.evidence.length) ∧
    ∀ p, ¬FirstRun u e.record.severity e.record.slots p)

/-- R425, R426, R428: a drain moves records from the head of the side buffer until it is empty, when a hold ends with a
LOG_HOLD record, or a chained record finds no place, when a hold begins or goes on. FREEZE, unless frozen or with records in
the side buffer of no hold, suspends placement with a record; THAW and the end of 20 ms resume it with a record and a drain. -/
def Obligations.DrainsFreezesAndThaws : Prop :=
  ∀ (s : State) (who : Accessor), s.powered = true → s.Canonical →
    let k := s.stk
    let frozen (on auto : Bool) : LogRec :=
      { type := 4, severity := 1, slice := 0xFF, payload := [BitVec.ofNat 8 on.toNat, BitVec.ofNat 8 auto.toNat] ++ zeros 6 }
    let thaws (auto : Bool) (c : Instr) : Prop :=
      (k.frozen = false → exec c s = .next s) ∧
      (k.frozen = true → Answers c s fun t => t.stk.frozen = false) ∧
      (k.frozen = true → NoneWaits s → k.own = [] → k.started = true → Answers c s fun t =>
        DrainLeaves t.stk ∧ (t.reg intStk).getLsbD 2 = true ∧
        (k.side = [] → k.hold = false → Accepted { s with stk := { k with frozen := false } } (frozen false auto) t.stk))
    ((k.frozen = true ∨ k.side = []) → exec .sideBufferDrain s = .next s) ∧
    (k.frozen = false → k.side ≠ [] → NoneWaits s → Answers .sideBufferDrain s fun t =>
      DrainLeaves t.stk ∧ (t.stk.hold = true → (k.hold = false ∨ t.stk.holds = k.holds) → ∃ n < k.side.length, k.side.drop n <+: t.stk.side) ∧
      (k.hold = true → t.stk.hold = false → (t.reg intStk).getLsbD 1 = true) ∧
      (k.hold = false → t.stk.hold = true → (t.reg intStk).getLsbD 0 = true) ∧
      (k.hold = true → ∀ e es p, k.side = e :: es → e.record.severity = 2 → FirstRun k 2 e.record.slots p →
        Blocks k 3 ⟨p, e⟩ → ⟨p, e⟩ ∈ t.stk.ring) ∧
      (∀ x ∈ k.ring, Blocks k 3 x → x ∈ t.stk.ring)) ∧
    (who.isSH = false → exec (.freeze who) s = .next (s.after (s.denied who 0x130004)) ∧
      exec (.thaw who) s = .next (s.after (s.denied who 0x130004))) ∧
    (who.isSH = true → s.reaches who 0x130004 = true →
      ((k.frozen = true ∨ (k.side ≠ [] ∧ k.hold = false)) → exec (.freeze who) s = .next s) ∧
      (k.frozen = false → (k.side = [] ∨ k.hold = true) → Answers (.freeze who) s fun t =>
        TakesOwn { s with stk := { k with frozen := true } } (frozen true false) t ∧ Reports { s with stk := t.stk } t) ∧
      thaws false (.thaw who)) ∧
    thaws true .freezeTimeout


/-! ### Bluex audit link (15) -/

/-- A device frame goes out on a port of an enabled link (R430, R432). -/
def blxSent (s : State) (port : Bool) (kind : Byte) (body : Bytes) : State :=
  let f : Bytes := be 6 s.peerMac ++ be 6 s.audMac ++ [0x88, 0xB6] ++ [1, kind] ++ beNat 2 (24 + body.length) ++ zeros 4 ++
    be 8 Config.deviceSerial ++ be 8 s.aud.fseq ++ body
  if s.audEnable = true then
    { s with aud := { s.aud with fseq := s.aud.fseq + 1, tx := s.aud.tx + 1, sent := s.aud.sent ++ [⟨port, f ++ le 4 (fcs f)⟩] } }
  else s

/-- A STATUS goes out on the active port (R433, Table 15.6). -/
def statusSent (s : State) (reqSeq : DWord) (kind : Byte) (status : Half) (detail : Byte) (result : DWord) : State :=
  blxSent s s.aud.active 0x03 (be 8 reqSeq ++ [kind, 0] ++ be 2 status ++ [detail] ++ zeros 3 ++ be 8 result)

/-- Step 1 of R433: the octets of a Bluex frame are a request of the regulator's. -/
def WellFormedRequest (p : Bytes) : Prop :=
  ∃ kind n, (kind, n) ∈ [(0x81#8, 8), (0x82, 8), (0x83, 40), (0x84, 8), (0x85, 1192)] ∧ octet 0 p = 1 ∧ octet 1 p = kind ∧
    p.length = 24 + n + 96 ∧ slice 2 2 p = beNat 2 (24 + n) ∧ slice 4 4 p = zeros 4 ∧ slice 8 8 p = be 8 Config.deviceSerial ∧
    (kind = 0x84 → slice 24 8 p = zeros 8) ∧ ((kind = 0x83 ∨ kind = 0x85) → slice 28 4 p = zeros 4)

/-- A LINK record enters port 7, if nothing waits for it and it has room (R420, Table 15.3). -/
def LinkLogged (s t : State) (event : Byte) (port : Bool) : Prop :=
  let r : LogRec := { type := 8, severity := 2, slice := 0xFF, payload := [event, BitVec.ofNat 8 port.toNat] ++ zeros 6 }
  s.waitingLog = [] → fifoBytes s.stk.ports[7] + r.size ≤ 4096 → t.stk.ports[7] = s.stk.ports[7] ++ [r]

/-- The octets that the signature of a regulator frame covers (R433). -/
def signedOctets (s : State) (f : RegFrame) : Bytes :=
  [1, f.kind] ++ beNat 2 (24 + f.body.length) ++ zeros 4 ++ be 8 Config.deviceSerial ++ be 8 f.reqSeq ++ f.body ++ s.aud.nonce

/-- The verification of a regulator frame under AUD_REGKEY waits for an engine as device-class work (R33, R433). -/
def verifying (s t : State) (f : RegFrame) : Prop :=
  ∃ j ∈ t.eng.jobs, j.dev = some .regFrame ∧ j.stage = .queued ∧ j.payload = signedOctets s f ∧ j.key = s.regKey

/-- R430, R433: a frame that the link does not accept is dropped and counted. An accepted one is counted; if it is no
well-formed request, or 8 wait already, its STATUS says so and it is dropped; else it waits for its verification, which begins
at once if no other frame waits. -/
def AuditFramesAreReceived : Prop :=
  ∀ (s : State) (port : Bool) (f : Bytes), s.powered = true →
    let p := slice 14 (f.length - 18) f
    let seq : DWord := ofBE (slice 16 8 p)
    let n := p.length - 120
    let accepted := s.audEnable = true ∧ fcsOk f = true ∧ slice 12 2 f = [0x88, 0xB6] ∧ slice 0 6 f = be 6 s.audMac ∧ f.length ≤ 9018
    let c := Instr.bluexFrameReceive port f
    let got : State := { s with aud := { s.aud with rx := s.aud.rx + 1 } }
    let lost : State := { s with aud := { s.aud with rx := s.aud.rx + 1, rxBad := s.aud.rxBad + 1 } }
    14 + 18 ≤ f.length →
    (¬accepted → exec c s = .next { s with aud := { s.aud with rxBad := s.aud.rxBad + 1 } }) ∧
    (accepted → ¬WellFormedRequest p → exec c s = .next (statusSent lost seq (octet 1 p) 0x0101 0x35 0)) ∧
    (accepted → WellFormedRequest p → 8 ≤ s.aud.rxq.length →
      exec c s = .next (statusSent lost seq (octet 1 p) 0x0202 0xC3 0)) ∧
    (accepted → WellFormedRequest p → s.aud.rxq.length < 8 →
      let r : RegFrame := ⟨octet 1 p, seq, slice 24 n p, slice (24 + n) 96 p, port⟩
      let waits : State := { got with aud := { got.aud with rxq := s.aud.rxq ++ [r] } }
      (s.aud.rxq ≠ [] → exec c s = .next waits) ∧
      (s.aud.rxq = [] → (∀ j ∈ s.eng.jobs, j.id ≠ s.eng.nextJob) → Answers c s fun t =>
        t = { waits with eng := t.eng } ∧ verifying s t r))

/-- R433, R435: the verification at the head has ended, and that of the next frame begins. A signature that failed gives BLX_SIG and a LINK record; the first that
passes verifies the peer; a REQ_SEQ that is not new is a replay; ACK and RESUME are served at once, within the ranges of
R435, and the others wait for the secure world. -/
def RegulatorFramesAreServed : Prop :=
  ∀ (s : State) (f : RegFrame), s.powered = true →
    let c := Instr.bluexVerifyDone
    let verifies := s.aud.checked = some true
    let a : DWord := ofBE (slice 0 8 f.body)
    let k := s.stk
    let here (q : DWord) : Prop := ∃ e ∈ k.stored ++ k.side, e.seq = q
    let s1 : State := { s with aud := { s.aud with rxq := [], checked := none } }
    let s2 : State := { s1 with aud := { s1.aud with reqSeq := f.reqSeq } }
    let status (t : State) (st : Half) (d : Byte) : Prop := exec c s = .next (statusSent t f.reqSeq f.kind st d 0)
    ((s.audEnable = false ∨ s.aud.rxq = [] ∨ s.aud.checked = none) → exec c s = .next s) ∧
    (s.audEnable = true → s.aud.checked ≠ none → ∀ g gs, s.aud.rxq = f :: g :: gs →
      (∀ j ∈ s.eng.jobs, j.id ≠ s.eng.nextJob) → Answers c s fun t =>
        t.aud.rxq = g :: gs ∧ t.aud.checked = none ∧ verifying s t g) ∧
    (s.audEnable = true → s.aud.checked ≠ none → s.aud.rxq = [f] →
      (¬verifies → Answers c s fun t =>
        Reports (statusSent { s1 with aud := { s1.aud with rxBad := s.aud.rxBad + 1 } } f.reqSeq f.kind 0x0101 0xC0 0) t ∧
        (t.reg intAud).getLsbD 1 = true ∧ LinkLogged s t 3 f.port) ∧
      (verifies → s.aud.peer = false → Answers c s fun t =>
        Answers c { s with aud := { s.aud with peer := true } } (fun u => Reports u t) ∧
        (t.reg intAud).getLsbD 0 = true ∧ t.aud.peer = true ∧ LinkLogged s t 1 f.port) ∧
      (verifies → s.aud.peer = true →
        (f.reqSeq.toNat ≤ s.aud.reqSeq.toNat → status { s1 with aud := { s1.aud with rxBad := s.aud.rxBad + 1 } } 0x0202 0xC2) ∧
        (s.aud.reqSeq.toNat < f.reqSeq.toNat →
          (f.kind ≠ 0x81 → f.kind ≠ 0x82 → exec c s = .next { s2 with aud := { s2.aud with served := s.aud.served ++ [f] } }) ∧
          ((f.kind = 0x81 ∨ f.kind = 0x82) → k.started = false → status s2 0x0202 0xB1) ∧
          (f.kind = 0x81 → k.started = true →
            ((∀ m, k.expMax = some m → m.toNat < a.toNat) → status s2 0x0101 0xC1) ∧
            ∀ m, k.expMax = some m → a.toNat ≤ m.toNat →
              (k.ack ≠ BitVec.allOnes 64 → a.toNat ≤ k.ack.toNat → status s2 0 0) ∧
              ((k.ack = BitVec.allOnes 64 ∨ k.ack.toNat < a.toNat) → status { s2 with stk := { k with ack := a } } 0 0)) ∧
          (f.kind = 0x82 → k.started = true →
            (k.nextSeq.toNat < a.toNat → status s2 0x0101 0xC1) ∧
            (a.toNat ≤ k.nextSeq.toNat → (a = k.nextSeq ∨ here a) → status { s2 with stk := { k with exp := a } } 0 0) ∧
            (a.toNat < k.nextSeq.toNat → ¬here a → ∃ x : DWord, (here x ∨ x = k.nextSeq) ∧ a.toNat < x.toNat ∧
              (∀ y, here y → ¬(a.toNat < y.toNat ∧ y.toNat < x.toNat)) ∧
              status { s2 with stk := { k with exp := x } } 0x0202 0xC4)))))

/-- The payload of a PROVE_RESULT or CHECKKEY_RESULT with its verdict (Table 15.7). -/
def proveResult (f : RegFrame) (v : Verdict) (out : Bytes) : LogRec :=
  { type := 5, severity := 2, slice := 0xFF, payload := be 8 f.reqSeq ++ be 2 v.status ++ [v.detail] ++ zeros 5 ++ out }

/-- The CHECKKEY_RESULT of a request. -/
def checkResult (f : RegFrame) (v : Verdict) (out : Bytes) : LogRec :=
  { type := 7, severity := 2, slice := 0xFF, payload := be 8 f.reqSeq ++ slice 0 4 f.body ++ be 2 v.status ++ [v.detail, 0] ++ out }

/-- R436, Table 15.7: the secure world serves the oldest request of each kind: SVC_UNAVAILABLE while it restarts or has
failed; else the request's result record is accepted and its STATUS names the record's sequence. PROVE_REQ and CHECKKEY_REQ
run in Service and Recovery, the first neither in log hold nor while time is untrusted, and both under the checks of key use;
they wait while the key-path gate is closed, and every request waits while its record must. -/
def RequestsOfTheSecureWorld : Prop :=
  ∀ (s : State) (f : RegFrame), s.powered = true → s.Canonical →
    let first (kind : Byte) : Prop := s.aud.served.find? (fun g => g.kind == kind) = some f
    let serves := s.worlds.restarting = false ∧ s.worlds.kstate ≠ .failed ∧ s.worlds.kstate ≠ .absent
    let open_ := s.tamper.gateClosed = false
    let log := s.stk.started = true ∧ s.stk.own = [] ∧ (∀ p : Fin 8, s.stk.ports[p] = []) ∧ ∀ w ∈ s.waitingLog, w.1 ≠ 1
    let rest (t : State) : State := { t with aud := { t.aud with served := s.aud.served.erase f } }
    let keyed := s.modes.mode = .service ∨ s.modes.mode = .recovery
    let h : Word := ofBE (slice 0 4 f.body)
    let m (i : Nat) : Bytes := fit 48 (sparseGet [] s.worlds.admitted i)
    let body : Bytes :=
      be 8 f.reqSeq ++ be 8 s.worlds.kversion ++ [BitVec.ofNat 8 s.fuses.active, BitVec.ofNat 8 (2 ^ s.fuses.kernel.length - 1),
        BitVec.ofNat 8 s.worlds.fallback.toNat, 0] ++ beNat 4 s.worlds.restarts.toNat ++ fit 48 s.worlds.kmeas ++ m 64 ++
      (List.range 64).flatMap m
    let meas : LogRec := { type := 6, severity := 2, slice := 0xFF, payload := body }
    let results (c : Instr) (kind : Byte) (r : LogRec) (v : Verdict) (u : State) : Prop :=
      (Waits u.stk r → log → exec c s = .next s) ∧
      (¬Waits u.stk r → log → Answers c s fun t => Accepted u r t.stk ∧ t.keys = u.keys ∧ t.cld = u.cld ∧
        t.aud = (statusSent (rest s) f.reqSeq kind v.status v.detail s.stk.nextSeq).aud)
    (∀ x ∈ [(Instr.proveReq, 0x83#8), (.measReq, 0x84), (.checkkeyReq, 0x85)],
      (s.aud.served.find? (fun g => g.kind == x.2) = none → exec x.1 s = .next s) ∧
      (first x.2 → (open_ ∨ x.2 = 0x84) → ¬serves → exec x.1 s = .next (statusSent (rest s) f.reqSeq x.2 0x0502 0 0)) ∧
      (x.2 ≠ 0x84 → ¬open_ → exec x.1 s = .next s)) ∧
    (first 0x84 → serves →
      (s.stk.started = false → exec .measReq s = .next (statusSent (rest s) f.reqSeq 0x84 0x0202 0xB1 0)) ∧
      (s.stk.started = true → results .measReq 0x84 meas Verdict.ok s)) ∧
    (first 0x83 → serves → open_ →
      let no (v : Verdict) : Prop := results .proveReq 0x83 (proveResult f v (zeros 48)) v s
      (¬keyed → no ⟨0x0202, 0xB1⟩) ∧ (keyed → s.stk.hold = true → no ⟨0x0503, 0⟩) ∧
      (keyed → s.stk.hold = false → s.timeUntrusted = true → no ⟨0x0504, 0⟩) ∧
      (keyed → s.stk.hold = false → s.timeUntrusted = false →
        (∀ v, s.checkUse .s h opProve = .error v → no v) ∧
        ∀ e kc u, s.checkUse .s h opProve = .ok e → s.keyNow .s h true = (some kc, u) →
          results .proveReq 0x83 (proveResult f Verdict.ok (s.proveResponse h kc (slice 8 32 f.body))) Verdict.ok u)) ∧
    (first 0x85 → serves → open_ →
      let no (v : Verdict) : Prop := results .checkkeyReq 0x85 (checkResult f v (zeros 1128)) v s
      let ek := slice 8 1184 f.body
      (¬keyed → no ⟨0x0202, 0xB1⟩) ∧
      (keyed → (∀ v, s.checkUse .s h opProve = .error v → no v) ∧
        ∀ e kc u, s.checkUse .s h opProve = .ok e → s.keyNow .s h true = (some kc, u) →
          let d := u.deviceDraw .checkKey .nonce 32
          (kemKeyOk 0x41 ek = false → no (verdict St.operandRange 0)) ∧
          (kemKeyOk 0x41 ek = true → d.1 = none → exec .checkkeyReq s = .next (s.after d.2)) ∧
          ∀ b w, kemKeyOk 0x41 ek = true → d = (some b, w) →
            let k := kemEncaps 0x41 ek b
            results .checkkeyReq 0x85 (checkResult f Verdict.ok (k.1 ++ kwpWrap k.2 kc)) Verdict.ok w))

/-- R432 (HELLO), R434, R439: HELLO goes out at each of a port's seconds and at its block lock. The exporter passes the placed
records from STK_EXP in sequence, sends all chained ones and the others from MIN_SEV on, as many whole records as fit 8,192
octets, past tap 2. An acknowledgement that stays away restarts it after the last acknowledged record. S enables and disables the
link unless it is locked. -/
def TheAuditLinkExports : Prop :=
  ∀ (s : State) (port gained : Bool) (who : Accessor), s.powered = true → s.Canonical →
    let k := s.stk
    let on := s.audEnable = true
    let locked : State := if gained = true then s.setAudLock port true else s
    let hello (t : State) (last : DWord) (pub : Bytes) : Bytes :=
      t.aud.nonce ++ [t.modes.mode.code, if t.fuses.profile = .sa then 1 else 0,
        BitVec.ofNat 8 (k.hold.toNat + 2 * t.timeUntrusted.toNat + 4 * k.frozen.toNat + 8 * t.worlds.restarting.toNat), 0] ++
        be 4 (match t.auditNode with | some e => e.generation | .none => 0) ++ be 8 t.fuses.off ++ be 8 last ++ be 8 k.ack ++
        pub ++ zeros 3
    let fresh : DWord := k.ack + 1
    (¬on → exec (.helloTimer port gained) s = .next locked ∧ exec .exportData s = .next s ∧ exec .ackTimeout s = .next s) ∧
    (on → Answers (.helloTimer port gained) s fun t => ∃ last pub,
      t.aud = (blxSent locked port 1 (hello s last pub)).aud ∧ pub.length = 65 ∧ (k.nextSeq ≠ 0 → last = k.nextSeq - 1) ∧
      (∀ e key, s.auditNode = some e → e.type = 0x20 → s.deriveFresh e false = some key → (publicKeyOf 0x20 key).length = 65 →
        pub = publicKeyOf 0x20 key) ∧ t.stk = k ∧ t.keys = s.keys ∧ t.modes = s.modes) ∧
    (s.eng.tap2.held ≠ [] → exec .exportData s = .next s) ∧
    (on → k.started = true → s.eng.tap2.held = [] → ∀ d : List LogEntry, d.Pairwise (fun x y => x.seq.toNat < y.seq.toNat) →
      (∀ e, e ∈ d ↔ e ∈ k.stored ∧ k.exp.toNat ≤ e.seq.toNat ∧ ∀ x ∈ k.side.head?, e.seq.toNat < x.seq.toNat) →
      k.stored.Nodup →
      let sends (e : LogEntry) : Bool := e.record.chained || decide (((s.reg audCfg).extractLsb 2 1).toNat ≤ e.record.severity.toNat)
      let size (es : List LogEntry) : Nat := (es.map fun e => e.record.size).sum
      ∀ n, n ≤ d.length → size ((d.take n).filter sends) ≤ 8192 →
        (∀ x, d[n]? = some x → sends x = true ∧ 8192 < size ((d.take n).filter sends) + x.record.size) →
        let xs := (d.take n).filter sends
        let recs := xs.flatMap LogEntry.bytes
        (n = 0 → exec .exportData s = .next s) ∧
        ∀ l, (d.take n).getLast? = some l → Answers .exportData s fun t =>
          t.stk.exp = l.seq + 1 ∧ t.stk.ack = k.ack ∧ t.stk.side = k.side ∧ t.stk.nextSeq = k.nextSeq ∧
          t.stk.ring = k.ring.map (fun p => if p.entry.seq ∈ xs.map LogEntry.seq then { p with entry := { p.entry with exported := true } } else p) ∧
          (xs = [] → t.aud = s.aud ∧ t.eng = s.eng) ∧
          (∀ a z, xs.head? = some a → xs.getLast? = some z →
            t.aud = (blxSent s s.aud.active 2 (be 8 a.seq ++ beNat 2 xs.length ++ zeros 6 ++ recs)).aud ∧
            (∀ m, k.expMax = some m → t.stk.expMax = some (if m.toNat < z.seq.toNat then z.seq else m)) ∧
            (k.expMax = none → t.stk.expMax = some z.seq) ∧
            (s.tapBusy 2 = false → t.eng = s.eng) ∧
            ∀ j, s.tapBusy 2 = true → s.eng.tap2.job.bind s.job = some j →
              let new := recs.take ((dgBlock j.sub).len - s.eng.tap2.bytes.toNat)
              t.eng.tap2.buffer ++ t.eng.tap2.held = s.eng.tap2.buffer ++ new ∧
              t.eng.tap2.bytes = s.eng.tap2.bytes + BitVec.ofNat 64 new.length)) ∧
    (on → (k.exp = fresh → exec .ackTimeout s = .next s) ∧ (k.exp ≠ fresh → Reported .ackTimeout s
      { s with aud := { s.aud with retx := s.aud.retx + 1 }, stk := { k with exp := fresh } } intAud 3)) ∧
    (who ≠ .s → exec (.audEnableSet who) s = .next (s.after (s.denied who 0x140004)) ∧
      exec (.audEnableClear who) s = .next (s.after (s.denied who 0x140004))) ∧
    ((s.audLocked = true ∨ on) → exec (.audEnableSet .s) s = .next s) ∧
    (s.audLocked = false → ¬on → s.regKeyOk = false → Reported (.audEnableSet .s) s s intAud 1) ∧
    (s.audLocked = false → ¬on → s.regKeyOk = true → Answers (.audEnableSet .s) s fun t =>
      t.reg 0x140004 = s.reg 0x140004 ||| 1 ∧ t.aud.active = (s.reg 0x140004).getLsbD 3 ∧ t.stk = { k with exp := fresh } ∧
      t.aud.fseq = s.aud.fseq + 2 ∧ ∃ a b, t.aud.sent = s.aud.sent ++ [⟨false, a⟩, ⟨true, b⟩] ∧ octet 15 a = 1 ∧ octet 15 b = 1) ∧
    ((s.audLocked = true ∨ ¬on) → exec (.audEnableClear .s) s = .next s) ∧
    (s.audLocked = false → on → Answers (.audEnableClear .s) s fun t =>
      t.aud = { s.aud with
        rxq := [], checked := none, rxBad := s.aud.rxBad + BitVec.ofNat 32 (s.aud.rxq.length - 1) } ∧
      t.reg 0x140004 = s.reg 0x140004 &&& ~~~1 ∧ t.stk = s.stk ∧ t.keys = s.keys ∧
      ∀ j ∈ t.eng.jobs, j ∈ s.eng.jobs ∧ j.dev ≠ some .regFrame)


/-! ### Power and package (16, 17), register writes (0) -/

/-- A landed power commit whose groups have all reached their targets reports DONE (Table 16.12). -/
def ReportsDone (s t : State) : Prop :=
  let reached (p : PGroup) : Prop := (p.target = true → p.state = .on) ∧
    (p.target = false → p.state = .off ∨ (p.state = .on ∧ p.deferred = true))
  (s.power.busy = true → (∀ g < 26, reached (t.pgroup g)) →
    t.power.busy = false ∧ (t.reg 0x010010).getLsbD 31 = true ∧ (t.reg intPwr).getLsbD 0 = true) ∧
  ((s.power.busy = false ∨ ∃ g < 26, ¬reached (t.pgroup g)) → t.power.busy = s.power.busy ∧ t.reg 0x010010 = s.reg 0x010010)

/-- R453, R455, R456, R460, R461: COMMIT is refused while one is pending, with an epoch that is not the next, or if its targets
leave a class no group; else it is accepted and waits for its frame. DISCARD drops it and what is staged. S alone writes
PWR_HOLD, and a deferred cut whose HOLD is clear and whose taps are closed takes effect. -/
def PowerCommitsAndHolds : Prop :=
  ∀ (s : State) (who : Accessor) (value : Word), s.powered = true → s.Canonical →
    let tgt := s.reg 0x010014
    let keeps := tgt &&& 0x3FF ≠ 0 ∧ tgt &&& 0x3FC00 ≠ 0 ∧ tgt &&& 0x3FC0000 ≠ 0
    let refused (d : Word) : Prop :=
      Reported (.pwrCommit who) s (s.setReg 0x010010 (0x80000202 ||| (d <<< 16))) intPwr 2
    (who.isSH = false → exec (.pwrCommit who) s = .next (s.after (s.denied who 0x010008)) ∧
      exec (.pwrDiscard who) s = .next (s.after (s.denied who 0x010008))) ∧
    (who.isSH = true → s.reaches who 0x010008 = true →
      (s.power.pending = true → refused 0xA8) ∧
      (s.power.pending = false → s.reg 0x01000C ≠ s.power.epoch + 1 → refused 0xA7) ∧
      (s.power.pending = false → s.reg 0x01000C = s.power.epoch + 1 → ¬keeps → refused 0xD0) ∧
      (s.power.pending = false → s.reg 0x01000C = s.power.epoch + 1 → keeps → exec (.pwrCommit who) s =
        .next ({ s with power := { s.power with
          pending := true, acceptedTgt := tgt.setWidth 26, acceptedDepth := (s.reg 0x010018).setWidth 26 } }.setReg 0x010010 0)) ∧
      Answers (.pwrDiscard who) s fun t => t.power = { s.power with pending := false } ∧ t.reg 0x010010 = 0x80000000 ∧
        (∀ g < 32, (t.reg 0x010014).getLsbD g = (decide (g < 26) && (s.pgroup g).target) ∧
          (t.reg 0x010018).getLsbD g = (decide (g < 26) && (s.pgroup g).targetDepth)) ∧ t.eng = s.eng ∧ t.whisk = s.whisk) ∧
    (who ≠ .s → exec (.pwrHoldWrite who value) s = .next (s.after (s.denied who 0x01001C))) ∧
    Answers (.pwrHoldWrite .s value) s fun t => t.power.hold = value.setWidth 26 ∧ t.power.epoch = s.power.epoch ∧
      (∀ g < 26, t.pgroup g = (if (s.pgroup g).deferred && !value.getLsbD g && !s.groupTap g then
        { s.pgroup g with state := .draining, deferred := false, joined := false, expels := false, since := s.now } else s.pgroup g)) ∧
      ReportsDone s t ∧ t.keys = s.keys ∧ t.eng.jobs = s.eng.jobs

/-- R103, R105, R137, R453: the states of an engine group. DRAINING with nothing left scrubs its engines; the scrub's end is OFF
at the target depth; after its time in OFF a pending enable wakes it, asking seeds for cipher engines; a wake ends in ON once
they have them, and a cut that landed meanwhile then takes effect or is deferred. In any other state the event changes nothing. -/
def EngineGroupsChangeState : Prop :=
  ∀ (s : State) (group : BitVec 5), s.powered = true → s.Canonical →
    let g := group.toNat
    let p := s.pgroup g
    let bn := 18 ≤ g
    let cls : EngClass := if g < 10 then .pool else if g < 18 then .cipher else .bn
    let engines : List Nat := if g < 10 then (List.range 16).map (g * 16 + ·)
      else if g < 18 then (List.range 16).map ((g - 10) * 16 + ·) else (List.range 8).map ((g - 18) * 8 + ·)
    let busy := ∃ n ∈ engines, (s.engine cls n).running ≠ none ∨ (bn ∧ ∃ a ∈ (s.engine cls n).areas.toList, a ≠ none)
    let others (t : State) : Prop := ∀ k < 26, k ≠ g → t.pgroup k = s.pgroup k
    ((26 ≤ g ∨ p.state ≠ .draining ∨ busy) → exec (.groupDrained group) s = .next s) ∧
    (g < 26 → p.state = .draining → ¬busy → Answers (.groupDrained group) s fun t =>
      t.pgroup g = { p with state := .scrubbing, since := s.now } ∧ others t ∧
      (∀ n ∈ engines, let e := t.engine cls n
        e.key = 0 ∧ e.tweak = 0 ∧ e.urgentKey = 0 ∧ e.seeded = false ∧ e.opmem = [] ∧ (bn → e.scrubbing = true)) ∧
      (∀ c n, (c ≠ cls ∨ n ∉ engines) → t.engine c n = s.engine c n)) ∧
    ((26 ≤ g ∨ p.state ≠ .draining ∨ ¬bn) → exec (.groupDrainTimeout group) s = .next s) ∧
    (g < 26 → p.state = .draining → bn → Answers (.groupDrainTimeout group) s fun t =>
      t.pgroup g = { p with expels := true } ∧ others t ∧ t.eng.jobs.length = s.eng.jobs.length ∧ t.keys = s.keys ∧
      ∀ j ∈ s.eng.jobs, ∀ r, j.run1 = some r → j.run2 = none → r.done = false → r.engine.toNat ∈ engines →
        (∀ x, (s.engine .bn r.engine.toNat).running = some x → x.job ≠ j.id) →
        (∀ k ∈ s.eng.jobs, k.id = j.id → k = j) → ∀ k, t.job j.id = some k →
          k.run1 = none ∧ k.front = true ∧ ∀ a ∈ (t.engine .bn r.engine.toNat).areas.toList, a ≠ some j.id) ∧
    ((26 ≤ g ∨ p.state ≠ .scrubbing) → exec (.groupScrubDone group) s = .next s) ∧
    (g < 26 → p.state = .scrubbing → Answers (.groupScrubDone group) s fun t =>
      t.pgroup g = { p with state := .off, depth := p.targetDepth, since := s.now } ∧ others t ∧ ReportsDone s t ∧
      ∀ n ∈ engines, (t.engine cls n).scrubbing = false) ∧
    ((26 ≤ g ∨ p.state ≠ .off ∨ p.pendOn = false) → exec (.groupOffMinElapsed group) s = .next s) ∧
    (g < 26 → p.state = .off → p.pendOn = true → Answers (.groupOffMinElapsed group) s fun t =>
      t.pgroup g = { p with state := .waking, pendOn := false, since := s.now } ∧ others t ∧ (cls ≠ .cipher → t.eng = s.eng) ∧
      t.eng.jobs = s.eng.jobs ∧ (∀ n < 128, t.engine .cipher n = (if cls = .cipher ∧ n ∈ engines then
        { s.engine .cipher n with reseedPend := true } else s.engine .cipher n)) ∧
      t.cld.waiting = s.cld.waiting ++ (if cls = .cipher then engines.map fun n => ⟨.mask (BitVec.ofNat 7 n), s.now, none, none⟩ else [])) ∧
    let seeded := cls = .cipher → ∀ n ∈ engines, (s.engine .cipher n).seeded = true
    ((26 ≤ g ∨ p.state ≠ .waking ∨ ¬seeded) → exec (.groupWakeDone group) s = .next s) ∧
    (g < 26 → p.state = .waking → seeded → Answers (.groupWakeDone group) s fun t =>
      let up : PGroup := { p with state := .on, depth := false, joined := false, cutLater := false, since := s.now }
      others t ∧ ReportsDone s t ∧
      (p.cutLater = false → t.pgroup g = up) ∧
      (p.cutLater = true → s.power.hold.getLsbD g = false → s.groupTap g = false → 
        t.pgroup g = { up with state := .draining, deferred := false, expels := false }) ∧
      (p.cutLater = true → (s.power.hold.getLsbD g = true ∨ s.groupTap g = true) →
        t.pgroup g = { up with deferred := true } ∧ (t.reg intPwr).getLsbD 1 = true))

/-- R473, R482 to R485: MGMT's dynamic address, its mirror address and errors, and its reads, which advance by 4; the
instruction of DEBUG, where an unknown code is BYPASS, and EXTEST acts as one while an owner is LIVE; the switches of the
I/O rails; and SIGNAL7, which toggles while the kernel runs. -/
def Obligations.PackageEvents : Prop :=
  ∀ (s : State) (setdasa vo33 : Bool) (from_ addr : BitVec 7) (bytes : Bytes), s.powered = true →
    let p := s.pkg
    let put (p : Package) : State := { s with pkg := p }
    let codes : List (DebugCode × BitVec 2) := [(.bypass, 0), (.idcode, 1), (.sample, 2), (.extest, 3), (.other 9, 0)]
    let rail (on : Bool) : Package := if vo33 = true then { p with vo33 := on } else { p with vo18 := on }
    let closed := if vo33 = true then p.vo33 = true else p.vo18 = true
    ((setdasa = false ∨ from_ = 0x29) → exec (.mgmtDynamicAddress setdasa from_ addr) s = .next (put { p with mgmtAddr := some addr })) ∧
    (setdasa = true → from_ ≠ 0x29 → exec (.mgmtDynamicAddress setdasa from_ addr) s = .next s) ∧
    ((p.mgmtAddr = none ∨ bytes.length < 2) → exec (.mgmtPrivateWrite bytes) s = .next s) ∧
    (p.mgmtAddr ≠ none → ∀ hi lo rest, bytes = hi :: lo :: rest → exec (.mgmtPrivateWrite bytes) s = .next (put { p with
      mirror := hi ++ lo, mirrorErrors := if rest = [] then p.mirrorErrors else p.mirrorErrors + 1 })) ∧
    (p.mgmtAddr = none → exec .mgmtPrivateRead s = .next s) ∧
    (p.mgmtAddr ≠ none → Answers .mgmtPrivateRead s fun t => t = put { p with mirror := p.mirror + 4, mgmtData := t.pkg.mgmtData } ∧
      (p.mirror = 0 → t.pkg.mgmtData = s.readReg .s 0) ∧ (p.mirror = 4 → t.pkg.mgmtData = s.readReg .s 0x0104) ∧
      (p.mirror = 8 → t.pkg.mgmtData = s.readReg .s 0x110030) ∧ (p.mirror = 12 → t.pkg.mgmtData = s.readReg .s 0x010000) ∧
      (p.mirror = 16 → t.pkg.mgmtData = p.mirrorErrors) ∧ (p.mirror ∉ [0#16, 4, 8, 12, 16] → t.pkg.mgmtData = 0)) ∧
    (∀ x ∈ codes, exec (.debugTapInstruction x.1) s = .next (put { p with debug := x.2 })) ∧
    s.tapActs = (if p.debug = 3 ∧ ∃ o ∈ s.trivet.owners, o.2.state = .live then 0 else p.debug) ∧
    (¬closed → exec (.ioRailOverload vo33) s = .next s) ∧
    (closed → Answers (.ioRailOverload vo33) s fun t => Reports (put (rail false)) t) ∧
    exec (.ioRailRetry vo33) s = .next (put (rail true)) ∧
    exec .heartbeatToggle s = .next (put { p with heartbeat := decide (s.worlds.kstate = .running) && !p.heartbeat })

/-- Interrupt status registers, whose enable register follows, with their bits; whether S alone writes them. -/
def interruptRegs : List (Nat × Word × Bool) := [
  (0x000030, 0x3, false), (0x010040, 0x7, false), (0x020050, 0x1F, false), (0x06000C, 0x1F, false), (0x080060, 0x3, true),
  (0x090060, 0x7, true), (0x0A00A0, 0x3F, true), (0x0B0040, 0x7F, false), (0x0C0040, 0x7, false), (0x0D0090, 0x7F, false),
  (0x0E0090, 0xF, false), (0x0F00A0, 0xF, false), (0x1000C0, 0xF, true), (0x110050, 0x3F, true), (0x1300C0, 0x3F, false),
  (0x1400C0, 0x1F, true)]

/-- R17, R491 and the register sections: a REGISTER_WRITE is performed field by field for a writer of the register: W1C status
bits clear, an enable or selection takes its bits, RO registers ignore it; one by any other issuer is not performed and is
ACCESS_FAULT or SR_DENIED; a misaligned or unassigned one from a core is none. -/
def Obligations.RegisterWritesAreByField : Prop :=
  ∀ (s : State) (who : Accessor) (value : Word), s.powered = true →
    let write (a : Nat) : Out := exec (.registerWrite who (BitVec.ofNat 26 a) value) s
    let put (a : Nat) (v : Word) : State := s.setReg a v
    let isH := (∃ k, who = .h k) ∨ who = .manager
    let open_ (a : Nat) : Prop := s.reaches who a = true
    let plain : List (Nat × Word) := [(0x01000C, 0xFFFFFFFF), (0x010028, 0x1F), (0x020000, 0x3F), (0x020010, 0xF),
      (0x030000, 0xF3F), (0x040000, 0x3F), (0x050008, 0xFF), (0x050040, 0x33F), (0x060020, 0xFFFFFFFF), (0x0C0030, 0x3F),
      (0x0D0060, 0xF), (0x0E0060, 0x3F), (0x0F000C, 0xFFFFFFFF), (0x110020, 0x3F), (0x120020, 0xF), (0x130060, 0x1FFFF)]
    let readOnly : List Nat := [0x000000, 0x000004, 0x000010, 0x000018, 0x000020, 0x000040, 0x000044, 0x000048, 0x010000,
      0x010004, 0x010010, 0x010020, 0x010024, 0x01002C, 0x130000, 0x130008, 0x130020, 0x140000, 0x140020, 0x140030]
    (∀ x ∈ interruptRegs, (who = .s ∨ (isH ∧ x.2.2 = false)) → open_ x.1 → open_ (x.1 + 4) →
      write x.1 = .next (put x.1 (s.reg x.1 &&& ~~~(value &&& x.2.1))) ∧
      (x.1 ≠ 0x0B0040 → x.1 ≠ 0x0C0040 → write (x.1 + 4) = .next (put (x.1 + 4) (value &&& x.2.1)))) ∧
    (∀ x ∈ interruptRegs, isH → x.2.2 = true → write x.1 = .next (s.after (s.denied who x.1))) ∧
    (∀ b, who = .host b → ∀ x ∈ interruptRegs, write x.1 = .next (s.after (s.denied who x.1))) ∧
    (∀ x ∈ plain, who = .s ∨ isH → open_ x.1 → write x.1 = .next (put x.1 (value &&& x.2))) ∧
    (∀ x ∈ plain, isH → ∀ r, s.ringRefusal (s.accessAttr who) true permW x.1 4 = some r →
      write x.1 = .next (s.after (s.refuse who x.1 r))) ∧
    (∀ a ∈ readOnly, who = .s → write a = .next s) ∧
    (∀ a ∈ [0x000000, 0x010000, 0x130000, 0x140000], ∀ x, who = .n x → write a = .next (s.after (s.denied who a))) ∧
    (who.isSH = true → who ≠ .manager → write 0x000031 = .next s ∧ write 0x150000 = .next s)

/-! ### Forms whose own effect is stated again without the cases about them -/

/-- R264 to R268: TLWAIT for an instant that has passed returns WAKE_OK, for a later one the context waits with its entry in the
calendar; EVWAIT takes the oldest event, waits for one, or with POLL writes zeros; BRK is the exception BREAK at every level:
its context is FAULTED, and at S a restart of the secure world begins. -/
def WaitsAndBreakComplete : Prop :=
  ∀ (s : State) (n : BitVec 7) (w : Word), s.Canonical → Executes s n w (zOp w) →
    let c := s.ctx n.toNat
    let t := (c.greg (zRs1 w)).toNat
    let us := (t + 999) / 1000
    let q := sparseGet EventQueue.empty s.worlds.queues c.queueKey
    let waits (u : State) (x : WaitFor) : Prop :=
      let d := u.ctx n.toNat
      d.state = .waiting ∧ d.wait = x ∧ d.pc = c.pc + 4 ∧ d.g = c.g ∧ d.k = c.k
    (zOp w = 0x38 → w.setWidth 16 = (0 : BitVec 16) →
      (t ≤ s.tl.ns.toNat → exec (.tlwait n w) s = .next (s.withCtx n (c.writes (zRd w) 0))) ∧
      (s.tl.ns.toNat < t → us < 2 ^ 54 → c.level = .s → s.calUsed 0xFF < 16384 → Answers (.tlwait n w) s fun u =>
        waits u (.tlwait (zRd w)) ∧
        ∃ e ∈ u.cal.entries, e.2.kind = kindWake ∧ e.2.atUs = BitVec.ofNat 64 us ∧ e.2.arg = n.setWidth 32)) ∧
    (zOp w = 0x39 → zRs1 w = 0 →
      (∀ e es, q.events = e :: es → (zFunc w).toNat < 2 → exec (.evwait n w) s = .next (
        { s with worlds := { s.worlds with
            queues := sparseSet EventQueue.empty s.worlds.queues c.queueKey { q with events := es } } }.withCtx n
          (((c.setG (zRd w) (e.tag ++ e.arg)).setG (zRs2 w) ((e.kind.setWidth 32 : Word) ++ e.index)).retireTo (c.pc + 4)))) ∧
      (q.events = [] → zFunc w = 1 → exec (.evwait n w) s =
        .next (s.withCtx n (((c.setG (zRd w) 0).setG (zRs2 w) 0).retireTo (c.pc + 4)))) ∧
      (q.events = [] → zFunc w = 0 → Answers (.evwait n w) s fun u => waits u (.evwait (zRd w) (zRs2 w)))) ∧
    (zOp w = 0x3F → w.setWidth 26 = 3#26 →
      exec (.brk n w) s = .next (s.after (s.exception n.toNat 0x0B 0)) ∧
      (c.level ≠ .s → Answers (.brk n w) s fun u =>
        let d := u.ctx n.toNat
        d.state = .faulted ∧ d.cause = 0x0B ∧ d.tval = 0 ∧ d.pc = c.pc ∧ d.g = c.g ∧ d.k = c.k) ∧
      (c.level = .s → s.modes.mode ≠ .startup → s.worlds.restarting = false → s.worlds.kstate ≠ .failed →
        (∀ a ∈ s.worlds.restartTimes, a + 90000000000 ≤ s.now) → Answers (.brk n w) s fun u =>
          (u.ctx n.toNat).state = .faulted ∧ (u.ctx n.toNat).cause = 0x0B ∧ (u.ctx n.toNat).pc = c.pc ∧
          u.worlds.restarting = true ∧ u.worlds.rcause = 2 ∧ u.worlds.kstate = .restarting))

/-- R319, R322, R323, R325, R333: the end of 2 ms of a drain marks the slice's jobs but its seals to end at their next boundary. A host
of the ring's slice, of no slice, or the manager enables and disables a ring and writes its tail and head; the fetcher adds a
copy within its window and replaces one that is not owned; an entry that stays so is consumed with NOT_OWNED; the coalescing
time signals the completions not yet signalled. -/
def RingFormsComplete : Prop :=
  ∀ (s : State) (who : Accessor) (n : BitVec 6) (r : BitVec 4), s.powered = true → s.Canonical →
    let x := s.slc n.toNat
    let g := s.ring n.toNat r.toNat
    let put (y : Ring) : Out := .next (s.setRing n.toNat r.toNat y)
    let good := 4 ≤ g.sqLog2.toNat ∧ g.sqLog2.toNat ≤ g.cqLog2.toNat ∧ g.cqLog2.toNat ≤ 16 ∧ (x.pasid g.pasidIdx.toNat).isSome = true
    let covered := (g.tail - g.head).toNat
    let host := (who = .manager ∨ who = .host none ∨ who = .host (some n)) ∧ s.str.rules = [] ∧ s.str.wins = []
    let lone := ∀ e ∈ s.host.slices, ∀ k ∈ e.2.rings, k.2.fetched = [] ∨ (e.1 = n.toNat ∧ k.1 = r.toNat)
    let got (i : Word) (y : Ring) : Out := .next ((s.setRing n.toNat r.toNat y).atsUse (s.ringPasid n.toNat r.toNat)
      (g.sq + BitVec.ofNat 64 (64 * (i.toNat % 2 ^ g.sqLog2.toNat))) 64)
    let late (j : Job) : Job := { j with ending := some ⟨0x0501, 0⟩ }
    (x.state = .quiescing → exec (.quiesceDrainTimeout n) s = .next { s with eng := { s.eng with
      jobs := s.eng.jobs.map fun j => if j.sub.issuer.slice? = some n ∧ j.seal_ = none then late j else j } }) ∧
    (host → g.enable = false → good → (∀ j ∈ s.eng.jobs, ∀ i, j.sub.origin ≠ .ring n r i) →
      exec (.ringEnable who n r) s = put { g with
        enable := true, state := .running, tail := 0, head := 0, cqHead := 0, cqTail := 0, sealDrop := 0, chain := []
        fetched := [], inFlight := 0, unsignalled := 0, waitCq := false }) ∧
    (host → g.enable = true → exec (.ringDisable who n r) s = put { g with
      enable := false, chain := [], fetched := [], waitCq := false
      state := if g.state = .stopped ∨ g.inFlight = 0 then .disabled else g.state }) ∧
    (∀ v : Word, host → (v - g.tail).toNat ≤ 2 ^ g.sqLog2.toNat → (v - g.head).toNat ≤ 2 ^ g.sqLog2.toNat → g.fetched = [] →
      exec (.sqDoorbell who n r v) s = put { g with tail := v }) ∧
    (∀ v : Word, host → (v - g.cqHead).toNat ≤ 2 ^ g.cqLog2.toNat → (g.cqTail - v).toNat ≤ 2 ^ g.cqLog2.toNat → g.fetched = [] →
      exec (.cqHeadWrite who n r v) s = put { g with cqHead := v, waitCq := false }) ∧
    (RingServes s n r → s.host.linkUp = true → lone → covered ≤ g.chain.length → ∀ e o, e.length = 64 →
      g.chain.length + g.fetched.length < min (covered + 8) (2 ^ g.sqLog2.toNat) →
      let i := g.head + BitVec.ofNat 32 (g.chain.length + g.fetched.length)
      exec (.entryFetch n r e o) s = got i { g with fetched := g.fetched ++ [{ index := i, body := e, host := o }] }) ∧
    (RingServes s n r → s.host.linkUp = true → lone → ∀ e o (f : FetchedEntry), g.fetched = [f] → g.chain = [] → 0 < covered →
      g.owned f = false → e.length = 64 → g.owned { f with body := e } = false →
      exec (.entryRefetch n r e o) s = got f.index { g with fetched := [{ f with body := e, host := o }] }) ∧
    (RingServes s n r → ∀ f : FetchedEntry, g.fetched = [f] → g.chain = [] → 0 < covered → g.owned f = false →
      g.inFlight = 0 → g.cqTail = g.cqHead → 2 ≤ 2 ^ g.cqLog2.toNat → g.irqEn = false →
      Answers (.notOwnedTimeout n r) s fun t =>
        (t.ring n.toNat r.toNat).head = g.head + 1 ∧ (t.ring n.toNat r.toNat).fetched = [] ∧
        t.completions = s.completions ++ [{ origin := .ring n r f.index, verdict := ⟨0x0101, 0x90⟩, half := false, result := 0 }]) ∧
    (g.irqEn = true → g.coalUs ≠ 0 → g.unsignalled ≠ 0 → Answers (.coalesceTimeout n r) s fun t =>
      t.ring n.toNat r.toNat = { g with unsignalled := 0 } ∧ t.eng = s.eng ∧ t.keys = s.keys)

/-- R361 to R369, R486, Table 13.1: a tick of stations that are all disabled counts; S starts the activation of a card, which its ATR
completes; a second class is tried; S deactivates a card, begins an exchange and takes an event; an exchange ends with its
response; too much current is a card fault. -/
def StationFormsComplete : Prop :=
  ∀ (s : State) (st : BitVec 3), s.powered = true → s.Canonical →
    let n := st.toNat
    let x := s.stn n
    let put (y : Station) : Out := .next (s.setStn n y)
    (∀ scans, (∀ m, m < 8 → (s.stn m).enable = false) →
      exec (.scanTick scans) s = .next { s with cus := { s.cus with tick := s.cus.tick + 1 } }) ∧
    (x.card = .off → exec (.cardActivate (some .s) st none) s =
      put { x with card := .activating, classB := false, cause := 0, link := CardLink.default }) ∧
    (∀ (a : Bytes) m, x.card = .activating → x.enable = false → x.classB = true → atrOf a = some m → m.one = true →
      m.classes = none → exec (.cardActivate none st (some a)) s = put { x with card := .active, cause := 0, link := m.link }) ∧
    (x.card = .activating → x.classB = false → exec (.atrTimeout st) s = put { x with classB := true }) ∧
    (x.card = .active → x.busy = false → exec (.cardDeactivate .s st) s = put { x with card := .off }) ∧
    (x.card = .active → x.busy = false → exec (.apduSend .s st) s =
      put { x with busy := true, done := false, overflow := false, err := false, link := { x.link with failures := 0 } }) ∧
    (∀ b : Bytes, x.busy = true → b.length ≤ 256 → Answers (.apduDone st (.response b)) s fun t =>
      t.stn n = { x with busy := false, secret := [], done := true, rLen := BitVec.ofNat 9 b.length, apduBuf := b } ∧
      (t.reg 0x1000C0).getLsbD 2 = true) ∧
    (x.card = .active → x.turn = none → x.busy = false → Answers (.cardOvercurrent st) s fun t =>
      t.stn n = { x with card := .fault, cause := 5, dropout := none } ∧ (t.reg 0x1000C0).getLsbD 3 = true) ∧
    (∀ e es, s.cus.fifo = e :: es → exec (.cusEvtPop .s) s = .next { s with cus := { s.cus with fifo := es } }) ∧
    exec (.cusClrOvf .s) s = .next { s with cus := { s.cus with ovf := false } }

/-- R426, R428: the head of the side buffer is drained into the ring and the hold ends; S freezes placement; THAW and the end of
20 ms resume it. -/
def LogFormsComplete : Prop :=
  ∀ s : State, s.powered = true → s.Canonical →
    let k := s.stk
    (∀ e p, k.frozen = false → k.hold = true → k.side = [e] → NoneWaits s → e.record.severity = 2 →
      FirstRun k 2 e.record.slots p → Blocks k 3 ⟨p, e⟩ → Answers .sideBufferDrain s fun t =>
        ⟨p, e⟩ ∈ t.stk.ring ∧ (t.reg intStk).getLsbD 1 = true) ∧
    (k.frozen = false → k.side = [] → Answers (.freeze .s) s fun t =>
      t.stk.frozen = true ∧ t.stk.ring = k.ring ∧ t.keys = s.keys ∧ t.eng = s.eng) ∧
    (∀ i ∈ [Instr.thaw .s, .freezeTimeout], k.frozen = true → k.side = [] → k.hold = false → Answers i s fun t =>
      t.stk.frozen = false ∧ t.stk.hold = false ∧ t.stk.side = [] ∧ (t.reg intStk).getLsbD 2 = true ∧ t.keys = s.keys)

/-- R430 to R437: an accepted, well-formed frame behind another waits; one that has been verified, of a peer that is known and a new
REQ_SEQ, is served: MEAS_REQ, PROVE_REQ and CHECKKEY_REQ go to the secure world, which answers each with its record and its STATUS; a
record is exported in a DATA frame; an acknowledgement that stays away restarts the export. -/
def AuditFormsComplete : Prop :=
  ∀ (s : State) (f : RegFrame), s.powered = true → s.Canonical → s.audEnable = true →
    let k := s.stk
    let rest : State := { s with aud := { s.aud with served := s.aud.served.erase f } }
    let first (kind : Byte) : Prop := s.aud.served.find? (fun g => g.kind == kind) = some f
    let h : Word := ofBE (slice 0 4 f.body)
    let serves := s.worlds.restarting = false ∧ s.worlds.kstate = .running ∧ s.modes.mode = .service ∧
      s.tamper.gateClosed = false ∧ k.started = true ∧ (∀ p : Fin 8, k.ports[p] = []) ∧ k.own = [] ∧ s.waitingLog = []
    let answered (t : State) (kind : Byte) : Prop := t.aud = (statusSent rest f.reqSeq kind 0 0 k.nextSeq).aud
    let key (e : Handle) (kc : Bytes) (u : State) : Prop := s.checkUse .s h opProve = .ok e ∧ s.keyNow .s h true = (some kc, u)
    (∀ (port : Bool) (b : Bytes), 32 ≤ b.length → b.length ≤ 9018 → fcsOk b = true → slice 12 2 b = [0x88, 0xB6] →
      slice 0 6 b = be 6 s.audMac → WellFormedRequest (slice 14 (b.length - 18) b) → s.aud.rxq ≠ [] → s.aud.rxq.length < 8 →
      let p := slice 14 (b.length - 18) b
      exec (.bluexFrameReceive port b) s = .next { s with aud := { s.aud with
        rx := s.aud.rx + 1
        rxq := s.aud.rxq ++ [⟨octet 1 p, ofBE (slice 16 8 p), slice 24 (p.length - 120) p, slice (p.length - 96) 96 p, port⟩] } }) ∧
    (s.aud.checked = some true → s.aud.rxq = [f] → s.aud.peer = true → s.aud.reqSeq.toNat < f.reqSeq.toNat →
      (f.kind = 0x83 ∨ f.kind = 0x84 ∨ f.kind = 0x85) → exec .bluexVerifyDone s = .next { s with aud := { s.aud with
        rxq := [], checked := none, reqSeq := f.reqSeq, served := s.aud.served ++ [f] } }) ∧
    (first 0x84 → serves → (∀ r : LogRec, r.severity = 2 → ¬Waits k r) → Answers .measReq s fun t => answered t 0x84) ∧
    (first 0x83 → serves → k.hold = false → s.timeUntrusted = false → (∀ r : LogRec, r.severity = 2 → ¬Waits k r) →
      ∀ e kc u, key e kc u → Answers .proveReq s fun t => answered t 0x83 ∧
        Accepted u (proveResult f Verdict.ok (s.proveResponse h kc (slice 8 32 f.body))) t.stk) ∧
    (first 0x85 → serves → (∀ r : LogRec, r.severity = 2 → ¬Waits k r) → kemKeyOk 0x41 (slice 8 1184 f.body) = true →
      ∀ e kc u b w, key e kc u → u.deviceDraw .checkKey .nonce 32 = (some b, w) → Answers .checkkeyReq s fun t =>
        answered t 0x85) ∧
    (∀ e : LogEntry, k.started = true → s.eng.tap2.held = [] → s.tapBusy 2 = false → k.stored = [e] → k.side = [] →
      k.exp.toNat ≤ e.seq.toNat → e.record.chained = true → e.record.size ≤ 8192 → Answers .exportData s fun t =>
        t.stk.exp = e.seq + 1 ∧ t.aud = (blxSent s s.aud.active 2 (be 8 e.seq ++ beNat 2 1 ++ zeros 6 ++ e.bytes)).aud ∧
        t.eng = s.eng) ∧
    (k.exp ≠ k.ack + 1 → Answers .ackTimeout s fun t =>
      t.aud = { s.aud with retx := s.aud.retx + 1 } ∧ t.stk.exp = k.ack + 1 ∧ (t.reg intAud).getLsbD 3 = true) ∧
    (∀ port, k.nextSeq ≠ 0 → Answers (.helloTimer port false) s fun t =>
      t.aud.tx = s.aud.tx + 1 ∧ t.aud.fseq = s.aud.fseq + 1 ∧ t.stk = k)

/-! ### Statements of several parts -/

/-- Every command answers a next state in every state, and leaves the queue behind it, device time and the part's profile. Device time
stands between two cycles by the model's choice (assumption 1). -/
def Obligations.CommandsAnswerAndKeep : Prop :=
  EveryCommandAnswers ∧ CommandsKeepQueueAndTime

/-- R401, R440, Table 16.1: Dormant is inert but for VIN's arrival and Trivet's own commands, and a step leaves it only where VIN is
applied. -/
def Obligations.DormantIsLeftByVinAlone : Prop :=
  DormantIsInert ∧ DormantEndsOnlyByVin

/-- R251 and Tables 9.2, 9.3: the immediate and constant instructions, the branches and the jumps. -/
def Obligations.ImmediatesBranchesAndJumps : Prop :=
  ImmediateResults ∧ BranchesAndJumps

/-- The checks of an access to memory, and what the loads give. -/
def Obligations.LoadsAndTheirChecks : Prop :=
  MemoryAccessChecks ∧ LoadResults

/-- What the stores do, and FENCE makes a context's stores visible. -/
def Obligations.StoresAndFence : Prop :=
  StoreResults ∧ FenceMakesStoresVisible

/-- The handle register moves, the system instructions of Table 9.4, and the switch of a core between its contexts. -/
def Obligations.SystemInstructionsAndCores : Prop :=
  HandleRegisterMoves ∧ SystemInstructions ∧ CoreSwitches

/-- TLWAIT and EVWAIT. -/
def Obligations.TimeAndEventWaits : Prop :=
  TlwaitOutcomes ∧ EvwaitOutcomes

/-- JQPOST, JQWAIT and JQINV. -/
def Obligations.QueueInstructions : Prop :=
  QueueWaitsAndInvalidation ∧ JqpostHoldsEntries

/-- What wakes a waiting context, and the end of a link watch. -/
def Obligations.ContextsWake : Prop :=
  ContextWakes ∧ LinkWatchExpires

/-- SRR, SRW and their 64-bit forms: their effect and their checks. -/
def Obligations.SpecialRegisters : Prop :=
  SpecialRegisterAccess ∧ SpecialRegisterChecks

/-- VIN's arrival and loss, the canary check, and the resets of device and host link. -/
def Obligations.VinResetsAndCanary : Prop :=
  VinAppliedAndLost ∧ CanaryChecks ∧ DeviceAndHoldResets

/-- The time limits of Start-up, and the fatal conditions of Table 16.7. -/
def Obligations.TimeoutsAndFatalConditions : Prop :=
  StartUpTimeouts ∧ FatalConditions

/-- An E alarm erases; the erase ends in Erased. -/
def Obligations.EraseAlarmsAndTheirEnd : Prop :=
  EraseAlarms ∧ EraseEndsInErased

/-- H alarms hold the part in Recovery; L alarms are logged and counted. -/
def Obligations.HoldAndLowAlarms : Prop :=
  HoldAlarms ∧ LowAlarmsAndCounting

/-- Colander's spans, its health tests, and READY. -/
def Obligations.ColanderSpansAndReadiness : Prop :=
  ColanderSpans ∧ ColanderReadiness

/-- The key tree's commands that make nodes, and those that change or use them. -/
def Obligations.KeyTreeCommands : Prop :=
  KeyTreeAllocation ∧ KeyTreeRights

/-- Stamp use, rolls, seals, the market commands and the ports. -/
def Obligations.SealsMarketsAndPorts : Prop :=
  StampUsesRollsAndSeals ∧ MarketCommandsAndPorts

/-- The kernel's loader, watchdog and restart, the watermark and stage 2. -/
def Obligations.LoaderWatchdogAndMemory : Prop :=
  LoaderWatchdogAndRestart ∧ WatermarkAndStageTwo

/-- Strainer: its staging and commits, its decisions and captures. -/
def Obligations.StrainerStagingAndDecisions : Prop :=
  StrainerStagingAndCommits ∧ StrainerDecisions

/-- The audit link's frames: their reception and the regulator's requests. -/
def Obligations.AuditAndRegulatorFrames : Prop :=
  AuditFramesAreReceived ∧ RegulatorFramesAreServed

/-- The log accepts records, and an accepted seal reaches its slice. -/
def Obligations.RecordsAndTheirSeals : Prop :=
  RecordsAreAccepted ∧ AcceptedSealsReachTheirSlice

/-- Power commits, holds, and the groups' changes of state. -/
def Obligations.PowerOfGroups : Prop :=
  PowerCommitsAndHolds ∧ EngineGroupsChangeState

/-- Ceremony requests, windows, turns, the quorum and generation. -/
def Obligations.CeremoniesTurnsAndQuorum : Prop :=
  CeremonyRequestsAndWindows ∧ TurnsQuorumAndGeneration

/-- Gate calls and returns, and the control of contexts. -/
def Obligations.GatesAndContextControl : Prop :=
  GateCalls ∧ ContextControl

/-- The secure world's requests, and the export over the audit link. -/
def Obligations.SecureRequestsAndExport : Prop :=
  RequestsOfTheSecureWorld ∧ TheAuditLinkExports

/-- Where TLWAIT, EVWAIT and BRK, the drain's time limit, the ring forms, the stations' forms, Stockpot's drain, freeze and thaw, and
the audit link's forms have their own effect. -/
def Obligations.FormsHaveTheirOwnEffect : Prop :=
  WaitsAndBreakComplete ∧ RingFormsComplete ∧ StationFormsComplete ∧ LogFormsComplete ∧ AuditFormsComplete
end

