-- ==== Sys2Proof/Laws/State.lean ====
section
/-! SUPPORT. What each update of one part of State leaves: one lemma for each field and update. -/

namespace Sys2Proof.Machine

/-! ### State.after -/

@[simp] theorem State.after_pending (s t : State) : (s.after t).pending = s.pending := rfl
@[simp] theorem State.after_now (s t : State) : (s.after t).now = s.now := rfl
@[simp] theorem State.after_fuses (s t : State) : (s.after t).fuses = s.fuses.after t.fuses := rfl
@[simp] theorem State.after_regs (s t : State) : (s.after t).regs = t.regs := rfl
@[simp] theorem State.after_modes (s t : State) : (s.after t).modes = t.modes := rfl
@[simp] theorem State.after_trivet (s t : State) : (s.after t).trivet = t.trivet := rfl
@[simp] theorem State.after_tamper (s t : State) : (s.after t).tamper = t.tamper := rfl
@[simp] theorem State.after_power (s t : State) : (s.after t).power = t.power := rfl
@[simp] theorem State.after_pkg (s t : State) : (s.after t).pkg = t.pkg := rfl
@[simp] theorem State.after_keys (s t : State) : (s.after t).keys = t.keys := rfl
@[simp] theorem State.after_cld (s t : State) : (s.after t).cld = t.cld := rfl
@[simp] theorem State.after_eng (s t : State) : (s.after t).eng = t.eng := rfl
@[simp] theorem State.after_whisk (s t : State) : (s.after t).whisk = t.whisk := rfl
@[simp] theorem State.after_tl (s t : State) : (s.after t).tl = t.tl := rfl
@[simp] theorem State.after_cal (s t : State) : (s.after t).cal = t.cal := rfl
@[simp] theorem State.after_mkt (s t : State) : (s.after t).mkt = t.mkt := rfl
@[simp] theorem State.after_worlds (s t : State) : (s.after t).worlds = t.worlds := rfl
@[simp] theorem State.after_host (s t : State) : (s.after t).host = t.host := rfl
@[simp] theorem State.after_str (s t : State) : (s.after t).str = t.str := rfl
@[simp] theorem State.after_cus (s t : State) : (s.after t).cus = t.cus := rfl
@[simp] theorem State.after_stk (s t : State) : (s.after t).stk = t.stk := rfl
@[simp] theorem State.after_aud (s t : State) : (s.after t).aud = t.aud := rfl
@[simp] theorem State.after_free (s t : State) : (s.after t).free = t.free := rfl
@[simp] theorem State.after_waitingLog (s t : State) : (s.after t).waitingLog = t.waitingLog := rfl
@[simp] theorem State.after_completions (s t : State) : (s.after t).completions = t.completions := rfl

/-- Fuses that no command burned stay as they are. -/
@[simp] theorem Fuses.after_self (f : Fuses) : f.after f = f := by
  cases f; simp [Fuses.after]

/-- A command that does nothing leaves the state as it is. -/
@[simp] theorem State.after_self (s : State) : s.after s = s := by
  cases s; simp [State.after]

/-- A command's effect with power. -/
theorem State.whilePowered_on (s : State) (f : State → State) (h : s.powered = true) :
    s.whilePowered f = .next (s.after (f s)) := by
  simp [State.whilePowered, h]

/-- Nothing happens without power. -/
theorem State.whilePowered_off (s : State) (f : State → State) (h : s.powered = false) :
    s.whilePowered f = .next s := by
  simp [State.whilePowered, h]

/-! ### State.setReg -/

@[simp] theorem State.setReg_modes (s : State) (a : Nat) (v : Word) : (s.setReg a v).modes = s.modes := rfl
@[simp] theorem State.setReg_fuses (s : State) (a : Nat) (v : Word) : (s.setReg a v).fuses = s.fuses := rfl
@[simp] theorem State.setReg_trivet (s : State) (a : Nat) (v : Word) : (s.setReg a v).trivet = s.trivet := rfl
@[simp] theorem State.setReg_tamper (s : State) (a : Nat) (v : Word) : (s.setReg a v).tamper = s.tamper := rfl
@[simp] theorem State.setReg_power (s : State) (a : Nat) (v : Word) : (s.setReg a v).power = s.power := rfl
@[simp] theorem State.setReg_pkg (s : State) (a : Nat) (v : Word) : (s.setReg a v).pkg = s.pkg := rfl
@[simp] theorem State.setReg_keys (s : State) (a : Nat) (v : Word) : (s.setReg a v).keys = s.keys := rfl
@[simp] theorem State.setReg_cld (s : State) (a : Nat) (v : Word) : (s.setReg a v).cld = s.cld := rfl
@[simp] theorem State.setReg_eng (s : State) (a : Nat) (v : Word) : (s.setReg a v).eng = s.eng := rfl
@[simp] theorem State.setReg_whisk (s : State) (a : Nat) (v : Word) : (s.setReg a v).whisk = s.whisk := rfl
@[simp] theorem State.setReg_tl (s : State) (a : Nat) (v : Word) : (s.setReg a v).tl = s.tl := rfl
@[simp] theorem State.setReg_cal (s : State) (a : Nat) (v : Word) : (s.setReg a v).cal = s.cal := rfl
@[simp] theorem State.setReg_mkt (s : State) (a : Nat) (v : Word) : (s.setReg a v).mkt = s.mkt := rfl
@[simp] theorem State.setReg_worlds (s : State) (a : Nat) (v : Word) : (s.setReg a v).worlds = s.worlds := rfl
@[simp] theorem State.setReg_host (s : State) (a : Nat) (v : Word) : (s.setReg a v).host = s.host := rfl
@[simp] theorem State.setReg_str (s : State) (a : Nat) (v : Word) : (s.setReg a v).str = s.str := rfl
@[simp] theorem State.setReg_cus (s : State) (a : Nat) (v : Word) : (s.setReg a v).cus = s.cus := rfl
@[simp] theorem State.setReg_stk (s : State) (a : Nat) (v : Word) : (s.setReg a v).stk = s.stk := rfl
@[simp] theorem State.setReg_aud (s : State) (a : Nat) (v : Word) : (s.setReg a v).aud = s.aud := rfl
@[simp] theorem State.setReg_now (s : State) (a : Nat) (v : Word) : (s.setReg a v).now = s.now := rfl
@[simp] theorem State.setReg_free (s : State) (a : Nat) (v : Word) : (s.setReg a v).free = s.free := rfl
@[simp] theorem State.setReg_waitingLog (s : State) (a : Nat) (v : Word) : (s.setReg a v).waitingLog = s.waitingLog := rfl
@[simp] theorem State.setReg_completions (s : State) (a : Nat) (v : Word) : (s.setReg a v).completions = s.completions := rfl
@[simp] theorem State.setReg_pending (s : State) (a : Nat) (v : Word) : (s.setReg a v).pending = s.pending := rfl

/-! ### State.setReg64 -/

@[simp] theorem State.setReg64_modes (s : State) (a : Nat) (v : DWord) : (s.setReg64 a v).modes = s.modes := rfl
@[simp] theorem State.setReg64_fuses (s : State) (a : Nat) (v : DWord) : (s.setReg64 a v).fuses = s.fuses := rfl
@[simp] theorem State.setReg64_trivet (s : State) (a : Nat) (v : DWord) : (s.setReg64 a v).trivet = s.trivet := rfl
@[simp] theorem State.setReg64_tamper (s : State) (a : Nat) (v : DWord) : (s.setReg64 a v).tamper = s.tamper := rfl
@[simp] theorem State.setReg64_power (s : State) (a : Nat) (v : DWord) : (s.setReg64 a v).power = s.power := rfl
@[simp] theorem State.setReg64_pkg (s : State) (a : Nat) (v : DWord) : (s.setReg64 a v).pkg = s.pkg := rfl
@[simp] theorem State.setReg64_keys (s : State) (a : Nat) (v : DWord) : (s.setReg64 a v).keys = s.keys := rfl
@[simp] theorem State.setReg64_cld (s : State) (a : Nat) (v : DWord) : (s.setReg64 a v).cld = s.cld := rfl
@[simp] theorem State.setReg64_eng (s : State) (a : Nat) (v : DWord) : (s.setReg64 a v).eng = s.eng := rfl
@[simp] theorem State.setReg64_whisk (s : State) (a : Nat) (v : DWord) : (s.setReg64 a v).whisk = s.whisk := rfl
@[simp] theorem State.setReg64_tl (s : State) (a : Nat) (v : DWord) : (s.setReg64 a v).tl = s.tl := rfl
@[simp] theorem State.setReg64_cal (s : State) (a : Nat) (v : DWord) : (s.setReg64 a v).cal = s.cal := rfl
@[simp] theorem State.setReg64_mkt (s : State) (a : Nat) (v : DWord) : (s.setReg64 a v).mkt = s.mkt := rfl
@[simp] theorem State.setReg64_worlds (s : State) (a : Nat) (v : DWord) : (s.setReg64 a v).worlds = s.worlds := rfl
@[simp] theorem State.setReg64_host (s : State) (a : Nat) (v : DWord) : (s.setReg64 a v).host = s.host := rfl
@[simp] theorem State.setReg64_str (s : State) (a : Nat) (v : DWord) : (s.setReg64 a v).str = s.str := rfl
@[simp] theorem State.setReg64_cus (s : State) (a : Nat) (v : DWord) : (s.setReg64 a v).cus = s.cus := rfl
@[simp] theorem State.setReg64_stk (s : State) (a : Nat) (v : DWord) : (s.setReg64 a v).stk = s.stk := rfl
@[simp] theorem State.setReg64_aud (s : State) (a : Nat) (v : DWord) : (s.setReg64 a v).aud = s.aud := rfl
@[simp] theorem State.setReg64_now (s : State) (a : Nat) (v : DWord) : (s.setReg64 a v).now = s.now := rfl
@[simp] theorem State.setReg64_free (s : State) (a : Nat) (v : DWord) : (s.setReg64 a v).free = s.free := rfl
@[simp] theorem State.setReg64_waitingLog (s : State) (a : Nat) (v : DWord) : (s.setReg64 a v).waitingLog = s.waitingLog := rfl
@[simp] theorem State.setReg64_completions (s : State) (a : Nat) (v : DWord) : (s.setReg64 a v).completions = s.completions := rfl
@[simp] theorem State.setReg64_pending (s : State) (a : Nat) (v : DWord) : (s.setReg64 a v).pending = s.pending := rfl

/-! ### State.setCtx -/

@[simp] theorem State.setCtx_regs (s : State) (n : Nat) (c : Context) : (s.setCtx n c).regs = s.regs := rfl
@[simp] theorem State.setCtx_modes (s : State) (n : Nat) (c : Context) : (s.setCtx n c).modes = s.modes := rfl
@[simp] theorem State.setCtx_fuses (s : State) (n : Nat) (c : Context) : (s.setCtx n c).fuses = s.fuses := rfl
@[simp] theorem State.setCtx_trivet (s : State) (n : Nat) (c : Context) : (s.setCtx n c).trivet = s.trivet := rfl
@[simp] theorem State.setCtx_tamper (s : State) (n : Nat) (c : Context) : (s.setCtx n c).tamper = s.tamper := rfl
@[simp] theorem State.setCtx_power (s : State) (n : Nat) (c : Context) : (s.setCtx n c).power = s.power := rfl
@[simp] theorem State.setCtx_pkg (s : State) (n : Nat) (c : Context) : (s.setCtx n c).pkg = s.pkg := rfl
@[simp] theorem State.setCtx_keys (s : State) (n : Nat) (c : Context) : (s.setCtx n c).keys = s.keys := rfl
@[simp] theorem State.setCtx_cld (s : State) (n : Nat) (c : Context) : (s.setCtx n c).cld = s.cld := rfl
@[simp] theorem State.setCtx_eng (s : State) (n : Nat) (c : Context) : (s.setCtx n c).eng = s.eng := rfl
@[simp] theorem State.setCtx_whisk (s : State) (n : Nat) (c : Context) : (s.setCtx n c).whisk = s.whisk := rfl
@[simp] theorem State.setCtx_tl (s : State) (n : Nat) (c : Context) : (s.setCtx n c).tl = s.tl := rfl
@[simp] theorem State.setCtx_cal (s : State) (n : Nat) (c : Context) : (s.setCtx n c).cal = s.cal := rfl
@[simp] theorem State.setCtx_mkt (s : State) (n : Nat) (c : Context) : (s.setCtx n c).mkt = s.mkt := rfl
@[simp] theorem State.setCtx_host (s : State) (n : Nat) (c : Context) : (s.setCtx n c).host = s.host := rfl
@[simp] theorem State.setCtx_str (s : State) (n : Nat) (c : Context) : (s.setCtx n c).str = s.str := rfl
@[simp] theorem State.setCtx_cus (s : State) (n : Nat) (c : Context) : (s.setCtx n c).cus = s.cus := rfl
@[simp] theorem State.setCtx_stk (s : State) (n : Nat) (c : Context) : (s.setCtx n c).stk = s.stk := rfl
@[simp] theorem State.setCtx_aud (s : State) (n : Nat) (c : Context) : (s.setCtx n c).aud = s.aud := rfl
@[simp] theorem State.setCtx_now (s : State) (n : Nat) (c : Context) : (s.setCtx n c).now = s.now := rfl
@[simp] theorem State.setCtx_free (s : State) (n : Nat) (c : Context) : (s.setCtx n c).free = s.free := rfl
@[simp] theorem State.setCtx_waitingLog (s : State) (n : Nat) (c : Context) : (s.setCtx n c).waitingLog = s.waitingLog := rfl
@[simp] theorem State.setCtx_completions (s : State) (n : Nat) (c : Context) : (s.setCtx n c).completions = s.completions := rfl
@[simp] theorem State.setCtx_pending (s : State) (n : Nat) (c : Context) : (s.setCtx n c).pending = s.pending := rfl

/-! ### State.setSlc -/

@[simp] theorem State.setSlc_regs (s : State) (n : Nat) (x : Slice) : (s.setSlc n x).regs = s.regs := rfl
@[simp] theorem State.setSlc_modes (s : State) (n : Nat) (x : Slice) : (s.setSlc n x).modes = s.modes := rfl
@[simp] theorem State.setSlc_fuses (s : State) (n : Nat) (x : Slice) : (s.setSlc n x).fuses = s.fuses := rfl
@[simp] theorem State.setSlc_trivet (s : State) (n : Nat) (x : Slice) : (s.setSlc n x).trivet = s.trivet := rfl
@[simp] theorem State.setSlc_tamper (s : State) (n : Nat) (x : Slice) : (s.setSlc n x).tamper = s.tamper := rfl
@[simp] theorem State.setSlc_power (s : State) (n : Nat) (x : Slice) : (s.setSlc n x).power = s.power := rfl
@[simp] theorem State.setSlc_pkg (s : State) (n : Nat) (x : Slice) : (s.setSlc n x).pkg = s.pkg := rfl
@[simp] theorem State.setSlc_keys (s : State) (n : Nat) (x : Slice) : (s.setSlc n x).keys = s.keys := rfl
@[simp] theorem State.setSlc_cld (s : State) (n : Nat) (x : Slice) : (s.setSlc n x).cld = s.cld := rfl
@[simp] theorem State.setSlc_eng (s : State) (n : Nat) (x : Slice) : (s.setSlc n x).eng = s.eng := rfl
@[simp] theorem State.setSlc_whisk (s : State) (n : Nat) (x : Slice) : (s.setSlc n x).whisk = s.whisk := rfl
@[simp] theorem State.setSlc_tl (s : State) (n : Nat) (x : Slice) : (s.setSlc n x).tl = s.tl := rfl
@[simp] theorem State.setSlc_cal (s : State) (n : Nat) (x : Slice) : (s.setSlc n x).cal = s.cal := rfl
@[simp] theorem State.setSlc_mkt (s : State) (n : Nat) (x : Slice) : (s.setSlc n x).mkt = s.mkt := rfl
@[simp] theorem State.setSlc_worlds (s : State) (n : Nat) (x : Slice) : (s.setSlc n x).worlds = s.worlds := rfl
@[simp] theorem State.setSlc_str (s : State) (n : Nat) (x : Slice) : (s.setSlc n x).str = s.str := rfl
@[simp] theorem State.setSlc_cus (s : State) (n : Nat) (x : Slice) : (s.setSlc n x).cus = s.cus := rfl
@[simp] theorem State.setSlc_stk (s : State) (n : Nat) (x : Slice) : (s.setSlc n x).stk = s.stk := rfl
@[simp] theorem State.setSlc_aud (s : State) (n : Nat) (x : Slice) : (s.setSlc n x).aud = s.aud := rfl
@[simp] theorem State.setSlc_now (s : State) (n : Nat) (x : Slice) : (s.setSlc n x).now = s.now := rfl
@[simp] theorem State.setSlc_free (s : State) (n : Nat) (x : Slice) : (s.setSlc n x).free = s.free := rfl
@[simp] theorem State.setSlc_waitingLog (s : State) (n : Nat) (x : Slice) : (s.setSlc n x).waitingLog = s.waitingLog := rfl
@[simp] theorem State.setSlc_completions (s : State) (n : Nat) (x : Slice) : (s.setSlc n x).completions = s.completions := rfl
@[simp] theorem State.setSlc_pending (s : State) (n : Nat) (x : Slice) : (s.setSlc n x).pending = s.pending := rfl

/-! ### State.setRing -/

@[simp] theorem State.setRing_regs (s : State) (n r : Nat) (g : Ring) : (s.setRing n r g).regs = s.regs := rfl
@[simp] theorem State.setRing_modes (s : State) (n r : Nat) (g : Ring) : (s.setRing n r g).modes = s.modes := rfl
@[simp] theorem State.setRing_fuses (s : State) (n r : Nat) (g : Ring) : (s.setRing n r g).fuses = s.fuses := rfl
@[simp] theorem State.setRing_trivet (s : State) (n r : Nat) (g : Ring) : (s.setRing n r g).trivet = s.trivet := rfl
@[simp] theorem State.setRing_tamper (s : State) (n r : Nat) (g : Ring) : (s.setRing n r g).tamper = s.tamper := rfl
@[simp] theorem State.setRing_power (s : State) (n r : Nat) (g : Ring) : (s.setRing n r g).power = s.power := rfl
@[simp] theorem State.setRing_pkg (s : State) (n r : Nat) (g : Ring) : (s.setRing n r g).pkg = s.pkg := rfl
@[simp] theorem State.setRing_keys (s : State) (n r : Nat) (g : Ring) : (s.setRing n r g).keys = s.keys := rfl
@[simp] theorem State.setRing_cld (s : State) (n r : Nat) (g : Ring) : (s.setRing n r g).cld = s.cld := rfl
@[simp] theorem State.setRing_eng (s : State) (n r : Nat) (g : Ring) : (s.setRing n r g).eng = s.eng := rfl
@[simp] theorem State.setRing_whisk (s : State) (n r : Nat) (g : Ring) : (s.setRing n r g).whisk = s.whisk := rfl
@[simp] theorem State.setRing_tl (s : State) (n r : Nat) (g : Ring) : (s.setRing n r g).tl = s.tl := rfl
@[simp] theorem State.setRing_cal (s : State) (n r : Nat) (g : Ring) : (s.setRing n r g).cal = s.cal := rfl
@[simp] theorem State.setRing_mkt (s : State) (n r : Nat) (g : Ring) : (s.setRing n r g).mkt = s.mkt := rfl
@[simp] theorem State.setRing_worlds (s : State) (n r : Nat) (g : Ring) : (s.setRing n r g).worlds = s.worlds := rfl
@[simp] theorem State.setRing_str (s : State) (n r : Nat) (g : Ring) : (s.setRing n r g).str = s.str := rfl
@[simp] theorem State.setRing_cus (s : State) (n r : Nat) (g : Ring) : (s.setRing n r g).cus = s.cus := rfl
@[simp] theorem State.setRing_stk (s : State) (n r : Nat) (g : Ring) : (s.setRing n r g).stk = s.stk := rfl
@[simp] theorem State.setRing_aud (s : State) (n r : Nat) (g : Ring) : (s.setRing n r g).aud = s.aud := rfl
@[simp] theorem State.setRing_now (s : State) (n r : Nat) (g : Ring) : (s.setRing n r g).now = s.now := rfl
@[simp] theorem State.setRing_free (s : State) (n r : Nat) (g : Ring) : (s.setRing n r g).free = s.free := rfl
@[simp] theorem State.setRing_waitingLog (s : State) (n r : Nat) (g : Ring) : (s.setRing n r g).waitingLog = s.waitingLog := rfl
@[simp] theorem State.setRing_completions (s : State) (n r : Nat) (g : Ring) : (s.setRing n r g).completions = s.completions := rfl
@[simp] theorem State.setRing_pending (s : State) (n r : Nat) (g : Ring) : (s.setRing n r g).pending = s.pending := rfl

/-! ### State.setEngine -/

@[simp] theorem State.setEngine_regs (s : State) (c : EngClass) (n : Nat) (e : Engine) : (s.setEngine c n e).regs = s.regs := rfl
@[simp] theorem State.setEngine_modes (s : State) (c : EngClass) (n : Nat) (e : Engine) : (s.setEngine c n e).modes = s.modes := rfl
@[simp] theorem State.setEngine_fuses (s : State) (c : EngClass) (n : Nat) (e : Engine) : (s.setEngine c n e).fuses = s.fuses := rfl
@[simp] theorem State.setEngine_trivet (s : State) (c : EngClass) (n : Nat) (e : Engine) : (s.setEngine c n e).trivet = s.trivet := rfl
@[simp] theorem State.setEngine_tamper (s : State) (c : EngClass) (n : Nat) (e : Engine) : (s.setEngine c n e).tamper = s.tamper := rfl
@[simp] theorem State.setEngine_power (s : State) (c : EngClass) (n : Nat) (e : Engine) : (s.setEngine c n e).power = s.power := rfl
@[simp] theorem State.setEngine_pkg (s : State) (c : EngClass) (n : Nat) (e : Engine) : (s.setEngine c n e).pkg = s.pkg := rfl
@[simp] theorem State.setEngine_keys (s : State) (c : EngClass) (n : Nat) (e : Engine) : (s.setEngine c n e).keys = s.keys := rfl
@[simp] theorem State.setEngine_cld (s : State) (c : EngClass) (n : Nat) (e : Engine) : (s.setEngine c n e).cld = s.cld := rfl
@[simp] theorem State.setEngine_whisk (s : State) (c : EngClass) (n : Nat) (e : Engine) : (s.setEngine c n e).whisk = s.whisk := rfl
@[simp] theorem State.setEngine_tl (s : State) (c : EngClass) (n : Nat) (e : Engine) : (s.setEngine c n e).tl = s.tl := rfl
@[simp] theorem State.setEngine_cal (s : State) (c : EngClass) (n : Nat) (e : Engine) : (s.setEngine c n e).cal = s.cal := rfl
@[simp] theorem State.setEngine_mkt (s : State) (c : EngClass) (n : Nat) (e : Engine) : (s.setEngine c n e).mkt = s.mkt := rfl
@[simp] theorem State.setEngine_worlds (s : State) (c : EngClass) (n : Nat) (e : Engine) : (s.setEngine c n e).worlds = s.worlds := rfl
@[simp] theorem State.setEngine_host (s : State) (c : EngClass) (n : Nat) (e : Engine) : (s.setEngine c n e).host = s.host := rfl
@[simp] theorem State.setEngine_str (s : State) (c : EngClass) (n : Nat) (e : Engine) : (s.setEngine c n e).str = s.str := rfl
@[simp] theorem State.setEngine_cus (s : State) (c : EngClass) (n : Nat) (e : Engine) : (s.setEngine c n e).cus = s.cus := rfl
@[simp] theorem State.setEngine_stk (s : State) (c : EngClass) (n : Nat) (e : Engine) : (s.setEngine c n e).stk = s.stk := rfl
@[simp] theorem State.setEngine_aud (s : State) (c : EngClass) (n : Nat) (e : Engine) : (s.setEngine c n e).aud = s.aud := rfl
@[simp] theorem State.setEngine_now (s : State) (c : EngClass) (n : Nat) (e : Engine) : (s.setEngine c n e).now = s.now := rfl
@[simp] theorem State.setEngine_free (s : State) (c : EngClass) (n : Nat) (e : Engine) : (s.setEngine c n e).free = s.free := rfl
@[simp] theorem State.setEngine_waitingLog (s : State) (c : EngClass) (n : Nat) (e : Engine) : (s.setEngine c n e).waitingLog = s.waitingLog := rfl
@[simp] theorem State.setEngine_completions (s : State) (c : EngClass) (n : Nat) (e : Engine) : (s.setEngine c n e).completions = s.completions := rfl
@[simp] theorem State.setEngine_pending (s : State) (c : EngClass) (n : Nat) (e : Engine) : (s.setEngine c n e).pending = s.pending := rfl

/-! ### State.setJob -/

@[simp] theorem State.setJob_regs (s : State) (j : Job) : (s.setJob j).regs = s.regs := rfl
@[simp] theorem State.setJob_modes (s : State) (j : Job) : (s.setJob j).modes = s.modes := rfl
@[simp] theorem State.setJob_fuses (s : State) (j : Job) : (s.setJob j).fuses = s.fuses := rfl
@[simp] theorem State.setJob_trivet (s : State) (j : Job) : (s.setJob j).trivet = s.trivet := rfl
@[simp] theorem State.setJob_tamper (s : State) (j : Job) : (s.setJob j).tamper = s.tamper := rfl
@[simp] theorem State.setJob_power (s : State) (j : Job) : (s.setJob j).power = s.power := rfl
@[simp] theorem State.setJob_pkg (s : State) (j : Job) : (s.setJob j).pkg = s.pkg := rfl
@[simp] theorem State.setJob_keys (s : State) (j : Job) : (s.setJob j).keys = s.keys := rfl
@[simp] theorem State.setJob_cld (s : State) (j : Job) : (s.setJob j).cld = s.cld := rfl
@[simp] theorem State.setJob_whisk (s : State) (j : Job) : (s.setJob j).whisk = s.whisk := rfl
@[simp] theorem State.setJob_tl (s : State) (j : Job) : (s.setJob j).tl = s.tl := rfl
@[simp] theorem State.setJob_cal (s : State) (j : Job) : (s.setJob j).cal = s.cal := rfl
@[simp] theorem State.setJob_mkt (s : State) (j : Job) : (s.setJob j).mkt = s.mkt := rfl
@[simp] theorem State.setJob_worlds (s : State) (j : Job) : (s.setJob j).worlds = s.worlds := rfl
@[simp] theorem State.setJob_host (s : State) (j : Job) : (s.setJob j).host = s.host := rfl
@[simp] theorem State.setJob_str (s : State) (j : Job) : (s.setJob j).str = s.str := rfl
@[simp] theorem State.setJob_cus (s : State) (j : Job) : (s.setJob j).cus = s.cus := rfl
@[simp] theorem State.setJob_stk (s : State) (j : Job) : (s.setJob j).stk = s.stk := rfl
@[simp] theorem State.setJob_aud (s : State) (j : Job) : (s.setJob j).aud = s.aud := rfl
@[simp] theorem State.setJob_now (s : State) (j : Job) : (s.setJob j).now = s.now := rfl
@[simp] theorem State.setJob_free (s : State) (j : Job) : (s.setJob j).free = s.free := rfl
@[simp] theorem State.setJob_waitingLog (s : State) (j : Job) : (s.setJob j).waitingLog = s.waitingLog := rfl
@[simp] theorem State.setJob_completions (s : State) (j : Job) : (s.setJob j).completions = s.completions := rfl
@[simp] theorem State.setJob_pending (s : State) (j : Job) : (s.setJob j).pending = s.pending := rfl

/-! ### State.setSlot -/

@[simp] theorem State.setSlot_regs (s : State) (k : Nat) (x : Slot) : (s.setSlot k x).regs = s.regs := rfl
@[simp] theorem State.setSlot_modes (s : State) (k : Nat) (x : Slot) : (s.setSlot k x).modes = s.modes := rfl
@[simp] theorem State.setSlot_fuses (s : State) (k : Nat) (x : Slot) : (s.setSlot k x).fuses = s.fuses := rfl
@[simp] theorem State.setSlot_trivet (s : State) (k : Nat) (x : Slot) : (s.setSlot k x).trivet = s.trivet := rfl
@[simp] theorem State.setSlot_tamper (s : State) (k : Nat) (x : Slot) : (s.setSlot k x).tamper = s.tamper := rfl
@[simp] theorem State.setSlot_power (s : State) (k : Nat) (x : Slot) : (s.setSlot k x).power = s.power := rfl
@[simp] theorem State.setSlot_pkg (s : State) (k : Nat) (x : Slot) : (s.setSlot k x).pkg = s.pkg := rfl
@[simp] theorem State.setSlot_keys (s : State) (k : Nat) (x : Slot) : (s.setSlot k x).keys = s.keys := rfl
@[simp] theorem State.setSlot_cld (s : State) (k : Nat) (x : Slot) : (s.setSlot k x).cld = s.cld := rfl
@[simp] theorem State.setSlot_whisk (s : State) (k : Nat) (x : Slot) : (s.setSlot k x).whisk = s.whisk := rfl
@[simp] theorem State.setSlot_tl (s : State) (k : Nat) (x : Slot) : (s.setSlot k x).tl = s.tl := rfl
@[simp] theorem State.setSlot_cal (s : State) (k : Nat) (x : Slot) : (s.setSlot k x).cal = s.cal := rfl
@[simp] theorem State.setSlot_mkt (s : State) (k : Nat) (x : Slot) : (s.setSlot k x).mkt = s.mkt := rfl
@[simp] theorem State.setSlot_worlds (s : State) (k : Nat) (x : Slot) : (s.setSlot k x).worlds = s.worlds := rfl
@[simp] theorem State.setSlot_host (s : State) (k : Nat) (x : Slot) : (s.setSlot k x).host = s.host := rfl
@[simp] theorem State.setSlot_str (s : State) (k : Nat) (x : Slot) : (s.setSlot k x).str = s.str := rfl
@[simp] theorem State.setSlot_cus (s : State) (k : Nat) (x : Slot) : (s.setSlot k x).cus = s.cus := rfl
@[simp] theorem State.setSlot_stk (s : State) (k : Nat) (x : Slot) : (s.setSlot k x).stk = s.stk := rfl
@[simp] theorem State.setSlot_aud (s : State) (k : Nat) (x : Slot) : (s.setSlot k x).aud = s.aud := rfl
@[simp] theorem State.setSlot_now (s : State) (k : Nat) (x : Slot) : (s.setSlot k x).now = s.now := rfl
@[simp] theorem State.setSlot_free (s : State) (k : Nat) (x : Slot) : (s.setSlot k x).free = s.free := rfl
@[simp] theorem State.setSlot_waitingLog (s : State) (k : Nat) (x : Slot) : (s.setSlot k x).waitingLog = s.waitingLog := rfl
@[simp] theorem State.setSlot_completions (s : State) (k : Nat) (x : Slot) : (s.setSlot k x).completions = s.completions := rfl
@[simp] theorem State.setSlot_pending (s : State) (k : Nat) (x : Slot) : (s.setSlot k x).pending = s.pending := rfl

/-! ### State.setEntry -/

@[simp] theorem State.setEntry_regs (s : State) (i : Nat) (e : Handle) : (s.setEntry i e).regs = s.regs := rfl
@[simp] theorem State.setEntry_modes (s : State) (i : Nat) (e : Handle) : (s.setEntry i e).modes = s.modes := rfl
@[simp] theorem State.setEntry_fuses (s : State) (i : Nat) (e : Handle) : (s.setEntry i e).fuses = s.fuses := rfl
@[simp] theorem State.setEntry_trivet (s : State) (i : Nat) (e : Handle) : (s.setEntry i e).trivet = s.trivet := rfl
@[simp] theorem State.setEntry_tamper (s : State) (i : Nat) (e : Handle) : (s.setEntry i e).tamper = s.tamper := rfl
@[simp] theorem State.setEntry_power (s : State) (i : Nat) (e : Handle) : (s.setEntry i e).power = s.power := rfl
@[simp] theorem State.setEntry_pkg (s : State) (i : Nat) (e : Handle) : (s.setEntry i e).pkg = s.pkg := rfl
@[simp] theorem State.setEntry_cld (s : State) (i : Nat) (e : Handle) : (s.setEntry i e).cld = s.cld := rfl
@[simp] theorem State.setEntry_eng (s : State) (i : Nat) (e : Handle) : (s.setEntry i e).eng = s.eng := rfl
@[simp] theorem State.setEntry_whisk (s : State) (i : Nat) (e : Handle) : (s.setEntry i e).whisk = s.whisk := rfl
@[simp] theorem State.setEntry_tl (s : State) (i : Nat) (e : Handle) : (s.setEntry i e).tl = s.tl := rfl
@[simp] theorem State.setEntry_cal (s : State) (i : Nat) (e : Handle) : (s.setEntry i e).cal = s.cal := rfl
@[simp] theorem State.setEntry_mkt (s : State) (i : Nat) (e : Handle) : (s.setEntry i e).mkt = s.mkt := rfl
@[simp] theorem State.setEntry_worlds (s : State) (i : Nat) (e : Handle) : (s.setEntry i e).worlds = s.worlds := rfl
@[simp] theorem State.setEntry_host (s : State) (i : Nat) (e : Handle) : (s.setEntry i e).host = s.host := rfl
@[simp] theorem State.setEntry_str (s : State) (i : Nat) (e : Handle) : (s.setEntry i e).str = s.str := rfl
@[simp] theorem State.setEntry_cus (s : State) (i : Nat) (e : Handle) : (s.setEntry i e).cus = s.cus := rfl
@[simp] theorem State.setEntry_stk (s : State) (i : Nat) (e : Handle) : (s.setEntry i e).stk = s.stk := rfl
@[simp] theorem State.setEntry_aud (s : State) (i : Nat) (e : Handle) : (s.setEntry i e).aud = s.aud := rfl
@[simp] theorem State.setEntry_now (s : State) (i : Nat) (e : Handle) : (s.setEntry i e).now = s.now := rfl
@[simp] theorem State.setEntry_free (s : State) (i : Nat) (e : Handle) : (s.setEntry i e).free = s.free := rfl
@[simp] theorem State.setEntry_waitingLog (s : State) (i : Nat) (e : Handle) : (s.setEntry i e).waitingLog = s.waitingLog := rfl
@[simp] theorem State.setEntry_completions (s : State) (i : Nat) (e : Handle) : (s.setEntry i e).completions = s.completions := rfl
@[simp] theorem State.setEntry_pending (s : State) (i : Nat) (e : Handle) : (s.setEntry i e).pending = s.pending := rfl

/-! ### State.setPartition -/

@[simp] theorem State.setPartition_regs (s : State) (n : Nat) (p : Partition) : (s.setPartition n p).regs = s.regs := rfl
@[simp] theorem State.setPartition_modes (s : State) (n : Nat) (p : Partition) : (s.setPartition n p).modes = s.modes := rfl
@[simp] theorem State.setPartition_fuses (s : State) (n : Nat) (p : Partition) : (s.setPartition n p).fuses = s.fuses := rfl
@[simp] theorem State.setPartition_trivet (s : State) (n : Nat) (p : Partition) : (s.setPartition n p).trivet = s.trivet := rfl
@[simp] theorem State.setPartition_tamper (s : State) (n : Nat) (p : Partition) : (s.setPartition n p).tamper = s.tamper := rfl
@[simp] theorem State.setPartition_power (s : State) (n : Nat) (p : Partition) : (s.setPartition n p).power = s.power := rfl
@[simp] theorem State.setPartition_pkg (s : State) (n : Nat) (p : Partition) : (s.setPartition n p).pkg = s.pkg := rfl
@[simp] theorem State.setPartition_cld (s : State) (n : Nat) (p : Partition) : (s.setPartition n p).cld = s.cld := rfl
@[simp] theorem State.setPartition_eng (s : State) (n : Nat) (p : Partition) : (s.setPartition n p).eng = s.eng := rfl
@[simp] theorem State.setPartition_whisk (s : State) (n : Nat) (p : Partition) : (s.setPartition n p).whisk = s.whisk := rfl
@[simp] theorem State.setPartition_tl (s : State) (n : Nat) (p : Partition) : (s.setPartition n p).tl = s.tl := rfl
@[simp] theorem State.setPartition_cal (s : State) (n : Nat) (p : Partition) : (s.setPartition n p).cal = s.cal := rfl
@[simp] theorem State.setPartition_mkt (s : State) (n : Nat) (p : Partition) : (s.setPartition n p).mkt = s.mkt := rfl
@[simp] theorem State.setPartition_worlds (s : State) (n : Nat) (p : Partition) : (s.setPartition n p).worlds = s.worlds := rfl
@[simp] theorem State.setPartition_host (s : State) (n : Nat) (p : Partition) : (s.setPartition n p).host = s.host := rfl
@[simp] theorem State.setPartition_str (s : State) (n : Nat) (p : Partition) : (s.setPartition n p).str = s.str := rfl
@[simp] theorem State.setPartition_cus (s : State) (n : Nat) (p : Partition) : (s.setPartition n p).cus = s.cus := rfl
@[simp] theorem State.setPartition_stk (s : State) (n : Nat) (p : Partition) : (s.setPartition n p).stk = s.stk := rfl
@[simp] theorem State.setPartition_aud (s : State) (n : Nat) (p : Partition) : (s.setPartition n p).aud = s.aud := rfl
@[simp] theorem State.setPartition_now (s : State) (n : Nat) (p : Partition) : (s.setPartition n p).now = s.now := rfl
@[simp] theorem State.setPartition_free (s : State) (n : Nat) (p : Partition) : (s.setPartition n p).free = s.free := rfl
@[simp] theorem State.setPartition_waitingLog (s : State) (n : Nat) (p : Partition) : (s.setPartition n p).waitingLog = s.waitingLog := rfl
@[simp] theorem State.setPartition_completions (s : State) (n : Nat) (p : Partition) : (s.setPartition n p).completions = s.completions := rfl
@[simp] theorem State.setPartition_pending (s : State) (n : Nat) (p : Partition) : (s.setPartition n p).pending = s.pending := rfl

/-! ### State.setMarket -/

@[simp] theorem State.setMarket_regs (s : State) (i : Nat) (m : Market) : (s.setMarket i m).regs = s.regs := rfl
@[simp] theorem State.setMarket_modes (s : State) (i : Nat) (m : Market) : (s.setMarket i m).modes = s.modes := rfl
@[simp] theorem State.setMarket_fuses (s : State) (i : Nat) (m : Market) : (s.setMarket i m).fuses = s.fuses := rfl
@[simp] theorem State.setMarket_trivet (s : State) (i : Nat) (m : Market) : (s.setMarket i m).trivet = s.trivet := rfl
@[simp] theorem State.setMarket_tamper (s : State) (i : Nat) (m : Market) : (s.setMarket i m).tamper = s.tamper := rfl
@[simp] theorem State.setMarket_power (s : State) (i : Nat) (m : Market) : (s.setMarket i m).power = s.power := rfl
@[simp] theorem State.setMarket_pkg (s : State) (i : Nat) (m : Market) : (s.setMarket i m).pkg = s.pkg := rfl
@[simp] theorem State.setMarket_keys (s : State) (i : Nat) (m : Market) : (s.setMarket i m).keys = s.keys := rfl
@[simp] theorem State.setMarket_cld (s : State) (i : Nat) (m : Market) : (s.setMarket i m).cld = s.cld := rfl
@[simp] theorem State.setMarket_eng (s : State) (i : Nat) (m : Market) : (s.setMarket i m).eng = s.eng := rfl
@[simp] theorem State.setMarket_whisk (s : State) (i : Nat) (m : Market) : (s.setMarket i m).whisk = s.whisk := rfl
@[simp] theorem State.setMarket_tl (s : State) (i : Nat) (m : Market) : (s.setMarket i m).tl = s.tl := rfl
@[simp] theorem State.setMarket_cal (s : State) (i : Nat) (m : Market) : (s.setMarket i m).cal = s.cal := rfl
@[simp] theorem State.setMarket_worlds (s : State) (i : Nat) (m : Market) : (s.setMarket i m).worlds = s.worlds := rfl
@[simp] theorem State.setMarket_host (s : State) (i : Nat) (m : Market) : (s.setMarket i m).host = s.host := rfl
@[simp] theorem State.setMarket_str (s : State) (i : Nat) (m : Market) : (s.setMarket i m).str = s.str := rfl
@[simp] theorem State.setMarket_cus (s : State) (i : Nat) (m : Market) : (s.setMarket i m).cus = s.cus := rfl
@[simp] theorem State.setMarket_stk (s : State) (i : Nat) (m : Market) : (s.setMarket i m).stk = s.stk := rfl
@[simp] theorem State.setMarket_aud (s : State) (i : Nat) (m : Market) : (s.setMarket i m).aud = s.aud := rfl
@[simp] theorem State.setMarket_now (s : State) (i : Nat) (m : Market) : (s.setMarket i m).now = s.now := rfl
@[simp] theorem State.setMarket_free (s : State) (i : Nat) (m : Market) : (s.setMarket i m).free = s.free := rfl
@[simp] theorem State.setMarket_waitingLog (s : State) (i : Nat) (m : Market) : (s.setMarket i m).waitingLog = s.waitingLog := rfl
@[simp] theorem State.setMarket_completions (s : State) (i : Nat) (m : Market) : (s.setMarket i m).completions = s.completions := rfl
@[simp] theorem State.setMarket_pending (s : State) (i : Nat) (m : Market) : (s.setMarket i m).pending = s.pending := rfl

/-! ### State.setPort -/

@[simp] theorem State.setPort_regs (s : State) (p : Nat) (x : Port) : (s.setPort p x).regs = s.regs := rfl
@[simp] theorem State.setPort_modes (s : State) (p : Nat) (x : Port) : (s.setPort p x).modes = s.modes := rfl
@[simp] theorem State.setPort_fuses (s : State) (p : Nat) (x : Port) : (s.setPort p x).fuses = s.fuses := rfl
@[simp] theorem State.setPort_trivet (s : State) (p : Nat) (x : Port) : (s.setPort p x).trivet = s.trivet := rfl
@[simp] theorem State.setPort_tamper (s : State) (p : Nat) (x : Port) : (s.setPort p x).tamper = s.tamper := rfl
@[simp] theorem State.setPort_power (s : State) (p : Nat) (x : Port) : (s.setPort p x).power = s.power := rfl
@[simp] theorem State.setPort_pkg (s : State) (p : Nat) (x : Port) : (s.setPort p x).pkg = s.pkg := rfl
@[simp] theorem State.setPort_keys (s : State) (p : Nat) (x : Port) : (s.setPort p x).keys = s.keys := rfl
@[simp] theorem State.setPort_cld (s : State) (p : Nat) (x : Port) : (s.setPort p x).cld = s.cld := rfl
@[simp] theorem State.setPort_eng (s : State) (p : Nat) (x : Port) : (s.setPort p x).eng = s.eng := rfl
@[simp] theorem State.setPort_whisk (s : State) (p : Nat) (x : Port) : (s.setPort p x).whisk = s.whisk := rfl
@[simp] theorem State.setPort_tl (s : State) (p : Nat) (x : Port) : (s.setPort p x).tl = s.tl := rfl
@[simp] theorem State.setPort_cal (s : State) (p : Nat) (x : Port) : (s.setPort p x).cal = s.cal := rfl
@[simp] theorem State.setPort_worlds (s : State) (p : Nat) (x : Port) : (s.setPort p x).worlds = s.worlds := rfl
@[simp] theorem State.setPort_host (s : State) (p : Nat) (x : Port) : (s.setPort p x).host = s.host := rfl
@[simp] theorem State.setPort_str (s : State) (p : Nat) (x : Port) : (s.setPort p x).str = s.str := rfl
@[simp] theorem State.setPort_cus (s : State) (p : Nat) (x : Port) : (s.setPort p x).cus = s.cus := rfl
@[simp] theorem State.setPort_stk (s : State) (p : Nat) (x : Port) : (s.setPort p x).stk = s.stk := rfl
@[simp] theorem State.setPort_aud (s : State) (p : Nat) (x : Port) : (s.setPort p x).aud = s.aud := rfl
@[simp] theorem State.setPort_now (s : State) (p : Nat) (x : Port) : (s.setPort p x).now = s.now := rfl
@[simp] theorem State.setPort_free (s : State) (p : Nat) (x : Port) : (s.setPort p x).free = s.free := rfl
@[simp] theorem State.setPort_waitingLog (s : State) (p : Nat) (x : Port) : (s.setPort p x).waitingLog = s.waitingLog := rfl
@[simp] theorem State.setPort_completions (s : State) (p : Nat) (x : Port) : (s.setPort p x).completions = s.completions := rfl
@[simp] theorem State.setPort_pending (s : State) (p : Nat) (x : Port) : (s.setPort p x).pending = s.pending := rfl

/-! ### State.setOwner -/

@[simp] theorem State.setOwner_regs (s : State) (o : Nat) (r : Owner) : (s.setOwner o r).regs = s.regs := rfl
@[simp] theorem State.setOwner_modes (s : State) (o : Nat) (r : Owner) : (s.setOwner o r).modes = s.modes := rfl
@[simp] theorem State.setOwner_fuses (s : State) (o : Nat) (r : Owner) : (s.setOwner o r).fuses = s.fuses := rfl
@[simp] theorem State.setOwner_tamper (s : State) (o : Nat) (r : Owner) : (s.setOwner o r).tamper = s.tamper := rfl
@[simp] theorem State.setOwner_power (s : State) (o : Nat) (r : Owner) : (s.setOwner o r).power = s.power := rfl
@[simp] theorem State.setOwner_pkg (s : State) (o : Nat) (r : Owner) : (s.setOwner o r).pkg = s.pkg := rfl
@[simp] theorem State.setOwner_keys (s : State) (o : Nat) (r : Owner) : (s.setOwner o r).keys = s.keys := rfl
@[simp] theorem State.setOwner_cld (s : State) (o : Nat) (r : Owner) : (s.setOwner o r).cld = s.cld := rfl
@[simp] theorem State.setOwner_eng (s : State) (o : Nat) (r : Owner) : (s.setOwner o r).eng = s.eng := rfl
@[simp] theorem State.setOwner_whisk (s : State) (o : Nat) (r : Owner) : (s.setOwner o r).whisk = s.whisk := rfl
@[simp] theorem State.setOwner_tl (s : State) (o : Nat) (r : Owner) : (s.setOwner o r).tl = s.tl := rfl
@[simp] theorem State.setOwner_cal (s : State) (o : Nat) (r : Owner) : (s.setOwner o r).cal = s.cal := rfl
@[simp] theorem State.setOwner_mkt (s : State) (o : Nat) (r : Owner) : (s.setOwner o r).mkt = s.mkt := rfl
@[simp] theorem State.setOwner_worlds (s : State) (o : Nat) (r : Owner) : (s.setOwner o r).worlds = s.worlds := rfl
@[simp] theorem State.setOwner_host (s : State) (o : Nat) (r : Owner) : (s.setOwner o r).host = s.host := rfl
@[simp] theorem State.setOwner_str (s : State) (o : Nat) (r : Owner) : (s.setOwner o r).str = s.str := rfl
@[simp] theorem State.setOwner_cus (s : State) (o : Nat) (r : Owner) : (s.setOwner o r).cus = s.cus := rfl
@[simp] theorem State.setOwner_stk (s : State) (o : Nat) (r : Owner) : (s.setOwner o r).stk = s.stk := rfl
@[simp] theorem State.setOwner_aud (s : State) (o : Nat) (r : Owner) : (s.setOwner o r).aud = s.aud := rfl
@[simp] theorem State.setOwner_now (s : State) (o : Nat) (r : Owner) : (s.setOwner o r).now = s.now := rfl
@[simp] theorem State.setOwner_free (s : State) (o : Nat) (r : Owner) : (s.setOwner o r).free = s.free := rfl
@[simp] theorem State.setOwner_waitingLog (s : State) (o : Nat) (r : Owner) : (s.setOwner o r).waitingLog = s.waitingLog := rfl
@[simp] theorem State.setOwner_completions (s : State) (o : Nat) (r : Owner) : (s.setOwner o r).completions = s.completions := rfl
@[simp] theorem State.setOwner_pending (s : State) (o : Nat) (r : Owner) : (s.setOwner o r).pending = s.pending := rfl

/-! ### State.setAuth -/

@[simp] theorem State.setAuth_regs (s : State) (o : Nat) (a : Authority) : (s.setAuth o a).regs = s.regs := rfl
@[simp] theorem State.setAuth_modes (s : State) (o : Nat) (a : Authority) : (s.setAuth o a).modes = s.modes := rfl
@[simp] theorem State.setAuth_fuses (s : State) (o : Nat) (a : Authority) : (s.setAuth o a).fuses = s.fuses := rfl
@[simp] theorem State.setAuth_tamper (s : State) (o : Nat) (a : Authority) : (s.setAuth o a).tamper = s.tamper := rfl
@[simp] theorem State.setAuth_power (s : State) (o : Nat) (a : Authority) : (s.setAuth o a).power = s.power := rfl
@[simp] theorem State.setAuth_pkg (s : State) (o : Nat) (a : Authority) : (s.setAuth o a).pkg = s.pkg := rfl
@[simp] theorem State.setAuth_keys (s : State) (o : Nat) (a : Authority) : (s.setAuth o a).keys = s.keys := rfl
@[simp] theorem State.setAuth_cld (s : State) (o : Nat) (a : Authority) : (s.setAuth o a).cld = s.cld := rfl
@[simp] theorem State.setAuth_eng (s : State) (o : Nat) (a : Authority) : (s.setAuth o a).eng = s.eng := rfl
@[simp] theorem State.setAuth_whisk (s : State) (o : Nat) (a : Authority) : (s.setAuth o a).whisk = s.whisk := rfl
@[simp] theorem State.setAuth_tl (s : State) (o : Nat) (a : Authority) : (s.setAuth o a).tl = s.tl := rfl
@[simp] theorem State.setAuth_cal (s : State) (o : Nat) (a : Authority) : (s.setAuth o a).cal = s.cal := rfl
@[simp] theorem State.setAuth_mkt (s : State) (o : Nat) (a : Authority) : (s.setAuth o a).mkt = s.mkt := rfl
@[simp] theorem State.setAuth_worlds (s : State) (o : Nat) (a : Authority) : (s.setAuth o a).worlds = s.worlds := rfl
@[simp] theorem State.setAuth_host (s : State) (o : Nat) (a : Authority) : (s.setAuth o a).host = s.host := rfl
@[simp] theorem State.setAuth_str (s : State) (o : Nat) (a : Authority) : (s.setAuth o a).str = s.str := rfl
@[simp] theorem State.setAuth_cus (s : State) (o : Nat) (a : Authority) : (s.setAuth o a).cus = s.cus := rfl
@[simp] theorem State.setAuth_stk (s : State) (o : Nat) (a : Authority) : (s.setAuth o a).stk = s.stk := rfl
@[simp] theorem State.setAuth_aud (s : State) (o : Nat) (a : Authority) : (s.setAuth o a).aud = s.aud := rfl
@[simp] theorem State.setAuth_now (s : State) (o : Nat) (a : Authority) : (s.setAuth o a).now = s.now := rfl
@[simp] theorem State.setAuth_free (s : State) (o : Nat) (a : Authority) : (s.setAuth o a).free = s.free := rfl
@[simp] theorem State.setAuth_waitingLog (s : State) (o : Nat) (a : Authority) : (s.setAuth o a).waitingLog = s.waitingLog := rfl
@[simp] theorem State.setAuth_completions (s : State) (o : Nat) (a : Authority) : (s.setAuth o a).completions = s.completions := rfl
@[simp] theorem State.setAuth_pending (s : State) (o : Nat) (a : Authority) : (s.setAuth o a).pending = s.pending := rfl

/-! ### State.setStn -/

@[simp] theorem State.setStn_regs (s : State) (n : Nat) (t : Station) : (s.setStn n t).regs = s.regs := rfl
@[simp] theorem State.setStn_modes (s : State) (n : Nat) (t : Station) : (s.setStn n t).modes = s.modes := rfl
@[simp] theorem State.setStn_fuses (s : State) (n : Nat) (t : Station) : (s.setStn n t).fuses = s.fuses := rfl
@[simp] theorem State.setStn_trivet (s : State) (n : Nat) (t : Station) : (s.setStn n t).trivet = s.trivet := rfl
@[simp] theorem State.setStn_tamper (s : State) (n : Nat) (t : Station) : (s.setStn n t).tamper = s.tamper := rfl
@[simp] theorem State.setStn_power (s : State) (n : Nat) (t : Station) : (s.setStn n t).power = s.power := rfl
@[simp] theorem State.setStn_pkg (s : State) (n : Nat) (t : Station) : (s.setStn n t).pkg = s.pkg := rfl
@[simp] theorem State.setStn_keys (s : State) (n : Nat) (t : Station) : (s.setStn n t).keys = s.keys := rfl
@[simp] theorem State.setStn_cld (s : State) (n : Nat) (t : Station) : (s.setStn n t).cld = s.cld := rfl
@[simp] theorem State.setStn_eng (s : State) (n : Nat) (t : Station) : (s.setStn n t).eng = s.eng := rfl
@[simp] theorem State.setStn_whisk (s : State) (n : Nat) (t : Station) : (s.setStn n t).whisk = s.whisk := rfl
@[simp] theorem State.setStn_tl (s : State) (n : Nat) (t : Station) : (s.setStn n t).tl = s.tl := rfl
@[simp] theorem State.setStn_cal (s : State) (n : Nat) (t : Station) : (s.setStn n t).cal = s.cal := rfl
@[simp] theorem State.setStn_mkt (s : State) (n : Nat) (t : Station) : (s.setStn n t).mkt = s.mkt := rfl
@[simp] theorem State.setStn_worlds (s : State) (n : Nat) (t : Station) : (s.setStn n t).worlds = s.worlds := rfl
@[simp] theorem State.setStn_host (s : State) (n : Nat) (t : Station) : (s.setStn n t).host = s.host := rfl
@[simp] theorem State.setStn_str (s : State) (n : Nat) (t : Station) : (s.setStn n t).str = s.str := rfl
@[simp] theorem State.setStn_stk (s : State) (n : Nat) (t : Station) : (s.setStn n t).stk = s.stk := rfl
@[simp] theorem State.setStn_aud (s : State) (n : Nat) (t : Station) : (s.setStn n t).aud = s.aud := rfl
@[simp] theorem State.setStn_now (s : State) (n : Nat) (t : Station) : (s.setStn n t).now = s.now := rfl
@[simp] theorem State.setStn_free (s : State) (n : Nat) (t : Station) : (s.setStn n t).free = s.free := rfl
@[simp] theorem State.setStn_waitingLog (s : State) (n : Nat) (t : Station) : (s.setStn n t).waitingLog = s.waitingLog := rfl
@[simp] theorem State.setStn_completions (s : State) (n : Nat) (t : Station) : (s.setStn n t).completions = s.completions := rfl
@[simp] theorem State.setStn_pending (s : State) (n : Nat) (t : Station) : (s.setStn n t).pending = s.pending := rfl

/-! ### State.setPgroup -/

@[simp] theorem State.setPgroup_regs (s : State) (g : Nat) (p : PGroup) : (s.setPgroup g p).regs = s.regs := rfl
@[simp] theorem State.setPgroup_modes (s : State) (g : Nat) (p : PGroup) : (s.setPgroup g p).modes = s.modes := rfl
@[simp] theorem State.setPgroup_fuses (s : State) (g : Nat) (p : PGroup) : (s.setPgroup g p).fuses = s.fuses := rfl
@[simp] theorem State.setPgroup_trivet (s : State) (g : Nat) (p : PGroup) : (s.setPgroup g p).trivet = s.trivet := rfl
@[simp] theorem State.setPgroup_tamper (s : State) (g : Nat) (p : PGroup) : (s.setPgroup g p).tamper = s.tamper := rfl
@[simp] theorem State.setPgroup_pkg (s : State) (g : Nat) (p : PGroup) : (s.setPgroup g p).pkg = s.pkg := rfl
@[simp] theorem State.setPgroup_keys (s : State) (g : Nat) (p : PGroup) : (s.setPgroup g p).keys = s.keys := rfl
@[simp] theorem State.setPgroup_cld (s : State) (g : Nat) (p : PGroup) : (s.setPgroup g p).cld = s.cld := rfl
@[simp] theorem State.setPgroup_eng (s : State) (g : Nat) (p : PGroup) : (s.setPgroup g p).eng = s.eng := rfl
@[simp] theorem State.setPgroup_whisk (s : State) (g : Nat) (p : PGroup) : (s.setPgroup g p).whisk = s.whisk := rfl
@[simp] theorem State.setPgroup_tl (s : State) (g : Nat) (p : PGroup) : (s.setPgroup g p).tl = s.tl := rfl
@[simp] theorem State.setPgroup_cal (s : State) (g : Nat) (p : PGroup) : (s.setPgroup g p).cal = s.cal := rfl
@[simp] theorem State.setPgroup_mkt (s : State) (g : Nat) (p : PGroup) : (s.setPgroup g p).mkt = s.mkt := rfl
@[simp] theorem State.setPgroup_worlds (s : State) (g : Nat) (p : PGroup) : (s.setPgroup g p).worlds = s.worlds := rfl
@[simp] theorem State.setPgroup_host (s : State) (g : Nat) (p : PGroup) : (s.setPgroup g p).host = s.host := rfl
@[simp] theorem State.setPgroup_str (s : State) (g : Nat) (p : PGroup) : (s.setPgroup g p).str = s.str := rfl
@[simp] theorem State.setPgroup_cus (s : State) (g : Nat) (p : PGroup) : (s.setPgroup g p).cus = s.cus := rfl
@[simp] theorem State.setPgroup_stk (s : State) (g : Nat) (p : PGroup) : (s.setPgroup g p).stk = s.stk := rfl
@[simp] theorem State.setPgroup_aud (s : State) (g : Nat) (p : PGroup) : (s.setPgroup g p).aud = s.aud := rfl
@[simp] theorem State.setPgroup_now (s : State) (g : Nat) (p : PGroup) : (s.setPgroup g p).now = s.now := rfl
@[simp] theorem State.setPgroup_free (s : State) (g : Nat) (p : PGroup) : (s.setPgroup g p).free = s.free := rfl
@[simp] theorem State.setPgroup_waitingLog (s : State) (g : Nat) (p : PGroup) : (s.setPgroup g p).waitingLog = s.waitingLog := rfl
@[simp] theorem State.setPgroup_completions (s : State) (g : Nat) (p : PGroup) : (s.setPgroup g p).completions = s.completions := rfl
@[simp] theorem State.setPgroup_pending (s : State) (g : Nat) (p : PGroup) : (s.setPgroup g p).pending = s.pending := rfl

/-! ### State.setGroup -/

@[simp] theorem State.setGroup_regs (s : State) (g : Nat) (x : Group) : (s.setGroup g x).regs = s.regs := rfl
@[simp] theorem State.setGroup_modes (s : State) (g : Nat) (x : Group) : (s.setGroup g x).modes = s.modes := rfl
@[simp] theorem State.setGroup_fuses (s : State) (g : Nat) (x : Group) : (s.setGroup g x).fuses = s.fuses := rfl
@[simp] theorem State.setGroup_trivet (s : State) (g : Nat) (x : Group) : (s.setGroup g x).trivet = s.trivet := rfl
@[simp] theorem State.setGroup_tamper (s : State) (g : Nat) (x : Group) : (s.setGroup g x).tamper = s.tamper := rfl
@[simp] theorem State.setGroup_power (s : State) (g : Nat) (x : Group) : (s.setGroup g x).power = s.power := rfl
@[simp] theorem State.setGroup_pkg (s : State) (g : Nat) (x : Group) : (s.setGroup g x).pkg = s.pkg := rfl
@[simp] theorem State.setGroup_keys (s : State) (g : Nat) (x : Group) : (s.setGroup g x).keys = s.keys := rfl
@[simp] theorem State.setGroup_eng (s : State) (g : Nat) (x : Group) : (s.setGroup g x).eng = s.eng := rfl
@[simp] theorem State.setGroup_whisk (s : State) (g : Nat) (x : Group) : (s.setGroup g x).whisk = s.whisk := rfl
@[simp] theorem State.setGroup_tl (s : State) (g : Nat) (x : Group) : (s.setGroup g x).tl = s.tl := rfl
@[simp] theorem State.setGroup_cal (s : State) (g : Nat) (x : Group) : (s.setGroup g x).cal = s.cal := rfl
@[simp] theorem State.setGroup_mkt (s : State) (g : Nat) (x : Group) : (s.setGroup g x).mkt = s.mkt := rfl
@[simp] theorem State.setGroup_worlds (s : State) (g : Nat) (x : Group) : (s.setGroup g x).worlds = s.worlds := rfl
@[simp] theorem State.setGroup_host (s : State) (g : Nat) (x : Group) : (s.setGroup g x).host = s.host := rfl
@[simp] theorem State.setGroup_str (s : State) (g : Nat) (x : Group) : (s.setGroup g x).str = s.str := rfl
@[simp] theorem State.setGroup_cus (s : State) (g : Nat) (x : Group) : (s.setGroup g x).cus = s.cus := rfl
@[simp] theorem State.setGroup_stk (s : State) (g : Nat) (x : Group) : (s.setGroup g x).stk = s.stk := rfl
@[simp] theorem State.setGroup_aud (s : State) (g : Nat) (x : Group) : (s.setGroup g x).aud = s.aud := rfl
@[simp] theorem State.setGroup_now (s : State) (g : Nat) (x : Group) : (s.setGroup g x).now = s.now := rfl
@[simp] theorem State.setGroup_free (s : State) (g : Nat) (x : Group) : (s.setGroup g x).free = s.free := rfl
@[simp] theorem State.setGroup_waitingLog (s : State) (g : Nat) (x : Group) : (s.setGroup g x).waitingLog = s.waitingLog := rfl
@[simp] theorem State.setGroup_completions (s : State) (g : Nat) (x : Group) : (s.setGroup g x).completions = s.completions := rfl
@[simp] theorem State.setGroup_pending (s : State) (g : Nat) (x : Group) : (s.setGroup g x).pending = s.pending := rfl

/-! ### State.setChannel -/

@[simp] theorem State.setChannel_regs (s : State) (n : Nat) (c : Channel) : (s.setChannel n c).regs = s.regs := rfl
@[simp] theorem State.setChannel_modes (s : State) (n : Nat) (c : Channel) : (s.setChannel n c).modes = s.modes := rfl
@[simp] theorem State.setChannel_fuses (s : State) (n : Nat) (c : Channel) : (s.setChannel n c).fuses = s.fuses := rfl
@[simp] theorem State.setChannel_trivet (s : State) (n : Nat) (c : Channel) : (s.setChannel n c).trivet = s.trivet := rfl
@[simp] theorem State.setChannel_tamper (s : State) (n : Nat) (c : Channel) : (s.setChannel n c).tamper = s.tamper := rfl
@[simp] theorem State.setChannel_power (s : State) (n : Nat) (c : Channel) : (s.setChannel n c).power = s.power := rfl
@[simp] theorem State.setChannel_pkg (s : State) (n : Nat) (c : Channel) : (s.setChannel n c).pkg = s.pkg := rfl
@[simp] theorem State.setChannel_keys (s : State) (n : Nat) (c : Channel) : (s.setChannel n c).keys = s.keys := rfl
@[simp] theorem State.setChannel_eng (s : State) (n : Nat) (c : Channel) : (s.setChannel n c).eng = s.eng := rfl
@[simp] theorem State.setChannel_whisk (s : State) (n : Nat) (c : Channel) : (s.setChannel n c).whisk = s.whisk := rfl
@[simp] theorem State.setChannel_tl (s : State) (n : Nat) (c : Channel) : (s.setChannel n c).tl = s.tl := rfl
@[simp] theorem State.setChannel_cal (s : State) (n : Nat) (c : Channel) : (s.setChannel n c).cal = s.cal := rfl
@[simp] theorem State.setChannel_mkt (s : State) (n : Nat) (c : Channel) : (s.setChannel n c).mkt = s.mkt := rfl
@[simp] theorem State.setChannel_worlds (s : State) (n : Nat) (c : Channel) : (s.setChannel n c).worlds = s.worlds := rfl
@[simp] theorem State.setChannel_host (s : State) (n : Nat) (c : Channel) : (s.setChannel n c).host = s.host := rfl
@[simp] theorem State.setChannel_str (s : State) (n : Nat) (c : Channel) : (s.setChannel n c).str = s.str := rfl
@[simp] theorem State.setChannel_cus (s : State) (n : Nat) (c : Channel) : (s.setChannel n c).cus = s.cus := rfl
@[simp] theorem State.setChannel_stk (s : State) (n : Nat) (c : Channel) : (s.setChannel n c).stk = s.stk := rfl
@[simp] theorem State.setChannel_aud (s : State) (n : Nat) (c : Channel) : (s.setChannel n c).aud = s.aud := rfl
@[simp] theorem State.setChannel_now (s : State) (n : Nat) (c : Channel) : (s.setChannel n c).now = s.now := rfl
@[simp] theorem State.setChannel_free (s : State) (n : Nat) (c : Channel) : (s.setChannel n c).free = s.free := rfl
@[simp] theorem State.setChannel_waitingLog (s : State) (n : Nat) (c : Channel) : (s.setChannel n c).waitingLog = s.waitingLog := rfl
@[simp] theorem State.setChannel_completions (s : State) (n : Nat) (c : Channel) : (s.setChannel n c).completions = s.completions := rfl
@[simp] theorem State.setChannel_pending (s : State) (n : Nat) (c : Channel) : (s.setChannel n c).pending = s.pending := rfl

/-! ### State.setSealBuf -/

@[simp] theorem State.setSealBuf_regs (s : State) (n : Nat) (b : SealBuf) : (s.setSealBuf n b).regs = s.regs := rfl
@[simp] theorem State.setSealBuf_modes (s : State) (n : Nat) (b : SealBuf) : (s.setSealBuf n b).modes = s.modes := rfl
@[simp] theorem State.setSealBuf_fuses (s : State) (n : Nat) (b : SealBuf) : (s.setSealBuf n b).fuses = s.fuses := rfl
@[simp] theorem State.setSealBuf_trivet (s : State) (n : Nat) (b : SealBuf) : (s.setSealBuf n b).trivet = s.trivet := rfl
@[simp] theorem State.setSealBuf_tamper (s : State) (n : Nat) (b : SealBuf) : (s.setSealBuf n b).tamper = s.tamper := rfl
@[simp] theorem State.setSealBuf_power (s : State) (n : Nat) (b : SealBuf) : (s.setSealBuf n b).power = s.power := rfl
@[simp] theorem State.setSealBuf_pkg (s : State) (n : Nat) (b : SealBuf) : (s.setSealBuf n b).pkg = s.pkg := rfl
@[simp] theorem State.setSealBuf_keys (s : State) (n : Nat) (b : SealBuf) : (s.setSealBuf n b).keys = s.keys := rfl
@[simp] theorem State.setSealBuf_cld (s : State) (n : Nat) (b : SealBuf) : (s.setSealBuf n b).cld = s.cld := rfl
@[simp] theorem State.setSealBuf_eng (s : State) (n : Nat) (b : SealBuf) : (s.setSealBuf n b).eng = s.eng := rfl
@[simp] theorem State.setSealBuf_whisk (s : State) (n : Nat) (b : SealBuf) : (s.setSealBuf n b).whisk = s.whisk := rfl
@[simp] theorem State.setSealBuf_tl (s : State) (n : Nat) (b : SealBuf) : (s.setSealBuf n b).tl = s.tl := rfl
@[simp] theorem State.setSealBuf_cal (s : State) (n : Nat) (b : SealBuf) : (s.setSealBuf n b).cal = s.cal := rfl
@[simp] theorem State.setSealBuf_worlds (s : State) (n : Nat) (b : SealBuf) : (s.setSealBuf n b).worlds = s.worlds := rfl
@[simp] theorem State.setSealBuf_host (s : State) (n : Nat) (b : SealBuf) : (s.setSealBuf n b).host = s.host := rfl
@[simp] theorem State.setSealBuf_str (s : State) (n : Nat) (b : SealBuf) : (s.setSealBuf n b).str = s.str := rfl
@[simp] theorem State.setSealBuf_cus (s : State) (n : Nat) (b : SealBuf) : (s.setSealBuf n b).cus = s.cus := rfl
@[simp] theorem State.setSealBuf_stk (s : State) (n : Nat) (b : SealBuf) : (s.setSealBuf n b).stk = s.stk := rfl
@[simp] theorem State.setSealBuf_aud (s : State) (n : Nat) (b : SealBuf) : (s.setSealBuf n b).aud = s.aud := rfl
@[simp] theorem State.setSealBuf_now (s : State) (n : Nat) (b : SealBuf) : (s.setSealBuf n b).now = s.now := rfl
@[simp] theorem State.setSealBuf_free (s : State) (n : Nat) (b : SealBuf) : (s.setSealBuf n b).free = s.free := rfl
@[simp] theorem State.setSealBuf_waitingLog (s : State) (n : Nat) (b : SealBuf) : (s.setSealBuf n b).waitingLog = s.waitingLog := rfl
@[simp] theorem State.setSealBuf_completions (s : State) (n : Nat) (b : SealBuf) : (s.setSealBuf n b).completions = s.completions := rfl
@[simp] theorem State.setSealBuf_pending (s : State) (n : Nat) (b : SealBuf) : (s.setSealBuf n b).pending = s.pending := rfl

/-! ### State.setSrc -/

@[simp] theorem State.setSrc_regs (s : State) (n : Nat) (x : Source) : (s.setSrc n x).regs = s.regs := rfl
@[simp] theorem State.setSrc_modes (s : State) (n : Nat) (x : Source) : (s.setSrc n x).modes = s.modes := rfl
@[simp] theorem State.setSrc_fuses (s : State) (n : Nat) (x : Source) : (s.setSrc n x).fuses = s.fuses := rfl
@[simp] theorem State.setSrc_trivet (s : State) (n : Nat) (x : Source) : (s.setSrc n x).trivet = s.trivet := rfl
@[simp] theorem State.setSrc_power (s : State) (n : Nat) (x : Source) : (s.setSrc n x).power = s.power := rfl
@[simp] theorem State.setSrc_pkg (s : State) (n : Nat) (x : Source) : (s.setSrc n x).pkg = s.pkg := rfl
@[simp] theorem State.setSrc_keys (s : State) (n : Nat) (x : Source) : (s.setSrc n x).keys = s.keys := rfl
@[simp] theorem State.setSrc_cld (s : State) (n : Nat) (x : Source) : (s.setSrc n x).cld = s.cld := rfl
@[simp] theorem State.setSrc_eng (s : State) (n : Nat) (x : Source) : (s.setSrc n x).eng = s.eng := rfl
@[simp] theorem State.setSrc_whisk (s : State) (n : Nat) (x : Source) : (s.setSrc n x).whisk = s.whisk := rfl
@[simp] theorem State.setSrc_tl (s : State) (n : Nat) (x : Source) : (s.setSrc n x).tl = s.tl := rfl
@[simp] theorem State.setSrc_cal (s : State) (n : Nat) (x : Source) : (s.setSrc n x).cal = s.cal := rfl
@[simp] theorem State.setSrc_mkt (s : State) (n : Nat) (x : Source) : (s.setSrc n x).mkt = s.mkt := rfl
@[simp] theorem State.setSrc_worlds (s : State) (n : Nat) (x : Source) : (s.setSrc n x).worlds = s.worlds := rfl
@[simp] theorem State.setSrc_host (s : State) (n : Nat) (x : Source) : (s.setSrc n x).host = s.host := rfl
@[simp] theorem State.setSrc_str (s : State) (n : Nat) (x : Source) : (s.setSrc n x).str = s.str := rfl
@[simp] theorem State.setSrc_cus (s : State) (n : Nat) (x : Source) : (s.setSrc n x).cus = s.cus := rfl
@[simp] theorem State.setSrc_stk (s : State) (n : Nat) (x : Source) : (s.setSrc n x).stk = s.stk := rfl
@[simp] theorem State.setSrc_aud (s : State) (n : Nat) (x : Source) : (s.setSrc n x).aud = s.aud := rfl
@[simp] theorem State.setSrc_now (s : State) (n : Nat) (x : Source) : (s.setSrc n x).now = s.now := rfl
@[simp] theorem State.setSrc_free (s : State) (n : Nat) (x : Source) : (s.setSrc n x).free = s.free := rfl
@[simp] theorem State.setSrc_waitingLog (s : State) (n : Nat) (x : Source) : (s.setSrc n x).waitingLog = s.waitingLog := rfl
@[simp] theorem State.setSrc_completions (s : State) (n : Nat) (x : Source) : (s.setSrc n x).completions = s.completions := rfl
@[simp] theorem State.setSrc_pending (s : State) (n : Nat) (x : Source) : (s.setSrc n x).pending = s.pending := rfl

/-! ### State.setTref -/

@[simp] theorem State.setTref_regs (s : State) (r : Bool) (x : Tref) : (s.setTref r x).regs = s.regs := by
  unfold State.setTref; split <;> rfl
@[simp] theorem State.setTref_modes (s : State) (r : Bool) (x : Tref) : (s.setTref r x).modes = s.modes := by
  unfold State.setTref; split <;> rfl
@[simp] theorem State.setTref_fuses (s : State) (r : Bool) (x : Tref) : (s.setTref r x).fuses = s.fuses := by
  unfold State.setTref; split <;> rfl
@[simp] theorem State.setTref_trivet (s : State) (r : Bool) (x : Tref) : (s.setTref r x).trivet = s.trivet := by
  unfold State.setTref; split <;> rfl
@[simp] theorem State.setTref_tamper (s : State) (r : Bool) (x : Tref) : (s.setTref r x).tamper = s.tamper := by
  unfold State.setTref; split <;> rfl
@[simp] theorem State.setTref_power (s : State) (r : Bool) (x : Tref) : (s.setTref r x).power = s.power := by
  unfold State.setTref; split <;> rfl
@[simp] theorem State.setTref_pkg (s : State) (r : Bool) (x : Tref) : (s.setTref r x).pkg = s.pkg := by
  unfold State.setTref; split <;> rfl
@[simp] theorem State.setTref_keys (s : State) (r : Bool) (x : Tref) : (s.setTref r x).keys = s.keys := by
  unfold State.setTref; split <;> rfl
@[simp] theorem State.setTref_cld (s : State) (r : Bool) (x : Tref) : (s.setTref r x).cld = s.cld := by
  unfold State.setTref; split <;> rfl
@[simp] theorem State.setTref_eng (s : State) (r : Bool) (x : Tref) : (s.setTref r x).eng = s.eng := by
  unfold State.setTref; split <;> rfl
@[simp] theorem State.setTref_whisk (s : State) (r : Bool) (x : Tref) : (s.setTref r x).whisk = s.whisk := by
  unfold State.setTref; split <;> rfl
@[simp] theorem State.setTref_cal (s : State) (r : Bool) (x : Tref) : (s.setTref r x).cal = s.cal := by
  unfold State.setTref; split <;> rfl
@[simp] theorem State.setTref_mkt (s : State) (r : Bool) (x : Tref) : (s.setTref r x).mkt = s.mkt := by
  unfold State.setTref; split <;> rfl
@[simp] theorem State.setTref_worlds (s : State) (r : Bool) (x : Tref) : (s.setTref r x).worlds = s.worlds := by
  unfold State.setTref; split <;> rfl
@[simp] theorem State.setTref_host (s : State) (r : Bool) (x : Tref) : (s.setTref r x).host = s.host := by
  unfold State.setTref; split <;> rfl
@[simp] theorem State.setTref_str (s : State) (r : Bool) (x : Tref) : (s.setTref r x).str = s.str := by
  unfold State.setTref; split <;> rfl
@[simp] theorem State.setTref_cus (s : State) (r : Bool) (x : Tref) : (s.setTref r x).cus = s.cus := by
  unfold State.setTref; split <;> rfl
@[simp] theorem State.setTref_stk (s : State) (r : Bool) (x : Tref) : (s.setTref r x).stk = s.stk := by
  unfold State.setTref; split <;> rfl
@[simp] theorem State.setTref_aud (s : State) (r : Bool) (x : Tref) : (s.setTref r x).aud = s.aud := by
  unfold State.setTref; split <;> rfl
@[simp] theorem State.setTref_now (s : State) (r : Bool) (x : Tref) : (s.setTref r x).now = s.now := by
  unfold State.setTref; split <;> rfl
@[simp] theorem State.setTref_free (s : State) (r : Bool) (x : Tref) : (s.setTref r x).free = s.free := by
  unfold State.setTref; split <;> rfl
@[simp] theorem State.setTref_waitingLog (s : State) (r : Bool) (x : Tref) : (s.setTref r x).waitingLog = s.waitingLog := by
  unfold State.setTref; split <;> rfl
@[simp] theorem State.setTref_completions (s : State) (r : Bool) (x : Tref) : (s.setTref r x).completions = s.completions := by
  unfold State.setTref; split <;> rfl
@[simp] theorem State.setTref_pending (s : State) (r : Bool) (x : Tref) : (s.setTref r x).pending = s.pending := by
  unfold State.setTref; split <;> rfl

/-! ### State.setPkg -/

@[simp] theorem State.setPkg_regs (s : State) (p : Package) : (s.setPkg p).regs = s.regs := rfl
@[simp] theorem State.setPkg_modes (s : State) (p : Package) : (s.setPkg p).modes = s.modes := rfl
@[simp] theorem State.setPkg_fuses (s : State) (p : Package) : (s.setPkg p).fuses = s.fuses := rfl
@[simp] theorem State.setPkg_trivet (s : State) (p : Package) : (s.setPkg p).trivet = s.trivet := rfl
@[simp] theorem State.setPkg_tamper (s : State) (p : Package) : (s.setPkg p).tamper = s.tamper := rfl
@[simp] theorem State.setPkg_power (s : State) (p : Package) : (s.setPkg p).power = s.power := rfl
@[simp] theorem State.setPkg_keys (s : State) (p : Package) : (s.setPkg p).keys = s.keys := rfl
@[simp] theorem State.setPkg_cld (s : State) (p : Package) : (s.setPkg p).cld = s.cld := rfl
@[simp] theorem State.setPkg_eng (s : State) (p : Package) : (s.setPkg p).eng = s.eng := rfl
@[simp] theorem State.setPkg_whisk (s : State) (p : Package) : (s.setPkg p).whisk = s.whisk := rfl
@[simp] theorem State.setPkg_tl (s : State) (p : Package) : (s.setPkg p).tl = s.tl := rfl
@[simp] theorem State.setPkg_cal (s : State) (p : Package) : (s.setPkg p).cal = s.cal := rfl
@[simp] theorem State.setPkg_mkt (s : State) (p : Package) : (s.setPkg p).mkt = s.mkt := rfl
@[simp] theorem State.setPkg_worlds (s : State) (p : Package) : (s.setPkg p).worlds = s.worlds := rfl
@[simp] theorem State.setPkg_host (s : State) (p : Package) : (s.setPkg p).host = s.host := rfl
@[simp] theorem State.setPkg_str (s : State) (p : Package) : (s.setPkg p).str = s.str := rfl
@[simp] theorem State.setPkg_cus (s : State) (p : Package) : (s.setPkg p).cus = s.cus := rfl
@[simp] theorem State.setPkg_stk (s : State) (p : Package) : (s.setPkg p).stk = s.stk := rfl
@[simp] theorem State.setPkg_aud (s : State) (p : Package) : (s.setPkg p).aud = s.aud := rfl
@[simp] theorem State.setPkg_now (s : State) (p : Package) : (s.setPkg p).now = s.now := rfl
@[simp] theorem State.setPkg_free (s : State) (p : Package) : (s.setPkg p).free = s.free := rfl
@[simp] theorem State.setPkg_waitingLog (s : State) (p : Package) : (s.setPkg p).waitingLog = s.waitingLog := rfl
@[simp] theorem State.setPkg_completions (s : State) (p : Package) : (s.setPkg p).completions = s.completions := rfl
@[simp] theorem State.setPkg_pending (s : State) (p : Package) : (s.setPkg p).pending = s.pending := rfl

/-! ### State.setQueue -/

@[simp] theorem State.setQueue_regs (s : State) (n : Nat) (q : BitVec 2) (x : Queue) : (s.setQueue n q x).regs = s.regs := rfl
@[simp] theorem State.setQueue_modes (s : State) (n : Nat) (q : BitVec 2) (x : Queue) : (s.setQueue n q x).modes = s.modes := rfl
@[simp] theorem State.setQueue_fuses (s : State) (n : Nat) (q : BitVec 2) (x : Queue) : (s.setQueue n q x).fuses = s.fuses := rfl
@[simp] theorem State.setQueue_trivet (s : State) (n : Nat) (q : BitVec 2) (x : Queue) : (s.setQueue n q x).trivet = s.trivet := rfl
@[simp] theorem State.setQueue_tamper (s : State) (n : Nat) (q : BitVec 2) (x : Queue) : (s.setQueue n q x).tamper = s.tamper := rfl
@[simp] theorem State.setQueue_power (s : State) (n : Nat) (q : BitVec 2) (x : Queue) : (s.setQueue n q x).power = s.power := rfl
@[simp] theorem State.setQueue_pkg (s : State) (n : Nat) (q : BitVec 2) (x : Queue) : (s.setQueue n q x).pkg = s.pkg := rfl
@[simp] theorem State.setQueue_keys (s : State) (n : Nat) (q : BitVec 2) (x : Queue) : (s.setQueue n q x).keys = s.keys := rfl
@[simp] theorem State.setQueue_cld (s : State) (n : Nat) (q : BitVec 2) (x : Queue) : (s.setQueue n q x).cld = s.cld := rfl
@[simp] theorem State.setQueue_eng (s : State) (n : Nat) (q : BitVec 2) (x : Queue) : (s.setQueue n q x).eng = s.eng := rfl
@[simp] theorem State.setQueue_whisk (s : State) (n : Nat) (q : BitVec 2) (x : Queue) : (s.setQueue n q x).whisk = s.whisk := rfl
@[simp] theorem State.setQueue_tl (s : State) (n : Nat) (q : BitVec 2) (x : Queue) : (s.setQueue n q x).tl = s.tl := rfl
@[simp] theorem State.setQueue_cal (s : State) (n : Nat) (q : BitVec 2) (x : Queue) : (s.setQueue n q x).cal = s.cal := rfl
@[simp] theorem State.setQueue_mkt (s : State) (n : Nat) (q : BitVec 2) (x : Queue) : (s.setQueue n q x).mkt = s.mkt := rfl
@[simp] theorem State.setQueue_host (s : State) (n : Nat) (q : BitVec 2) (x : Queue) : (s.setQueue n q x).host = s.host := rfl
@[simp] theorem State.setQueue_str (s : State) (n : Nat) (q : BitVec 2) (x : Queue) : (s.setQueue n q x).str = s.str := rfl
@[simp] theorem State.setQueue_cus (s : State) (n : Nat) (q : BitVec 2) (x : Queue) : (s.setQueue n q x).cus = s.cus := rfl
@[simp] theorem State.setQueue_stk (s : State) (n : Nat) (q : BitVec 2) (x : Queue) : (s.setQueue n q x).stk = s.stk := rfl
@[simp] theorem State.setQueue_aud (s : State) (n : Nat) (q : BitVec 2) (x : Queue) : (s.setQueue n q x).aud = s.aud := rfl
@[simp] theorem State.setQueue_now (s : State) (n : Nat) (q : BitVec 2) (x : Queue) : (s.setQueue n q x).now = s.now := rfl
@[simp] theorem State.setQueue_free (s : State) (n : Nat) (q : BitVec 2) (x : Queue) : (s.setQueue n q x).free = s.free := rfl
@[simp] theorem State.setQueue_waitingLog (s : State) (n : Nat) (q : BitVec 2) (x : Queue) : (s.setQueue n q x).waitingLog = s.waitingLog := rfl
@[simp] theorem State.setQueue_completions (s : State) (n : Nat) (q : BitVec 2) (x : Queue) : (s.setQueue n q x).completions = s.completions := rfl
@[simp] theorem State.setQueue_pending (s : State) (n : Nat) (q : BitVec 2) (x : Queue) : (s.setQueue n q x).pending = s.pending := rfl

/-! ### State.setCer -/

@[simp] theorem State.setCer_regs (s : State) (c : Ceremony) : (s.setCer c).regs = s.regs := rfl
@[simp] theorem State.setCer_modes (s : State) (c : Ceremony) : (s.setCer c).modes = s.modes := rfl
@[simp] theorem State.setCer_fuses (s : State) (c : Ceremony) : (s.setCer c).fuses = s.fuses := rfl
@[simp] theorem State.setCer_trivet (s : State) (c : Ceremony) : (s.setCer c).trivet = s.trivet := rfl
@[simp] theorem State.setCer_tamper (s : State) (c : Ceremony) : (s.setCer c).tamper = s.tamper := rfl
@[simp] theorem State.setCer_power (s : State) (c : Ceremony) : (s.setCer c).power = s.power := rfl
@[simp] theorem State.setCer_pkg (s : State) (c : Ceremony) : (s.setCer c).pkg = s.pkg := rfl
@[simp] theorem State.setCer_keys (s : State) (c : Ceremony) : (s.setCer c).keys = s.keys := rfl
@[simp] theorem State.setCer_cld (s : State) (c : Ceremony) : (s.setCer c).cld = s.cld := rfl
@[simp] theorem State.setCer_eng (s : State) (c : Ceremony) : (s.setCer c).eng = s.eng := rfl
@[simp] theorem State.setCer_whisk (s : State) (c : Ceremony) : (s.setCer c).whisk = s.whisk := rfl
@[simp] theorem State.setCer_tl (s : State) (c : Ceremony) : (s.setCer c).tl = s.tl := rfl
@[simp] theorem State.setCer_cal (s : State) (c : Ceremony) : (s.setCer c).cal = s.cal := rfl
@[simp] theorem State.setCer_mkt (s : State) (c : Ceremony) : (s.setCer c).mkt = s.mkt := rfl
@[simp] theorem State.setCer_worlds (s : State) (c : Ceremony) : (s.setCer c).worlds = s.worlds := rfl
@[simp] theorem State.setCer_host (s : State) (c : Ceremony) : (s.setCer c).host = s.host := rfl
@[simp] theorem State.setCer_str (s : State) (c : Ceremony) : (s.setCer c).str = s.str := rfl
@[simp] theorem State.setCer_stk (s : State) (c : Ceremony) : (s.setCer c).stk = s.stk := rfl
@[simp] theorem State.setCer_aud (s : State) (c : Ceremony) : (s.setCer c).aud = s.aud := rfl
@[simp] theorem State.setCer_now (s : State) (c : Ceremony) : (s.setCer c).now = s.now := rfl
@[simp] theorem State.setCer_free (s : State) (c : Ceremony) : (s.setCer c).free = s.free := rfl
@[simp] theorem State.setCer_waitingLog (s : State) (c : Ceremony) : (s.setCer c).waitingLog = s.waitingLog := rfl
@[simp] theorem State.setCer_completions (s : State) (c : Ceremony) : (s.setCer c).completions = s.completions := rfl
@[simp] theorem State.setCer_pending (s : State) (c : Ceremony) : (s.setCer c).pending = s.pending := rfl

/-! ### State.setAccount -/

@[simp] theorem State.setAccount_regs (s : State) (c : EngClass) (x : Nat) (a : Account) : (s.setAccount c x a).regs = s.regs := rfl
@[simp] theorem State.setAccount_modes (s : State) (c : EngClass) (x : Nat) (a : Account) : (s.setAccount c x a).modes = s.modes := rfl
@[simp] theorem State.setAccount_fuses (s : State) (c : EngClass) (x : Nat) (a : Account) : (s.setAccount c x a).fuses = s.fuses := rfl
@[simp] theorem State.setAccount_trivet (s : State) (c : EngClass) (x : Nat) (a : Account) : (s.setAccount c x a).trivet = s.trivet := rfl
@[simp] theorem State.setAccount_tamper (s : State) (c : EngClass) (x : Nat) (a : Account) : (s.setAccount c x a).tamper = s.tamper := rfl
@[simp] theorem State.setAccount_power (s : State) (c : EngClass) (x : Nat) (a : Account) : (s.setAccount c x a).power = s.power := rfl
@[simp] theorem State.setAccount_pkg (s : State) (c : EngClass) (x : Nat) (a : Account) : (s.setAccount c x a).pkg = s.pkg := rfl
@[simp] theorem State.setAccount_keys (s : State) (c : EngClass) (x : Nat) (a : Account) : (s.setAccount c x a).keys = s.keys := rfl
@[simp] theorem State.setAccount_cld (s : State) (c : EngClass) (x : Nat) (a : Account) : (s.setAccount c x a).cld = s.cld := rfl
@[simp] theorem State.setAccount_eng (s : State) (c : EngClass) (x : Nat) (a : Account) : (s.setAccount c x a).eng = s.eng := rfl
@[simp] theorem State.setAccount_tl (s : State) (c : EngClass) (x : Nat) (a : Account) : (s.setAccount c x a).tl = s.tl := rfl
@[simp] theorem State.setAccount_cal (s : State) (c : EngClass) (x : Nat) (a : Account) : (s.setAccount c x a).cal = s.cal := rfl
@[simp] theorem State.setAccount_mkt (s : State) (c : EngClass) (x : Nat) (a : Account) : (s.setAccount c x a).mkt = s.mkt := rfl
@[simp] theorem State.setAccount_worlds (s : State) (c : EngClass) (x : Nat) (a : Account) : (s.setAccount c x a).worlds = s.worlds := rfl
@[simp] theorem State.setAccount_host (s : State) (c : EngClass) (x : Nat) (a : Account) : (s.setAccount c x a).host = s.host := rfl
@[simp] theorem State.setAccount_str (s : State) (c : EngClass) (x : Nat) (a : Account) : (s.setAccount c x a).str = s.str := rfl
@[simp] theorem State.setAccount_cus (s : State) (c : EngClass) (x : Nat) (a : Account) : (s.setAccount c x a).cus = s.cus := rfl
@[simp] theorem State.setAccount_stk (s : State) (c : EngClass) (x : Nat) (a : Account) : (s.setAccount c x a).stk = s.stk := rfl
@[simp] theorem State.setAccount_aud (s : State) (c : EngClass) (x : Nat) (a : Account) : (s.setAccount c x a).aud = s.aud := rfl
@[simp] theorem State.setAccount_now (s : State) (c : EngClass) (x : Nat) (a : Account) : (s.setAccount c x a).now = s.now := rfl
@[simp] theorem State.setAccount_free (s : State) (c : EngClass) (x : Nat) (a : Account) : (s.setAccount c x a).free = s.free := rfl
@[simp] theorem State.setAccount_waitingLog (s : State) (c : EngClass) (x : Nat) (a : Account) : (s.setAccount c x a).waitingLog = s.waitingLog := rfl
@[simp] theorem State.setAccount_completions (s : State) (c : EngClass) (x : Nat) (a : Account) : (s.setAccount c x a).completions = s.completions := rfl
@[simp] theorem State.setAccount_pending (s : State) (c : EngClass) (x : Nat) (a : Account) : (s.setAccount c x a).pending = s.pending := rfl

/-! ### State.setSram -/

@[simp] theorem State.setSram_regs (s : State) (i : Nat) (x : Sram) : (s.setSram i x).regs = s.regs := rfl
@[simp] theorem State.setSram_modes (s : State) (i : Nat) (x : Sram) : (s.setSram i x).modes = s.modes := rfl
@[simp] theorem State.setSram_fuses (s : State) (i : Nat) (x : Sram) : (s.setSram i x).fuses = s.fuses := rfl
@[simp] theorem State.setSram_trivet (s : State) (i : Nat) (x : Sram) : (s.setSram i x).trivet = s.trivet := rfl
@[simp] theorem State.setSram_tamper (s : State) (i : Nat) (x : Sram) : (s.setSram i x).tamper = s.tamper := rfl
@[simp] theorem State.setSram_power (s : State) (i : Nat) (x : Sram) : (s.setSram i x).power = s.power := rfl
@[simp] theorem State.setSram_pkg (s : State) (i : Nat) (x : Sram) : (s.setSram i x).pkg = s.pkg := rfl
@[simp] theorem State.setSram_keys (s : State) (i : Nat) (x : Sram) : (s.setSram i x).keys = s.keys := rfl
@[simp] theorem State.setSram_cld (s : State) (i : Nat) (x : Sram) : (s.setSram i x).cld = s.cld := rfl
@[simp] theorem State.setSram_eng (s : State) (i : Nat) (x : Sram) : (s.setSram i x).eng = s.eng := rfl
@[simp] theorem State.setSram_tl (s : State) (i : Nat) (x : Sram) : (s.setSram i x).tl = s.tl := rfl
@[simp] theorem State.setSram_cal (s : State) (i : Nat) (x : Sram) : (s.setSram i x).cal = s.cal := rfl
@[simp] theorem State.setSram_mkt (s : State) (i : Nat) (x : Sram) : (s.setSram i x).mkt = s.mkt := rfl
@[simp] theorem State.setSram_worlds (s : State) (i : Nat) (x : Sram) : (s.setSram i x).worlds = s.worlds := rfl
@[simp] theorem State.setSram_host (s : State) (i : Nat) (x : Sram) : (s.setSram i x).host = s.host := rfl
@[simp] theorem State.setSram_str (s : State) (i : Nat) (x : Sram) : (s.setSram i x).str = s.str := rfl
@[simp] theorem State.setSram_cus (s : State) (i : Nat) (x : Sram) : (s.setSram i x).cus = s.cus := rfl
@[simp] theorem State.setSram_stk (s : State) (i : Nat) (x : Sram) : (s.setSram i x).stk = s.stk := rfl
@[simp] theorem State.setSram_aud (s : State) (i : Nat) (x : Sram) : (s.setSram i x).aud = s.aud := rfl
@[simp] theorem State.setSram_now (s : State) (i : Nat) (x : Sram) : (s.setSram i x).now = s.now := rfl
@[simp] theorem State.setSram_free (s : State) (i : Nat) (x : Sram) : (s.setSram i x).free = s.free := rfl
@[simp] theorem State.setSram_waitingLog (s : State) (i : Nat) (x : Sram) : (s.setSram i x).waitingLog = s.waitingLog := rfl
@[simp] theorem State.setSram_completions (s : State) (i : Nat) (x : Sram) : (s.setSram i x).completions = s.completions := rfl
@[simp] theorem State.setSram_pending (s : State) (i : Nat) (x : Sram) : (s.setSram i x).pending = s.pending := rfl

/-! ### State.setCell -/

@[simp] theorem State.setCell_regs (s : State) (n : Nat) (x : Cell) : (s.setCell n x).regs = s.regs := rfl
@[simp] theorem State.setCell_modes (s : State) (n : Nat) (x : Cell) : (s.setCell n x).modes = s.modes := rfl
@[simp] theorem State.setCell_fuses (s : State) (n : Nat) (x : Cell) : (s.setCell n x).fuses = s.fuses := rfl
@[simp] theorem State.setCell_trivet (s : State) (n : Nat) (x : Cell) : (s.setCell n x).trivet = s.trivet := rfl
@[simp] theorem State.setCell_tamper (s : State) (n : Nat) (x : Cell) : (s.setCell n x).tamper = s.tamper := rfl
@[simp] theorem State.setCell_power (s : State) (n : Nat) (x : Cell) : (s.setCell n x).power = s.power := rfl
@[simp] theorem State.setCell_pkg (s : State) (n : Nat) (x : Cell) : (s.setCell n x).pkg = s.pkg := rfl
@[simp] theorem State.setCell_keys (s : State) (n : Nat) (x : Cell) : (s.setCell n x).keys = s.keys := rfl
@[simp] theorem State.setCell_eng (s : State) (n : Nat) (x : Cell) : (s.setCell n x).eng = s.eng := rfl
@[simp] theorem State.setCell_whisk (s : State) (n : Nat) (x : Cell) : (s.setCell n x).whisk = s.whisk := rfl
@[simp] theorem State.setCell_tl (s : State) (n : Nat) (x : Cell) : (s.setCell n x).tl = s.tl := rfl
@[simp] theorem State.setCell_cal (s : State) (n : Nat) (x : Cell) : (s.setCell n x).cal = s.cal := rfl
@[simp] theorem State.setCell_mkt (s : State) (n : Nat) (x : Cell) : (s.setCell n x).mkt = s.mkt := rfl
@[simp] theorem State.setCell_worlds (s : State) (n : Nat) (x : Cell) : (s.setCell n x).worlds = s.worlds := rfl
@[simp] theorem State.setCell_host (s : State) (n : Nat) (x : Cell) : (s.setCell n x).host = s.host := rfl
@[simp] theorem State.setCell_str (s : State) (n : Nat) (x : Cell) : (s.setCell n x).str = s.str := rfl
@[simp] theorem State.setCell_cus (s : State) (n : Nat) (x : Cell) : (s.setCell n x).cus = s.cus := rfl
@[simp] theorem State.setCell_stk (s : State) (n : Nat) (x : Cell) : (s.setCell n x).stk = s.stk := rfl
@[simp] theorem State.setCell_aud (s : State) (n : Nat) (x : Cell) : (s.setCell n x).aud = s.aud := rfl
@[simp] theorem State.setCell_now (s : State) (n : Nat) (x : Cell) : (s.setCell n x).now = s.now := rfl
@[simp] theorem State.setCell_free (s : State) (n : Nat) (x : Cell) : (s.setCell n x).free = s.free := rfl
@[simp] theorem State.setCell_waitingLog (s : State) (n : Nat) (x : Cell) : (s.setCell n x).waitingLog = s.waitingLog := rfl
@[simp] theorem State.setCell_completions (s : State) (n : Nat) (x : Cell) : (s.setCell n x).completions = s.completions := rfl
@[simp] theorem State.setCell_pending (s : State) (n : Nat) (x : Cell) : (s.setCell n x).pending = s.pending := rfl

/-! ### State.setResidue -/

@[simp] theorem State.setResidue_regs (s : State) (ch : Priv) (bs : Bytes) : (s.setResidue ch bs).regs = s.regs := rfl
@[simp] theorem State.setResidue_modes (s : State) (ch : Priv) (bs : Bytes) : (s.setResidue ch bs).modes = s.modes := rfl
@[simp] theorem State.setResidue_fuses (s : State) (ch : Priv) (bs : Bytes) : (s.setResidue ch bs).fuses = s.fuses := rfl
@[simp] theorem State.setResidue_trivet (s : State) (ch : Priv) (bs : Bytes) : (s.setResidue ch bs).trivet = s.trivet := rfl
@[simp] theorem State.setResidue_tamper (s : State) (ch : Priv) (bs : Bytes) : (s.setResidue ch bs).tamper = s.tamper := rfl
@[simp] theorem State.setResidue_power (s : State) (ch : Priv) (bs : Bytes) : (s.setResidue ch bs).power = s.power := rfl
@[simp] theorem State.setResidue_pkg (s : State) (ch : Priv) (bs : Bytes) : (s.setResidue ch bs).pkg = s.pkg := rfl
@[simp] theorem State.setResidue_keys (s : State) (ch : Priv) (bs : Bytes) : (s.setResidue ch bs).keys = s.keys := rfl
@[simp] theorem State.setResidue_eng (s : State) (ch : Priv) (bs : Bytes) : (s.setResidue ch bs).eng = s.eng := rfl
@[simp] theorem State.setResidue_whisk (s : State) (ch : Priv) (bs : Bytes) : (s.setResidue ch bs).whisk = s.whisk := rfl
@[simp] theorem State.setResidue_tl (s : State) (ch : Priv) (bs : Bytes) : (s.setResidue ch bs).tl = s.tl := rfl
@[simp] theorem State.setResidue_cal (s : State) (ch : Priv) (bs : Bytes) : (s.setResidue ch bs).cal = s.cal := rfl
@[simp] theorem State.setResidue_mkt (s : State) (ch : Priv) (bs : Bytes) : (s.setResidue ch bs).mkt = s.mkt := rfl
@[simp] theorem State.setResidue_worlds (s : State) (ch : Priv) (bs : Bytes) : (s.setResidue ch bs).worlds = s.worlds := rfl
@[simp] theorem State.setResidue_host (s : State) (ch : Priv) (bs : Bytes) : (s.setResidue ch bs).host = s.host := rfl
@[simp] theorem State.setResidue_str (s : State) (ch : Priv) (bs : Bytes) : (s.setResidue ch bs).str = s.str := rfl
@[simp] theorem State.setResidue_cus (s : State) (ch : Priv) (bs : Bytes) : (s.setResidue ch bs).cus = s.cus := rfl
@[simp] theorem State.setResidue_stk (s : State) (ch : Priv) (bs : Bytes) : (s.setResidue ch bs).stk = s.stk := rfl
@[simp] theorem State.setResidue_aud (s : State) (ch : Priv) (bs : Bytes) : (s.setResidue ch bs).aud = s.aud := rfl
@[simp] theorem State.setResidue_now (s : State) (ch : Priv) (bs : Bytes) : (s.setResidue ch bs).now = s.now := rfl
@[simp] theorem State.setResidue_free (s : State) (ch : Priv) (bs : Bytes) : (s.setResidue ch bs).free = s.free := rfl
@[simp] theorem State.setResidue_waitingLog (s : State) (ch : Priv) (bs : Bytes) : (s.setResidue ch bs).waitingLog = s.waitingLog := rfl
@[simp] theorem State.setResidue_completions (s : State) (ch : Priv) (bs : Bytes) : (s.setResidue ch bs).completions = s.completions := rfl
@[simp] theorem State.setResidue_pending (s : State) (ch : Priv) (bs : Bytes) : (s.setResidue ch bs).pending = s.pending := rfl

/-! ### State.setTap -/

@[simp] theorem State.setTap_regs (s : State) (t : Nat) (x : Tap) : (s.setTap t x).regs = s.regs := by
  unfold State.setTap; repeat (first | rfl | split)
@[simp] theorem State.setTap_modes (s : State) (t : Nat) (x : Tap) : (s.setTap t x).modes = s.modes := by
  unfold State.setTap; repeat (first | rfl | split)
@[simp] theorem State.setTap_fuses (s : State) (t : Nat) (x : Tap) : (s.setTap t x).fuses = s.fuses := by
  unfold State.setTap; repeat (first | rfl | split)
@[simp] theorem State.setTap_trivet (s : State) (t : Nat) (x : Tap) : (s.setTap t x).trivet = s.trivet := by
  unfold State.setTap; repeat (first | rfl | split)
@[simp] theorem State.setTap_tamper (s : State) (t : Nat) (x : Tap) : (s.setTap t x).tamper = s.tamper := by
  unfold State.setTap; repeat (first | rfl | split)
@[simp] theorem State.setTap_power (s : State) (t : Nat) (x : Tap) : (s.setTap t x).power = s.power := by
  unfold State.setTap; repeat (first | rfl | split)
@[simp] theorem State.setTap_pkg (s : State) (t : Nat) (x : Tap) : (s.setTap t x).pkg = s.pkg := by
  unfold State.setTap; repeat (first | rfl | split)
@[simp] theorem State.setTap_keys (s : State) (t : Nat) (x : Tap) : (s.setTap t x).keys = s.keys := by
  unfold State.setTap; repeat (first | rfl | split)
@[simp] theorem State.setTap_cld (s : State) (t : Nat) (x : Tap) : (s.setTap t x).cld = s.cld := by
  unfold State.setTap; repeat (first | rfl | split)
@[simp] theorem State.setTap_whisk (s : State) (t : Nat) (x : Tap) : (s.setTap t x).whisk = s.whisk := by
  unfold State.setTap; repeat (first | rfl | split)
@[simp] theorem State.setTap_tl (s : State) (t : Nat) (x : Tap) : (s.setTap t x).tl = s.tl := by
  unfold State.setTap; repeat (first | rfl | split)
@[simp] theorem State.setTap_cal (s : State) (t : Nat) (x : Tap) : (s.setTap t x).cal = s.cal := by
  unfold State.setTap; repeat (first | rfl | split)
@[simp] theorem State.setTap_mkt (s : State) (t : Nat) (x : Tap) : (s.setTap t x).mkt = s.mkt := by
  unfold State.setTap; repeat (first | rfl | split)
@[simp] theorem State.setTap_worlds (s : State) (t : Nat) (x : Tap) : (s.setTap t x).worlds = s.worlds := by
  unfold State.setTap; repeat (first | rfl | split)
@[simp] theorem State.setTap_host (s : State) (t : Nat) (x : Tap) : (s.setTap t x).host = s.host := by
  unfold State.setTap; repeat (first | rfl | split)
@[simp] theorem State.setTap_str (s : State) (t : Nat) (x : Tap) : (s.setTap t x).str = s.str := by
  unfold State.setTap; repeat (first | rfl | split)
@[simp] theorem State.setTap_cus (s : State) (t : Nat) (x : Tap) : (s.setTap t x).cus = s.cus := by
  unfold State.setTap; repeat (first | rfl | split)
@[simp] theorem State.setTap_stk (s : State) (t : Nat) (x : Tap) : (s.setTap t x).stk = s.stk := by
  unfold State.setTap; repeat (first | rfl | split)
@[simp] theorem State.setTap_aud (s : State) (t : Nat) (x : Tap) : (s.setTap t x).aud = s.aud := by
  unfold State.setTap; repeat (first | rfl | split)
@[simp] theorem State.setTap_now (s : State) (t : Nat) (x : Tap) : (s.setTap t x).now = s.now := by
  unfold State.setTap; repeat (first | rfl | split)
@[simp] theorem State.setTap_free (s : State) (t : Nat) (x : Tap) : (s.setTap t x).free = s.free := by
  unfold State.setTap; repeat (first | rfl | split)
@[simp] theorem State.setTap_waitingLog (s : State) (t : Nat) (x : Tap) : (s.setTap t x).waitingLog = s.waitingLog := by
  unfold State.setTap; repeat (first | rfl | split)
@[simp] theorem State.setTap_completions (s : State) (t : Nat) (x : Tap) : (s.setTap t x).completions = s.completions := by
  unfold State.setTap; repeat (first | rfl | split)
@[simp] theorem State.setTap_pending (s : State) (t : Nat) (x : Tap) : (s.setTap t x).pending = s.pending := by
  unfold State.setTap; repeat (first | rfl | split)

/-! ### State.setStamp -/

@[simp] theorem State.setStamp_regs (s : State) (x : Stamp) : (s.setStamp x).regs = s.regs := rfl
@[simp] theorem State.setStamp_modes (s : State) (x : Stamp) : (s.setStamp x).modes = s.modes := rfl
@[simp] theorem State.setStamp_fuses (s : State) (x : Stamp) : (s.setStamp x).fuses = s.fuses := rfl
@[simp] theorem State.setStamp_trivet (s : State) (x : Stamp) : (s.setStamp x).trivet = s.trivet := rfl
@[simp] theorem State.setStamp_tamper (s : State) (x : Stamp) : (s.setStamp x).tamper = s.tamper := rfl
@[simp] theorem State.setStamp_power (s : State) (x : Stamp) : (s.setStamp x).power = s.power := rfl
@[simp] theorem State.setStamp_pkg (s : State) (x : Stamp) : (s.setStamp x).pkg = s.pkg := rfl
@[simp] theorem State.setStamp_keys (s : State) (x : Stamp) : (s.setStamp x).keys = s.keys := rfl
@[simp] theorem State.setStamp_cld (s : State) (x : Stamp) : (s.setStamp x).cld = s.cld := rfl
@[simp] theorem State.setStamp_eng (s : State) (x : Stamp) : (s.setStamp x).eng = s.eng := rfl
@[simp] theorem State.setStamp_whisk (s : State) (x : Stamp) : (s.setStamp x).whisk = s.whisk := rfl
@[simp] theorem State.setStamp_tl (s : State) (x : Stamp) : (s.setStamp x).tl = s.tl := rfl
@[simp] theorem State.setStamp_cal (s : State) (x : Stamp) : (s.setStamp x).cal = s.cal := rfl
@[simp] theorem State.setStamp_worlds (s : State) (x : Stamp) : (s.setStamp x).worlds = s.worlds := rfl
@[simp] theorem State.setStamp_host (s : State) (x : Stamp) : (s.setStamp x).host = s.host := rfl
@[simp] theorem State.setStamp_str (s : State) (x : Stamp) : (s.setStamp x).str = s.str := rfl
@[simp] theorem State.setStamp_cus (s : State) (x : Stamp) : (s.setStamp x).cus = s.cus := rfl
@[simp] theorem State.setStamp_stk (s : State) (x : Stamp) : (s.setStamp x).stk = s.stk := rfl
@[simp] theorem State.setStamp_aud (s : State) (x : Stamp) : (s.setStamp x).aud = s.aud := rfl
@[simp] theorem State.setStamp_now (s : State) (x : Stamp) : (s.setStamp x).now = s.now := rfl
@[simp] theorem State.setStamp_free (s : State) (x : Stamp) : (s.setStamp x).free = s.free := rfl
@[simp] theorem State.setStamp_waitingLog (s : State) (x : Stamp) : (s.setStamp x).waitingLog = s.waitingLog := rfl
@[simp] theorem State.setStamp_completions (s : State) (x : Stamp) : (s.setStamp x).completions = s.completions := rfl
@[simp] theorem State.setStamp_pending (s : State) (x : Stamp) : (s.setStamp x).pending = s.pending := rfl

/-! ### State.setUses -/

@[simp] theorem State.setUses_regs (s : State) (h : Word) (n : Nat) : (s.setUses h n).regs = s.regs := rfl
@[simp] theorem State.setUses_modes (s : State) (h : Word) (n : Nat) : (s.setUses h n).modes = s.modes := rfl
@[simp] theorem State.setUses_fuses (s : State) (h : Word) (n : Nat) : (s.setUses h n).fuses = s.fuses := rfl
@[simp] theorem State.setUses_trivet (s : State) (h : Word) (n : Nat) : (s.setUses h n).trivet = s.trivet := rfl
@[simp] theorem State.setUses_tamper (s : State) (h : Word) (n : Nat) : (s.setUses h n).tamper = s.tamper := rfl
@[simp] theorem State.setUses_power (s : State) (h : Word) (n : Nat) : (s.setUses h n).power = s.power := rfl
@[simp] theorem State.setUses_pkg (s : State) (h : Word) (n : Nat) : (s.setUses h n).pkg = s.pkg := rfl
@[simp] theorem State.setUses_keys (s : State) (h : Word) (n : Nat) : (s.setUses h n).keys = s.keys := rfl
@[simp] theorem State.setUses_cld (s : State) (h : Word) (n : Nat) : (s.setUses h n).cld = s.cld := rfl
@[simp] theorem State.setUses_eng (s : State) (h : Word) (n : Nat) : (s.setUses h n).eng = s.eng := rfl
@[simp] theorem State.setUses_whisk (s : State) (h : Word) (n : Nat) : (s.setUses h n).whisk = s.whisk := rfl
@[simp] theorem State.setUses_tl (s : State) (h : Word) (n : Nat) : (s.setUses h n).tl = s.tl := rfl
@[simp] theorem State.setUses_cal (s : State) (h : Word) (n : Nat) : (s.setUses h n).cal = s.cal := rfl
@[simp] theorem State.setUses_worlds (s : State) (h : Word) (n : Nat) : (s.setUses h n).worlds = s.worlds := rfl
@[simp] theorem State.setUses_host (s : State) (h : Word) (n : Nat) : (s.setUses h n).host = s.host := rfl
@[simp] theorem State.setUses_str (s : State) (h : Word) (n : Nat) : (s.setUses h n).str = s.str := rfl
@[simp] theorem State.setUses_cus (s : State) (h : Word) (n : Nat) : (s.setUses h n).cus = s.cus := rfl
@[simp] theorem State.setUses_stk (s : State) (h : Word) (n : Nat) : (s.setUses h n).stk = s.stk := rfl
@[simp] theorem State.setUses_aud (s : State) (h : Word) (n : Nat) : (s.setUses h n).aud = s.aud := rfl
@[simp] theorem State.setUses_now (s : State) (h : Word) (n : Nat) : (s.setUses h n).now = s.now := rfl
@[simp] theorem State.setUses_free (s : State) (h : Word) (n : Nat) : (s.setUses h n).free = s.free := rfl
@[simp] theorem State.setUses_waitingLog (s : State) (h : Word) (n : Nat) : (s.setUses h n).waitingLog = s.waitingLog := rfl
@[simp] theorem State.setUses_completions (s : State) (h : Word) (n : Nat) : (s.setUses h n).completions = s.completions := rfl
@[simp] theorem State.setUses_pending (s : State) (h : Word) (n : Nat) : (s.setUses h n).pending = s.pending := rfl

/-! ### State.addJob -/

@[simp] theorem State.addJob_regs (s : State) (u : Submission) : (s.addJob u).regs = s.regs := rfl
@[simp] theorem State.addJob_modes (s : State) (u : Submission) : (s.addJob u).modes = s.modes := rfl
@[simp] theorem State.addJob_fuses (s : State) (u : Submission) : (s.addJob u).fuses = s.fuses := rfl
@[simp] theorem State.addJob_trivet (s : State) (u : Submission) : (s.addJob u).trivet = s.trivet := rfl
@[simp] theorem State.addJob_tamper (s : State) (u : Submission) : (s.addJob u).tamper = s.tamper := rfl
@[simp] theorem State.addJob_power (s : State) (u : Submission) : (s.addJob u).power = s.power := rfl
@[simp] theorem State.addJob_pkg (s : State) (u : Submission) : (s.addJob u).pkg = s.pkg := rfl
@[simp] theorem State.addJob_keys (s : State) (u : Submission) : (s.addJob u).keys = s.keys := rfl
@[simp] theorem State.addJob_cld (s : State) (u : Submission) : (s.addJob u).cld = s.cld := rfl
@[simp] theorem State.addJob_whisk (s : State) (u : Submission) : (s.addJob u).whisk = s.whisk := rfl
@[simp] theorem State.addJob_tl (s : State) (u : Submission) : (s.addJob u).tl = s.tl := rfl
@[simp] theorem State.addJob_cal (s : State) (u : Submission) : (s.addJob u).cal = s.cal := rfl
@[simp] theorem State.addJob_mkt (s : State) (u : Submission) : (s.addJob u).mkt = s.mkt := rfl
@[simp] theorem State.addJob_worlds (s : State) (u : Submission) : (s.addJob u).worlds = s.worlds := rfl
@[simp] theorem State.addJob_host (s : State) (u : Submission) : (s.addJob u).host = s.host := rfl
@[simp] theorem State.addJob_str (s : State) (u : Submission) : (s.addJob u).str = s.str := rfl
@[simp] theorem State.addJob_cus (s : State) (u : Submission) : (s.addJob u).cus = s.cus := rfl
@[simp] theorem State.addJob_stk (s : State) (u : Submission) : (s.addJob u).stk = s.stk := rfl
@[simp] theorem State.addJob_aud (s : State) (u : Submission) : (s.addJob u).aud = s.aud := rfl
@[simp] theorem State.addJob_now (s : State) (u : Submission) : (s.addJob u).now = s.now := rfl
@[simp] theorem State.addJob_free (s : State) (u : Submission) : (s.addJob u).free = s.free := rfl
@[simp] theorem State.addJob_waitingLog (s : State) (u : Submission) : (s.addJob u).waitingLog = s.waitingLog := rfl
@[simp] theorem State.addJob_completions (s : State) (u : Submission) : (s.addJob u).completions = s.completions := rfl
@[simp] theorem State.addJob_pending (s : State) (u : Submission) : (s.addJob u).pending = s.pending := rfl

/-! ### State.showPhase -/

@[simp] theorem State.showPhase_regs (s : State) (phi : Int) : (s.showPhase phi).regs = s.regs := rfl
@[simp] theorem State.showPhase_modes (s : State) (phi : Int) : (s.showPhase phi).modes = s.modes := rfl
@[simp] theorem State.showPhase_fuses (s : State) (phi : Int) : (s.showPhase phi).fuses = s.fuses := rfl
@[simp] theorem State.showPhase_trivet (s : State) (phi : Int) : (s.showPhase phi).trivet = s.trivet := rfl
@[simp] theorem State.showPhase_tamper (s : State) (phi : Int) : (s.showPhase phi).tamper = s.tamper := rfl
@[simp] theorem State.showPhase_power (s : State) (phi : Int) : (s.showPhase phi).power = s.power := rfl
@[simp] theorem State.showPhase_pkg (s : State) (phi : Int) : (s.showPhase phi).pkg = s.pkg := rfl
@[simp] theorem State.showPhase_keys (s : State) (phi : Int) : (s.showPhase phi).keys = s.keys := rfl
@[simp] theorem State.showPhase_cld (s : State) (phi : Int) : (s.showPhase phi).cld = s.cld := rfl
@[simp] theorem State.showPhase_eng (s : State) (phi : Int) : (s.showPhase phi).eng = s.eng := rfl
@[simp] theorem State.showPhase_whisk (s : State) (phi : Int) : (s.showPhase phi).whisk = s.whisk := rfl
@[simp] theorem State.showPhase_cal (s : State) (phi : Int) : (s.showPhase phi).cal = s.cal := rfl
@[simp] theorem State.showPhase_mkt (s : State) (phi : Int) : (s.showPhase phi).mkt = s.mkt := rfl
@[simp] theorem State.showPhase_worlds (s : State) (phi : Int) : (s.showPhase phi).worlds = s.worlds := rfl
@[simp] theorem State.showPhase_host (s : State) (phi : Int) : (s.showPhase phi).host = s.host := rfl
@[simp] theorem State.showPhase_str (s : State) (phi : Int) : (s.showPhase phi).str = s.str := rfl
@[simp] theorem State.showPhase_cus (s : State) (phi : Int) : (s.showPhase phi).cus = s.cus := rfl
@[simp] theorem State.showPhase_stk (s : State) (phi : Int) : (s.showPhase phi).stk = s.stk := rfl
@[simp] theorem State.showPhase_aud (s : State) (phi : Int) : (s.showPhase phi).aud = s.aud := rfl
@[simp] theorem State.showPhase_now (s : State) (phi : Int) : (s.showPhase phi).now = s.now := rfl
@[simp] theorem State.showPhase_free (s : State) (phi : Int) : (s.showPhase phi).free = s.free := rfl
@[simp] theorem State.showPhase_waitingLog (s : State) (phi : Int) : (s.showPhase phi).waitingLog = s.waitingLog := rfl
@[simp] theorem State.showPhase_completions (s : State) (phi : Int) : (s.showPhase phi).completions = s.completions := rfl
@[simp] theorem State.showPhase_pending (s : State) (phi : Int) : (s.showPhase phi).pending = s.pending := rfl

end Sys2Proof.Machine
end

