-- ==== Sys2Proof/Laws/Shared.lean ====
section
/-! SUPPORT. What the shared operations can change: registers of the register file, contexts and queues, the host link, the
log. Everything else they leave, one lemma for each operation and field. -/

namespace Sys2Proof.Machine

/-- `t` differs from `s` at most in the register file, the worlds, the host link, Stockpot and the records held back. -/
def Talks (s t : State) : Prop :=
  ∃ r w h k l, t = { s with regs := r, worlds := w, host := h, stk := k, waitingLog := l }

/-- Nothing has changed. -/
theorem Talks.refl (s : State) : Talks s s := ⟨_, _, _, _, _, rfl⟩

/-- One change after another. -/
theorem Talks.trans {s t u : State} (h : Talks s t) (g : Talks t u) : Talks s u := by
  obtain ⟨_, _, _, _, _, rfl⟩ := h
  obtain ⟨_, _, _, _, _, rfl⟩ := g
  exact ⟨_, _, _, _, _, rfl⟩

/-- A change for each element of a list. -/
theorem Talks.foldl {A : Type} (f : State → A → State) (h : ∀ s x, Talks s (f s x)) (l : List A) (s : State) :
    Talks s (l.foldl f s) := by
  induction l generalizing s with
  | nil => exact Talks.refl s
  | cons x l ih => exact (h s x).trans (ih _)

theorem Talks.modes {s t : State} (h : Talks s t) : t.modes = s.modes := by obtain ⟨_, _, _, _, _, rfl⟩ := h; rfl
theorem Talks.fuses {s t : State} (h : Talks s t) : t.fuses = s.fuses := by obtain ⟨_, _, _, _, _, rfl⟩ := h; rfl
theorem Talks.trivet {s t : State} (h : Talks s t) : t.trivet = s.trivet := by obtain ⟨_, _, _, _, _, rfl⟩ := h; rfl
theorem Talks.tamper {s t : State} (h : Talks s t) : t.tamper = s.tamper := by obtain ⟨_, _, _, _, _, rfl⟩ := h; rfl
theorem Talks.power {s t : State} (h : Talks s t) : t.power = s.power := by obtain ⟨_, _, _, _, _, rfl⟩ := h; rfl
theorem Talks.pkg {s t : State} (h : Talks s t) : t.pkg = s.pkg := by obtain ⟨_, _, _, _, _, rfl⟩ := h; rfl
theorem Talks.keys {s t : State} (h : Talks s t) : t.keys = s.keys := by obtain ⟨_, _, _, _, _, rfl⟩ := h; rfl
theorem Talks.cld {s t : State} (h : Talks s t) : t.cld = s.cld := by obtain ⟨_, _, _, _, _, rfl⟩ := h; rfl
theorem Talks.eng {s t : State} (h : Talks s t) : t.eng = s.eng := by obtain ⟨_, _, _, _, _, rfl⟩ := h; rfl
theorem Talks.whisk {s t : State} (h : Talks s t) : t.whisk = s.whisk := by obtain ⟨_, _, _, _, _, rfl⟩ := h; rfl
theorem Talks.tl {s t : State} (h : Talks s t) : t.tl = s.tl := by obtain ⟨_, _, _, _, _, rfl⟩ := h; rfl
theorem Talks.cal {s t : State} (h : Talks s t) : t.cal = s.cal := by obtain ⟨_, _, _, _, _, rfl⟩ := h; rfl
theorem Talks.mkt {s t : State} (h : Talks s t) : t.mkt = s.mkt := by obtain ⟨_, _, _, _, _, rfl⟩ := h; rfl
theorem Talks.str {s t : State} (h : Talks s t) : t.str = s.str := by obtain ⟨_, _, _, _, _, rfl⟩ := h; rfl
theorem Talks.cus {s t : State} (h : Talks s t) : t.cus = s.cus := by obtain ⟨_, _, _, _, _, rfl⟩ := h; rfl
theorem Talks.aud {s t : State} (h : Talks s t) : t.aud = s.aud := by obtain ⟨_, _, _, _, _, rfl⟩ := h; rfl
theorem Talks.now {s t : State} (h : Talks s t) : t.now = s.now := by obtain ⟨_, _, _, _, _, rfl⟩ := h; rfl
theorem Talks.free {s t : State} (h : Talks s t) : t.free = s.free := by obtain ⟨_, _, _, _, _, rfl⟩ := h; rfl
theorem Talks.completions {s t : State} (h : Talks s t) : t.completions = s.completions := by obtain ⟨_, _, _, _, _, rfl⟩ := h; rfl
theorem Talks.pending {s t : State} (h : Talks s t) : t.pending = s.pending := by obtain ⟨_, _, _, _, _, rfl⟩ := h; rfl

/-! ### State.setReg -/

theorem State.setReg_talks (s : State) (a : Nat) (v : Word) : Talks s (s.setReg a v) := ⟨_, _, _, _, _, rfl⟩


/-! ### State.setRegs -/

theorem State.setRegs_talks (s : State) (a : Nat) (vs : List Word) : Talks s (s.setRegs a vs) := by
  induction vs generalizing s a with
  | nil => exact Talks.refl s
  | cons v vs ih => exact (State.setReg_talks s a v).trans (ih _ _)

@[simp] theorem State.setRegs_modes (s : State) (a : Nat) (vs : List Word) :
    (s.setRegs a vs).modes = s.modes := (State.setRegs_talks s a vs).modes
@[simp] theorem State.setRegs_fuses (s : State) (a : Nat) (vs : List Word) :
    (s.setRegs a vs).fuses = s.fuses := (State.setRegs_talks s a vs).fuses
@[simp] theorem State.setRegs_trivet (s : State) (a : Nat) (vs : List Word) :
    (s.setRegs a vs).trivet = s.trivet := (State.setRegs_talks s a vs).trivet
@[simp] theorem State.setRegs_tamper (s : State) (a : Nat) (vs : List Word) :
    (s.setRegs a vs).tamper = s.tamper := (State.setRegs_talks s a vs).tamper
@[simp] theorem State.setRegs_power (s : State) (a : Nat) (vs : List Word) :
    (s.setRegs a vs).power = s.power := (State.setRegs_talks s a vs).power
@[simp] theorem State.setRegs_pkg (s : State) (a : Nat) (vs : List Word) :
    (s.setRegs a vs).pkg = s.pkg := (State.setRegs_talks s a vs).pkg
@[simp] theorem State.setRegs_keys (s : State) (a : Nat) (vs : List Word) :
    (s.setRegs a vs).keys = s.keys := (State.setRegs_talks s a vs).keys
@[simp] theorem State.setRegs_cld (s : State) (a : Nat) (vs : List Word) :
    (s.setRegs a vs).cld = s.cld := (State.setRegs_talks s a vs).cld
@[simp] theorem State.setRegs_eng (s : State) (a : Nat) (vs : List Word) :
    (s.setRegs a vs).eng = s.eng := (State.setRegs_talks s a vs).eng
@[simp] theorem State.setRegs_whisk (s : State) (a : Nat) (vs : List Word) :
    (s.setRegs a vs).whisk = s.whisk := (State.setRegs_talks s a vs).whisk
@[simp] theorem State.setRegs_tl (s : State) (a : Nat) (vs : List Word) :
    (s.setRegs a vs).tl = s.tl := (State.setRegs_talks s a vs).tl
@[simp] theorem State.setRegs_cal (s : State) (a : Nat) (vs : List Word) :
    (s.setRegs a vs).cal = s.cal := (State.setRegs_talks s a vs).cal
@[simp] theorem State.setRegs_mkt (s : State) (a : Nat) (vs : List Word) :
    (s.setRegs a vs).mkt = s.mkt := (State.setRegs_talks s a vs).mkt
@[simp] theorem State.setRegs_str (s : State) (a : Nat) (vs : List Word) :
    (s.setRegs a vs).str = s.str := (State.setRegs_talks s a vs).str
@[simp] theorem State.setRegs_cus (s : State) (a : Nat) (vs : List Word) :
    (s.setRegs a vs).cus = s.cus := (State.setRegs_talks s a vs).cus
@[simp] theorem State.setRegs_aud (s : State) (a : Nat) (vs : List Word) :
    (s.setRegs a vs).aud = s.aud := (State.setRegs_talks s a vs).aud
@[simp] theorem State.setRegs_now (s : State) (a : Nat) (vs : List Word) :
    (s.setRegs a vs).now = s.now := (State.setRegs_talks s a vs).now
@[simp] theorem State.setRegs_free (s : State) (a : Nat) (vs : List Word) :
    (s.setRegs a vs).free = s.free := (State.setRegs_talks s a vs).free
@[simp] theorem State.setRegs_completions (s : State) (a : Nat) (vs : List Word) :
    (s.setRegs a vs).completions = s.completions := (State.setRegs_talks s a vs).completions
@[simp] theorem State.setRegs_pending (s : State) (a : Nat) (vs : List Word) :
    (s.setRegs a vs).pending = s.pending := (State.setRegs_talks s a vs).pending

/-! ### State.setReg64 -/

theorem State.setReg64_talks (s : State) (a : Nat) (v : DWord) : Talks s (s.setReg64 a v) := (State.setReg_talks _ _ _).trans (State.setReg_talks _ _ _)


/-! ### State.setCtx -/

theorem State.setCtx_talks (s : State) (n : Nat) (c : Context) : Talks s (s.setCtx n c) := ⟨_, _, _, _, _, rfl⟩


/-! ### State.setSlc -/

theorem State.setSlc_talks (s : State) (n : Nat) (x : Slice) : Talks s (s.setSlc n x) := ⟨_, _, _, _, _, rfl⟩


/-! ### State.disarm -/

theorem State.disarm_talks (s : State) (b : Option Nat) (p n : Nat) : Talks s (s.disarm b p n) := ⟨_, _, _, _, _, rfl⟩

@[simp] theorem State.disarm_modes (s : State) (b : Option Nat) (p n : Nat) :
    (s.disarm b p n).modes = s.modes := (State.disarm_talks s b p n).modes
@[simp] theorem State.disarm_fuses (s : State) (b : Option Nat) (p n : Nat) :
    (s.disarm b p n).fuses = s.fuses := (State.disarm_talks s b p n).fuses
@[simp] theorem State.disarm_trivet (s : State) (b : Option Nat) (p n : Nat) :
    (s.disarm b p n).trivet = s.trivet := (State.disarm_talks s b p n).trivet
@[simp] theorem State.disarm_tamper (s : State) (b : Option Nat) (p n : Nat) :
    (s.disarm b p n).tamper = s.tamper := (State.disarm_talks s b p n).tamper
@[simp] theorem State.disarm_power (s : State) (b : Option Nat) (p n : Nat) :
    (s.disarm b p n).power = s.power := (State.disarm_talks s b p n).power
@[simp] theorem State.disarm_pkg (s : State) (b : Option Nat) (p n : Nat) :
    (s.disarm b p n).pkg = s.pkg := (State.disarm_talks s b p n).pkg
@[simp] theorem State.disarm_keys (s : State) (b : Option Nat) (p n : Nat) :
    (s.disarm b p n).keys = s.keys := (State.disarm_talks s b p n).keys
@[simp] theorem State.disarm_cld (s : State) (b : Option Nat) (p n : Nat) :
    (s.disarm b p n).cld = s.cld := (State.disarm_talks s b p n).cld
@[simp] theorem State.disarm_eng (s : State) (b : Option Nat) (p n : Nat) :
    (s.disarm b p n).eng = s.eng := (State.disarm_talks s b p n).eng
@[simp] theorem State.disarm_whisk (s : State) (b : Option Nat) (p n : Nat) :
    (s.disarm b p n).whisk = s.whisk := (State.disarm_talks s b p n).whisk
@[simp] theorem State.disarm_tl (s : State) (b : Option Nat) (p n : Nat) :
    (s.disarm b p n).tl = s.tl := (State.disarm_talks s b p n).tl
@[simp] theorem State.disarm_cal (s : State) (b : Option Nat) (p n : Nat) :
    (s.disarm b p n).cal = s.cal := (State.disarm_talks s b p n).cal
@[simp] theorem State.disarm_mkt (s : State) (b : Option Nat) (p n : Nat) :
    (s.disarm b p n).mkt = s.mkt := (State.disarm_talks s b p n).mkt
@[simp] theorem State.disarm_str (s : State) (b : Option Nat) (p n : Nat) :
    (s.disarm b p n).str = s.str := (State.disarm_talks s b p n).str
@[simp] theorem State.disarm_cus (s : State) (b : Option Nat) (p n : Nat) :
    (s.disarm b p n).cus = s.cus := (State.disarm_talks s b p n).cus
@[simp] theorem State.disarm_aud (s : State) (b : Option Nat) (p n : Nat) :
    (s.disarm b p n).aud = s.aud := (State.disarm_talks s b p n).aud
@[simp] theorem State.disarm_now (s : State) (b : Option Nat) (p n : Nat) :
    (s.disarm b p n).now = s.now := (State.disarm_talks s b p n).now
@[simp] theorem State.disarm_free (s : State) (b : Option Nat) (p n : Nat) :
    (s.disarm b p n).free = s.free := (State.disarm_talks s b p n).free
@[simp] theorem State.disarm_completions (s : State) (b : Option Nat) (p n : Nat) :
    (s.disarm b p n).completions = s.completions := (State.disarm_talks s b p n).completions
@[simp] theorem State.disarm_pending (s : State) (b : Option Nat) (p n : Nat) :
    (s.disarm b p n).pending = s.pending := (State.disarm_talks s b p n).pending

/-! ### State.recipeWrite -/

theorem State.recipeWrite_talks (s : State) (b : Option Nat) (p : Nat) (bs : Bytes) : Talks s (s.recipeWrite b p bs) := by
  unfold State.recipeWrite
  split
  · exact Talks.refl s
  · exact Talks.trans ⟨_, _, _, _, _, rfl⟩ (State.disarm_talks _ _ _ _)

@[simp] theorem State.recipeWrite_modes (s : State) (b : Option Nat) (p : Nat) (bs : Bytes) :
    (s.recipeWrite b p bs).modes = s.modes := (State.recipeWrite_talks s b p bs).modes
@[simp] theorem State.recipeWrite_fuses (s : State) (b : Option Nat) (p : Nat) (bs : Bytes) :
    (s.recipeWrite b p bs).fuses = s.fuses := (State.recipeWrite_talks s b p bs).fuses
@[simp] theorem State.recipeWrite_trivet (s : State) (b : Option Nat) (p : Nat) (bs : Bytes) :
    (s.recipeWrite b p bs).trivet = s.trivet := (State.recipeWrite_talks s b p bs).trivet
@[simp] theorem State.recipeWrite_tamper (s : State) (b : Option Nat) (p : Nat) (bs : Bytes) :
    (s.recipeWrite b p bs).tamper = s.tamper := (State.recipeWrite_talks s b p bs).tamper
@[simp] theorem State.recipeWrite_power (s : State) (b : Option Nat) (p : Nat) (bs : Bytes) :
    (s.recipeWrite b p bs).power = s.power := (State.recipeWrite_talks s b p bs).power
@[simp] theorem State.recipeWrite_pkg (s : State) (b : Option Nat) (p : Nat) (bs : Bytes) :
    (s.recipeWrite b p bs).pkg = s.pkg := (State.recipeWrite_talks s b p bs).pkg
@[simp] theorem State.recipeWrite_keys (s : State) (b : Option Nat) (p : Nat) (bs : Bytes) :
    (s.recipeWrite b p bs).keys = s.keys := (State.recipeWrite_talks s b p bs).keys
@[simp] theorem State.recipeWrite_cld (s : State) (b : Option Nat) (p : Nat) (bs : Bytes) :
    (s.recipeWrite b p bs).cld = s.cld := (State.recipeWrite_talks s b p bs).cld
@[simp] theorem State.recipeWrite_eng (s : State) (b : Option Nat) (p : Nat) (bs : Bytes) :
    (s.recipeWrite b p bs).eng = s.eng := (State.recipeWrite_talks s b p bs).eng
@[simp] theorem State.recipeWrite_whisk (s : State) (b : Option Nat) (p : Nat) (bs : Bytes) :
    (s.recipeWrite b p bs).whisk = s.whisk := (State.recipeWrite_talks s b p bs).whisk
@[simp] theorem State.recipeWrite_tl (s : State) (b : Option Nat) (p : Nat) (bs : Bytes) :
    (s.recipeWrite b p bs).tl = s.tl := (State.recipeWrite_talks s b p bs).tl
@[simp] theorem State.recipeWrite_cal (s : State) (b : Option Nat) (p : Nat) (bs : Bytes) :
    (s.recipeWrite b p bs).cal = s.cal := (State.recipeWrite_talks s b p bs).cal
@[simp] theorem State.recipeWrite_mkt (s : State) (b : Option Nat) (p : Nat) (bs : Bytes) :
    (s.recipeWrite b p bs).mkt = s.mkt := (State.recipeWrite_talks s b p bs).mkt
@[simp] theorem State.recipeWrite_str (s : State) (b : Option Nat) (p : Nat) (bs : Bytes) :
    (s.recipeWrite b p bs).str = s.str := (State.recipeWrite_talks s b p bs).str
@[simp] theorem State.recipeWrite_cus (s : State) (b : Option Nat) (p : Nat) (bs : Bytes) :
    (s.recipeWrite b p bs).cus = s.cus := (State.recipeWrite_talks s b p bs).cus
@[simp] theorem State.recipeWrite_aud (s : State) (b : Option Nat) (p : Nat) (bs : Bytes) :
    (s.recipeWrite b p bs).aud = s.aud := (State.recipeWrite_talks s b p bs).aud
@[simp] theorem State.recipeWrite_now (s : State) (b : Option Nat) (p : Nat) (bs : Bytes) :
    (s.recipeWrite b p bs).now = s.now := (State.recipeWrite_talks s b p bs).now
@[simp] theorem State.recipeWrite_free (s : State) (b : Option Nat) (p : Nat) (bs : Bytes) :
    (s.recipeWrite b p bs).free = s.free := (State.recipeWrite_talks s b p bs).free
@[simp] theorem State.recipeWrite_completions (s : State) (b : Option Nat) (p : Nat) (bs : Bytes) :
    (s.recipeWrite b p bs).completions = s.completions := (State.recipeWrite_talks s b p bs).completions
@[simp] theorem State.recipeWrite_pending (s : State) (b : Option Nat) (p : Nat) (bs : Bytes) :
    (s.recipeWrite b p bs).pending = s.pending := (State.recipeWrite_talks s b p bs).pending

/-! ### State.flushStores -/

theorem State.flushStores_talks (s : State) (n : Nat) : Talks s (s.flushStores n) := by
  unfold State.flushStores
  exact (Talks.foldl _ (fun s _ => State.recipeWrite_talks s _ _ _) _ s).trans (State.setCtx_talks _ _ _)

@[simp] theorem State.flushStores_modes (s : State) (n : Nat) :
    (s.flushStores n).modes = s.modes := (State.flushStores_talks s n).modes
@[simp] theorem State.flushStores_fuses (s : State) (n : Nat) :
    (s.flushStores n).fuses = s.fuses := (State.flushStores_talks s n).fuses
@[simp] theorem State.flushStores_trivet (s : State) (n : Nat) :
    (s.flushStores n).trivet = s.trivet := (State.flushStores_talks s n).trivet
@[simp] theorem State.flushStores_tamper (s : State) (n : Nat) :
    (s.flushStores n).tamper = s.tamper := (State.flushStores_talks s n).tamper
@[simp] theorem State.flushStores_power (s : State) (n : Nat) :
    (s.flushStores n).power = s.power := (State.flushStores_talks s n).power
@[simp] theorem State.flushStores_pkg (s : State) (n : Nat) :
    (s.flushStores n).pkg = s.pkg := (State.flushStores_talks s n).pkg
@[simp] theorem State.flushStores_keys (s : State) (n : Nat) :
    (s.flushStores n).keys = s.keys := (State.flushStores_talks s n).keys
@[simp] theorem State.flushStores_cld (s : State) (n : Nat) :
    (s.flushStores n).cld = s.cld := (State.flushStores_talks s n).cld
@[simp] theorem State.flushStores_eng (s : State) (n : Nat) :
    (s.flushStores n).eng = s.eng := (State.flushStores_talks s n).eng
@[simp] theorem State.flushStores_whisk (s : State) (n : Nat) :
    (s.flushStores n).whisk = s.whisk := (State.flushStores_talks s n).whisk
@[simp] theorem State.flushStores_tl (s : State) (n : Nat) :
    (s.flushStores n).tl = s.tl := (State.flushStores_talks s n).tl
@[simp] theorem State.flushStores_cal (s : State) (n : Nat) :
    (s.flushStores n).cal = s.cal := (State.flushStores_talks s n).cal
@[simp] theorem State.flushStores_mkt (s : State) (n : Nat) :
    (s.flushStores n).mkt = s.mkt := (State.flushStores_talks s n).mkt
@[simp] theorem State.flushStores_str (s : State) (n : Nat) :
    (s.flushStores n).str = s.str := (State.flushStores_talks s n).str
@[simp] theorem State.flushStores_cus (s : State) (n : Nat) :
    (s.flushStores n).cus = s.cus := (State.flushStores_talks s n).cus
@[simp] theorem State.flushStores_aud (s : State) (n : Nat) :
    (s.flushStores n).aud = s.aud := (State.flushStores_talks s n).aud
@[simp] theorem State.flushStores_now (s : State) (n : Nat) :
    (s.flushStores n).now = s.now := (State.flushStores_talks s n).now
@[simp] theorem State.flushStores_free (s : State) (n : Nat) :
    (s.flushStores n).free = s.free := (State.flushStores_talks s n).free
@[simp] theorem State.flushStores_completions (s : State) (n : Nat) :
    (s.flushStores n).completions = s.completions := (State.flushStores_talks s n).completions
@[simp] theorem State.flushStores_pending (s : State) (n : Nat) :
    (s.flushStores n).pending = s.pending := (State.flushStores_talks s n).pending

/-! ### State.worldSwitch -/

theorem State.worldSwitch_talks (s : State) (n : Nat) : Talks s (s.worldSwitch n) := by
  unfold State.worldSwitch
  exact Talks.foldl _ (fun s _ => State.flushStores_talks s _) _ s

@[simp] theorem State.worldSwitch_modes (s : State) (n : Nat) :
    (s.worldSwitch n).modes = s.modes := (State.worldSwitch_talks s n).modes
@[simp] theorem State.worldSwitch_fuses (s : State) (n : Nat) :
    (s.worldSwitch n).fuses = s.fuses := (State.worldSwitch_talks s n).fuses
@[simp] theorem State.worldSwitch_trivet (s : State) (n : Nat) :
    (s.worldSwitch n).trivet = s.trivet := (State.worldSwitch_talks s n).trivet
@[simp] theorem State.worldSwitch_tamper (s : State) (n : Nat) :
    (s.worldSwitch n).tamper = s.tamper := (State.worldSwitch_talks s n).tamper
@[simp] theorem State.worldSwitch_power (s : State) (n : Nat) :
    (s.worldSwitch n).power = s.power := (State.worldSwitch_talks s n).power
@[simp] theorem State.worldSwitch_pkg (s : State) (n : Nat) :
    (s.worldSwitch n).pkg = s.pkg := (State.worldSwitch_talks s n).pkg
@[simp] theorem State.worldSwitch_keys (s : State) (n : Nat) :
    (s.worldSwitch n).keys = s.keys := (State.worldSwitch_talks s n).keys
@[simp] theorem State.worldSwitch_cld (s : State) (n : Nat) :
    (s.worldSwitch n).cld = s.cld := (State.worldSwitch_talks s n).cld
@[simp] theorem State.worldSwitch_eng (s : State) (n : Nat) :
    (s.worldSwitch n).eng = s.eng := (State.worldSwitch_talks s n).eng
@[simp] theorem State.worldSwitch_whisk (s : State) (n : Nat) :
    (s.worldSwitch n).whisk = s.whisk := (State.worldSwitch_talks s n).whisk
@[simp] theorem State.worldSwitch_tl (s : State) (n : Nat) :
    (s.worldSwitch n).tl = s.tl := (State.worldSwitch_talks s n).tl
@[simp] theorem State.worldSwitch_cal (s : State) (n : Nat) :
    (s.worldSwitch n).cal = s.cal := (State.worldSwitch_talks s n).cal
@[simp] theorem State.worldSwitch_mkt (s : State) (n : Nat) :
    (s.worldSwitch n).mkt = s.mkt := (State.worldSwitch_talks s n).mkt
@[simp] theorem State.worldSwitch_str (s : State) (n : Nat) :
    (s.worldSwitch n).str = s.str := (State.worldSwitch_talks s n).str
@[simp] theorem State.worldSwitch_cus (s : State) (n : Nat) :
    (s.worldSwitch n).cus = s.cus := (State.worldSwitch_talks s n).cus
@[simp] theorem State.worldSwitch_aud (s : State) (n : Nat) :
    (s.worldSwitch n).aud = s.aud := (State.worldSwitch_talks s n).aud
@[simp] theorem State.worldSwitch_now (s : State) (n : Nat) :
    (s.worldSwitch n).now = s.now := (State.worldSwitch_talks s n).now
@[simp] theorem State.worldSwitch_free (s : State) (n : Nat) :
    (s.worldSwitch n).free = s.free := (State.worldSwitch_talks s n).free
@[simp] theorem State.worldSwitch_completions (s : State) (n : Nat) :
    (s.worldSwitch n).completions = s.completions := (State.worldSwitch_talks s n).completions
@[simp] theorem State.worldSwitch_pending (s : State) (n : Nat) :
    (s.worldSwitch n).pending = s.pending := (State.worldSwitch_talks s n).pending

/-! ### State.runCtx -/

theorem State.runCtx_talks (s : State) (n : Nat) : Talks s (s.runCtx n) := by
  unfold State.runCtx
  exact (Talks.trans ⟨_, _, _, _, _, rfl⟩ (State.worldSwitch_talks _ _)).trans (State.setCtx_talks _ _ _)

@[simp] theorem State.runCtx_modes (s : State) (n : Nat) :
    (s.runCtx n).modes = s.modes := (State.runCtx_talks s n).modes
@[simp] theorem State.runCtx_fuses (s : State) (n : Nat) :
    (s.runCtx n).fuses = s.fuses := (State.runCtx_talks s n).fuses
@[simp] theorem State.runCtx_trivet (s : State) (n : Nat) :
    (s.runCtx n).trivet = s.trivet := (State.runCtx_talks s n).trivet
@[simp] theorem State.runCtx_tamper (s : State) (n : Nat) :
    (s.runCtx n).tamper = s.tamper := (State.runCtx_talks s n).tamper
@[simp] theorem State.runCtx_power (s : State) (n : Nat) :
    (s.runCtx n).power = s.power := (State.runCtx_talks s n).power
@[simp] theorem State.runCtx_pkg (s : State) (n : Nat) :
    (s.runCtx n).pkg = s.pkg := (State.runCtx_talks s n).pkg
@[simp] theorem State.runCtx_keys (s : State) (n : Nat) :
    (s.runCtx n).keys = s.keys := (State.runCtx_talks s n).keys
@[simp] theorem State.runCtx_cld (s : State) (n : Nat) :
    (s.runCtx n).cld = s.cld := (State.runCtx_talks s n).cld
@[simp] theorem State.runCtx_eng (s : State) (n : Nat) :
    (s.runCtx n).eng = s.eng := (State.runCtx_talks s n).eng
@[simp] theorem State.runCtx_whisk (s : State) (n : Nat) :
    (s.runCtx n).whisk = s.whisk := (State.runCtx_talks s n).whisk
@[simp] theorem State.runCtx_tl (s : State) (n : Nat) :
    (s.runCtx n).tl = s.tl := (State.runCtx_talks s n).tl
@[simp] theorem State.runCtx_cal (s : State) (n : Nat) :
    (s.runCtx n).cal = s.cal := (State.runCtx_talks s n).cal
@[simp] theorem State.runCtx_mkt (s : State) (n : Nat) :
    (s.runCtx n).mkt = s.mkt := (State.runCtx_talks s n).mkt
@[simp] theorem State.runCtx_str (s : State) (n : Nat) :
    (s.runCtx n).str = s.str := (State.runCtx_talks s n).str
@[simp] theorem State.runCtx_cus (s : State) (n : Nat) :
    (s.runCtx n).cus = s.cus := (State.runCtx_talks s n).cus
@[simp] theorem State.runCtx_aud (s : State) (n : Nat) :
    (s.runCtx n).aud = s.aud := (State.runCtx_talks s n).aud
@[simp] theorem State.runCtx_now (s : State) (n : Nat) :
    (s.runCtx n).now = s.now := (State.runCtx_talks s n).now
@[simp] theorem State.runCtx_free (s : State) (n : Nat) :
    (s.runCtx n).free = s.free := (State.runCtx_talks s n).free
@[simp] theorem State.runCtx_completions (s : State) (n : Nat) :
    (s.runCtx n).completions = s.completions := (State.runCtx_talks s n).completions
@[simp] theorem State.runCtx_pending (s : State) (n : Nat) :
    (s.runCtx n).pending = s.pending := (State.runCtx_talks s n).pending

/-! ### State.switchFrom -/

theorem State.switchFrom_talks (s : State) (n : Nat) : Talks s (s.switchFrom n) := by
  unfold State.switchFrom
  split
  · exact Talks.refl s
  · dsimp only
    split
    · exact Talks.refl s
    · exact State.runCtx_talks s _

@[simp] theorem State.switchFrom_modes (s : State) (n : Nat) :
    (s.switchFrom n).modes = s.modes := (State.switchFrom_talks s n).modes
@[simp] theorem State.switchFrom_fuses (s : State) (n : Nat) :
    (s.switchFrom n).fuses = s.fuses := (State.switchFrom_talks s n).fuses
@[simp] theorem State.switchFrom_trivet (s : State) (n : Nat) :
    (s.switchFrom n).trivet = s.trivet := (State.switchFrom_talks s n).trivet
@[simp] theorem State.switchFrom_tamper (s : State) (n : Nat) :
    (s.switchFrom n).tamper = s.tamper := (State.switchFrom_talks s n).tamper
@[simp] theorem State.switchFrom_power (s : State) (n : Nat) :
    (s.switchFrom n).power = s.power := (State.switchFrom_talks s n).power
@[simp] theorem State.switchFrom_pkg (s : State) (n : Nat) :
    (s.switchFrom n).pkg = s.pkg := (State.switchFrom_talks s n).pkg
@[simp] theorem State.switchFrom_keys (s : State) (n : Nat) :
    (s.switchFrom n).keys = s.keys := (State.switchFrom_talks s n).keys
@[simp] theorem State.switchFrom_cld (s : State) (n : Nat) :
    (s.switchFrom n).cld = s.cld := (State.switchFrom_talks s n).cld
@[simp] theorem State.switchFrom_eng (s : State) (n : Nat) :
    (s.switchFrom n).eng = s.eng := (State.switchFrom_talks s n).eng
@[simp] theorem State.switchFrom_whisk (s : State) (n : Nat) :
    (s.switchFrom n).whisk = s.whisk := (State.switchFrom_talks s n).whisk
@[simp] theorem State.switchFrom_tl (s : State) (n : Nat) :
    (s.switchFrom n).tl = s.tl := (State.switchFrom_talks s n).tl
@[simp] theorem State.switchFrom_cal (s : State) (n : Nat) :
    (s.switchFrom n).cal = s.cal := (State.switchFrom_talks s n).cal
@[simp] theorem State.switchFrom_mkt (s : State) (n : Nat) :
    (s.switchFrom n).mkt = s.mkt := (State.switchFrom_talks s n).mkt
@[simp] theorem State.switchFrom_str (s : State) (n : Nat) :
    (s.switchFrom n).str = s.str := (State.switchFrom_talks s n).str
@[simp] theorem State.switchFrom_cus (s : State) (n : Nat) :
    (s.switchFrom n).cus = s.cus := (State.switchFrom_talks s n).cus
@[simp] theorem State.switchFrom_aud (s : State) (n : Nat) :
    (s.switchFrom n).aud = s.aud := (State.switchFrom_talks s n).aud
@[simp] theorem State.switchFrom_now (s : State) (n : Nat) :
    (s.switchFrom n).now = s.now := (State.switchFrom_talks s n).now
@[simp] theorem State.switchFrom_free (s : State) (n : Nat) :
    (s.switchFrom n).free = s.free := (State.switchFrom_talks s n).free
@[simp] theorem State.switchFrom_completions (s : State) (n : Nat) :
    (s.switchFrom n).completions = s.completions := (State.switchFrom_talks s n).completions
@[simp] theorem State.switchFrom_pending (s : State) (n : Nat) :
    (s.switchFrom n).pending = s.pending := (State.switchFrom_talks s n).pending

/-! ### State.wake -/

theorem State.wake_talks (s : State) (n : Nat) (e : Bool) : Talks s (s.wake n e) := by
  unfold State.wake
  dsimp only
  split <;> (try split) <;>
    first
    | exact (State.setCtx_talks _ _ _).trans (State.runCtx_talks _ _)
    | exact State.setCtx_talks _ _ _

@[simp] theorem State.wake_modes (s : State) (n : Nat) (e : Bool) :
    (s.wake n e).modes = s.modes := (State.wake_talks s n e).modes
@[simp] theorem State.wake_fuses (s : State) (n : Nat) (e : Bool) :
    (s.wake n e).fuses = s.fuses := (State.wake_talks s n e).fuses
@[simp] theorem State.wake_trivet (s : State) (n : Nat) (e : Bool) :
    (s.wake n e).trivet = s.trivet := (State.wake_talks s n e).trivet
@[simp] theorem State.wake_tamper (s : State) (n : Nat) (e : Bool) :
    (s.wake n e).tamper = s.tamper := (State.wake_talks s n e).tamper
@[simp] theorem State.wake_power (s : State) (n : Nat) (e : Bool) :
    (s.wake n e).power = s.power := (State.wake_talks s n e).power
@[simp] theorem State.wake_pkg (s : State) (n : Nat) (e : Bool) :
    (s.wake n e).pkg = s.pkg := (State.wake_talks s n e).pkg
@[simp] theorem State.wake_keys (s : State) (n : Nat) (e : Bool) :
    (s.wake n e).keys = s.keys := (State.wake_talks s n e).keys
@[simp] theorem State.wake_cld (s : State) (n : Nat) (e : Bool) :
    (s.wake n e).cld = s.cld := (State.wake_talks s n e).cld
@[simp] theorem State.wake_eng (s : State) (n : Nat) (e : Bool) :
    (s.wake n e).eng = s.eng := (State.wake_talks s n e).eng
@[simp] theorem State.wake_whisk (s : State) (n : Nat) (e : Bool) :
    (s.wake n e).whisk = s.whisk := (State.wake_talks s n e).whisk
@[simp] theorem State.wake_tl (s : State) (n : Nat) (e : Bool) :
    (s.wake n e).tl = s.tl := (State.wake_talks s n e).tl
@[simp] theorem State.wake_cal (s : State) (n : Nat) (e : Bool) :
    (s.wake n e).cal = s.cal := (State.wake_talks s n e).cal
@[simp] theorem State.wake_mkt (s : State) (n : Nat) (e : Bool) :
    (s.wake n e).mkt = s.mkt := (State.wake_talks s n e).mkt
@[simp] theorem State.wake_str (s : State) (n : Nat) (e : Bool) :
    (s.wake n e).str = s.str := (State.wake_talks s n e).str
@[simp] theorem State.wake_cus (s : State) (n : Nat) (e : Bool) :
    (s.wake n e).cus = s.cus := (State.wake_talks s n e).cus
@[simp] theorem State.wake_aud (s : State) (n : Nat) (e : Bool) :
    (s.wake n e).aud = s.aud := (State.wake_talks s n e).aud
@[simp] theorem State.wake_now (s : State) (n : Nat) (e : Bool) :
    (s.wake n e).now = s.now := (State.wake_talks s n e).now
@[simp] theorem State.wake_free (s : State) (n : Nat) (e : Bool) :
    (s.wake n e).free = s.free := (State.wake_talks s n e).free
@[simp] theorem State.wake_completions (s : State) (n : Nat) (e : Bool) :
    (s.wake n e).completions = s.completions := (State.wake_talks s n e).completions
@[simp] theorem State.wake_pending (s : State) (n : Nat) (e : Bool) :
    (s.wake n e).pending = s.pending := (State.wake_talks s n e).pending

/-! ### State.signal -/

theorem State.signal_talks (s : State) (v : Nat) : Talks s (s.signal v) := by
  unfold State.signal
  split
  · exact Talks.refl s
  · split <;> exact ⟨_, _, _, _, _, rfl⟩

@[simp] theorem State.signal_modes (s : State) (v : Nat) :
    (s.signal v).modes = s.modes := (State.signal_talks s v).modes
@[simp] theorem State.signal_fuses (s : State) (v : Nat) :
    (s.signal v).fuses = s.fuses := (State.signal_talks s v).fuses
@[simp] theorem State.signal_trivet (s : State) (v : Nat) :
    (s.signal v).trivet = s.trivet := (State.signal_talks s v).trivet
@[simp] theorem State.signal_tamper (s : State) (v : Nat) :
    (s.signal v).tamper = s.tamper := (State.signal_talks s v).tamper
@[simp] theorem State.signal_power (s : State) (v : Nat) :
    (s.signal v).power = s.power := (State.signal_talks s v).power
@[simp] theorem State.signal_pkg (s : State) (v : Nat) :
    (s.signal v).pkg = s.pkg := (State.signal_talks s v).pkg
@[simp] theorem State.signal_keys (s : State) (v : Nat) :
    (s.signal v).keys = s.keys := (State.signal_talks s v).keys
@[simp] theorem State.signal_cld (s : State) (v : Nat) :
    (s.signal v).cld = s.cld := (State.signal_talks s v).cld
@[simp] theorem State.signal_eng (s : State) (v : Nat) :
    (s.signal v).eng = s.eng := (State.signal_talks s v).eng
@[simp] theorem State.signal_whisk (s : State) (v : Nat) :
    (s.signal v).whisk = s.whisk := (State.signal_talks s v).whisk
@[simp] theorem State.signal_tl (s : State) (v : Nat) :
    (s.signal v).tl = s.tl := (State.signal_talks s v).tl
@[simp] theorem State.signal_cal (s : State) (v : Nat) :
    (s.signal v).cal = s.cal := (State.signal_talks s v).cal
@[simp] theorem State.signal_mkt (s : State) (v : Nat) :
    (s.signal v).mkt = s.mkt := (State.signal_talks s v).mkt
@[simp] theorem State.signal_str (s : State) (v : Nat) :
    (s.signal v).str = s.str := (State.signal_talks s v).str
@[simp] theorem State.signal_cus (s : State) (v : Nat) :
    (s.signal v).cus = s.cus := (State.signal_talks s v).cus
@[simp] theorem State.signal_aud (s : State) (v : Nat) :
    (s.signal v).aud = s.aud := (State.signal_talks s v).aud
@[simp] theorem State.signal_now (s : State) (v : Nat) :
    (s.signal v).now = s.now := (State.signal_talks s v).now
@[simp] theorem State.signal_free (s : State) (v : Nat) :
    (s.signal v).free = s.free := (State.signal_talks s v).free
@[simp] theorem State.signal_completions (s : State) (v : Nat) :
    (s.signal v).completions = s.completions := (State.signal_talks s v).completions
@[simp] theorem State.signal_pending (s : State) (v : Nat) :
    (s.signal v).pending = s.pending := (State.signal_talks s v).pending

/-! ### State.pushRaw -/

theorem State.pushRaw_talks (s : State) (p : Fin 8) (a : Bool) (r : LogRec) : Talks s (s.pushRaw p a r) := by
  unfold State.pushRaw
  dsimp only
  split
  · exact ⟨_, _, _, _, _, rfl⟩
  · split <;> exact ⟨_, _, _, _, _, rfl⟩

@[simp] theorem State.pushRaw_modes (s : State) (p : Fin 8) (a : Bool) (r : LogRec) :
    (s.pushRaw p a r).modes = s.modes := (State.pushRaw_talks s p a r).modes
@[simp] theorem State.pushRaw_fuses (s : State) (p : Fin 8) (a : Bool) (r : LogRec) :
    (s.pushRaw p a r).fuses = s.fuses := (State.pushRaw_talks s p a r).fuses
@[simp] theorem State.pushRaw_trivet (s : State) (p : Fin 8) (a : Bool) (r : LogRec) :
    (s.pushRaw p a r).trivet = s.trivet := (State.pushRaw_talks s p a r).trivet
@[simp] theorem State.pushRaw_tamper (s : State) (p : Fin 8) (a : Bool) (r : LogRec) :
    (s.pushRaw p a r).tamper = s.tamper := (State.pushRaw_talks s p a r).tamper
@[simp] theorem State.pushRaw_power (s : State) (p : Fin 8) (a : Bool) (r : LogRec) :
    (s.pushRaw p a r).power = s.power := (State.pushRaw_talks s p a r).power
@[simp] theorem State.pushRaw_pkg (s : State) (p : Fin 8) (a : Bool) (r : LogRec) :
    (s.pushRaw p a r).pkg = s.pkg := (State.pushRaw_talks s p a r).pkg
@[simp] theorem State.pushRaw_keys (s : State) (p : Fin 8) (a : Bool) (r : LogRec) :
    (s.pushRaw p a r).keys = s.keys := (State.pushRaw_talks s p a r).keys
@[simp] theorem State.pushRaw_cld (s : State) (p : Fin 8) (a : Bool) (r : LogRec) :
    (s.pushRaw p a r).cld = s.cld := (State.pushRaw_talks s p a r).cld
@[simp] theorem State.pushRaw_eng (s : State) (p : Fin 8) (a : Bool) (r : LogRec) :
    (s.pushRaw p a r).eng = s.eng := (State.pushRaw_talks s p a r).eng
@[simp] theorem State.pushRaw_whisk (s : State) (p : Fin 8) (a : Bool) (r : LogRec) :
    (s.pushRaw p a r).whisk = s.whisk := (State.pushRaw_talks s p a r).whisk
@[simp] theorem State.pushRaw_tl (s : State) (p : Fin 8) (a : Bool) (r : LogRec) :
    (s.pushRaw p a r).tl = s.tl := (State.pushRaw_talks s p a r).tl
@[simp] theorem State.pushRaw_cal (s : State) (p : Fin 8) (a : Bool) (r : LogRec) :
    (s.pushRaw p a r).cal = s.cal := (State.pushRaw_talks s p a r).cal
@[simp] theorem State.pushRaw_mkt (s : State) (p : Fin 8) (a : Bool) (r : LogRec) :
    (s.pushRaw p a r).mkt = s.mkt := (State.pushRaw_talks s p a r).mkt
@[simp] theorem State.pushRaw_str (s : State) (p : Fin 8) (a : Bool) (r : LogRec) :
    (s.pushRaw p a r).str = s.str := (State.pushRaw_talks s p a r).str
@[simp] theorem State.pushRaw_cus (s : State) (p : Fin 8) (a : Bool) (r : LogRec) :
    (s.pushRaw p a r).cus = s.cus := (State.pushRaw_talks s p a r).cus
@[simp] theorem State.pushRaw_aud (s : State) (p : Fin 8) (a : Bool) (r : LogRec) :
    (s.pushRaw p a r).aud = s.aud := (State.pushRaw_talks s p a r).aud
@[simp] theorem State.pushRaw_now (s : State) (p : Fin 8) (a : Bool) (r : LogRec) :
    (s.pushRaw p a r).now = s.now := (State.pushRaw_talks s p a r).now
@[simp] theorem State.pushRaw_free (s : State) (p : Fin 8) (a : Bool) (r : LogRec) :
    (s.pushRaw p a r).free = s.free := (State.pushRaw_talks s p a r).free
@[simp] theorem State.pushRaw_completions (s : State) (p : Fin 8) (a : Bool) (r : LogRec) :
    (s.pushRaw p a r).completions = s.completions := (State.pushRaw_talks s p a r).completions
@[simp] theorem State.pushRaw_pending (s : State) (p : Fin 8) (a : Bool) (r : LogRec) :
    (s.pushRaw p a r).pending = s.pending := (State.pushRaw_talks s p a r).pending

/-! ### State.postEvent -/

theorem State.postEvent_talks (s : State) (k : Nat) (e : Event) : Talks s (s.postEvent k e) := by
  unfold State.postEvent
  split
  · split
    · exact (State.setCtx_talks _ _ _).trans (State.wake_talks _ _ _)
    · exact Talks.refl s
  · dsimp only
    split
    · exact ⟨_, _, _, _, _, rfl⟩
    · exact Talks.trans ⟨_, _, _, _, _, rfl⟩ (State.pushRaw_talks _ _ _ _)

@[simp] theorem State.postEvent_modes (s : State) (k : Nat) (e : Event) :
    (s.postEvent k e).modes = s.modes := (State.postEvent_talks s k e).modes
@[simp] theorem State.postEvent_fuses (s : State) (k : Nat) (e : Event) :
    (s.postEvent k e).fuses = s.fuses := (State.postEvent_talks s k e).fuses
@[simp] theorem State.postEvent_trivet (s : State) (k : Nat) (e : Event) :
    (s.postEvent k e).trivet = s.trivet := (State.postEvent_talks s k e).trivet
@[simp] theorem State.postEvent_tamper (s : State) (k : Nat) (e : Event) :
    (s.postEvent k e).tamper = s.tamper := (State.postEvent_talks s k e).tamper
@[simp] theorem State.postEvent_power (s : State) (k : Nat) (e : Event) :
    (s.postEvent k e).power = s.power := (State.postEvent_talks s k e).power
@[simp] theorem State.postEvent_pkg (s : State) (k : Nat) (e : Event) :
    (s.postEvent k e).pkg = s.pkg := (State.postEvent_talks s k e).pkg
@[simp] theorem State.postEvent_keys (s : State) (k : Nat) (e : Event) :
    (s.postEvent k e).keys = s.keys := (State.postEvent_talks s k e).keys
@[simp] theorem State.postEvent_cld (s : State) (k : Nat) (e : Event) :
    (s.postEvent k e).cld = s.cld := (State.postEvent_talks s k e).cld
@[simp] theorem State.postEvent_eng (s : State) (k : Nat) (e : Event) :
    (s.postEvent k e).eng = s.eng := (State.postEvent_talks s k e).eng
@[simp] theorem State.postEvent_whisk (s : State) (k : Nat) (e : Event) :
    (s.postEvent k e).whisk = s.whisk := (State.postEvent_talks s k e).whisk
@[simp] theorem State.postEvent_tl (s : State) (k : Nat) (e : Event) :
    (s.postEvent k e).tl = s.tl := (State.postEvent_talks s k e).tl
@[simp] theorem State.postEvent_cal (s : State) (k : Nat) (e : Event) :
    (s.postEvent k e).cal = s.cal := (State.postEvent_talks s k e).cal
@[simp] theorem State.postEvent_mkt (s : State) (k : Nat) (e : Event) :
    (s.postEvent k e).mkt = s.mkt := (State.postEvent_talks s k e).mkt
@[simp] theorem State.postEvent_str (s : State) (k : Nat) (e : Event) :
    (s.postEvent k e).str = s.str := (State.postEvent_talks s k e).str
@[simp] theorem State.postEvent_cus (s : State) (k : Nat) (e : Event) :
    (s.postEvent k e).cus = s.cus := (State.postEvent_talks s k e).cus
@[simp] theorem State.postEvent_aud (s : State) (k : Nat) (e : Event) :
    (s.postEvent k e).aud = s.aud := (State.postEvent_talks s k e).aud
@[simp] theorem State.postEvent_now (s : State) (k : Nat) (e : Event) :
    (s.postEvent k e).now = s.now := (State.postEvent_talks s k e).now
@[simp] theorem State.postEvent_free (s : State) (k : Nat) (e : Event) :
    (s.postEvent k e).free = s.free := (State.postEvent_talks s k e).free
@[simp] theorem State.postEvent_completions (s : State) (k : Nat) (e : Event) :
    (s.postEvent k e).completions = s.completions := (State.postEvent_talks s k e).completions
@[simp] theorem State.postEvent_pending (s : State) (k : Nat) (e : Event) :
    (s.postEvent k e).pending = s.pending := (State.postEvent_talks s k e).pending

/-! ### State.postSource -/

theorem State.postSource_talks (s : State) (n : Nat) : Talks s (s.postSource n) := by
  unfold State.postSource
  dsimp only
  split
  · split
    · exact Talks.refl s
    · exact State.postEvent_talks s _ _
  · split
    · exact State.signal_talks s _
    · exact (State.postEvent_talks s _ _).trans (State.signal_talks _ _)

@[simp] theorem State.postSource_modes (s : State) (n : Nat) :
    (s.postSource n).modes = s.modes := (State.postSource_talks s n).modes
@[simp] theorem State.postSource_fuses (s : State) (n : Nat) :
    (s.postSource n).fuses = s.fuses := (State.postSource_talks s n).fuses
@[simp] theorem State.postSource_trivet (s : State) (n : Nat) :
    (s.postSource n).trivet = s.trivet := (State.postSource_talks s n).trivet
@[simp] theorem State.postSource_tamper (s : State) (n : Nat) :
    (s.postSource n).tamper = s.tamper := (State.postSource_talks s n).tamper
@[simp] theorem State.postSource_power (s : State) (n : Nat) :
    (s.postSource n).power = s.power := (State.postSource_talks s n).power
@[simp] theorem State.postSource_pkg (s : State) (n : Nat) :
    (s.postSource n).pkg = s.pkg := (State.postSource_talks s n).pkg
@[simp] theorem State.postSource_keys (s : State) (n : Nat) :
    (s.postSource n).keys = s.keys := (State.postSource_talks s n).keys
@[simp] theorem State.postSource_cld (s : State) (n : Nat) :
    (s.postSource n).cld = s.cld := (State.postSource_talks s n).cld
@[simp] theorem State.postSource_eng (s : State) (n : Nat) :
    (s.postSource n).eng = s.eng := (State.postSource_talks s n).eng
@[simp] theorem State.postSource_whisk (s : State) (n : Nat) :
    (s.postSource n).whisk = s.whisk := (State.postSource_talks s n).whisk
@[simp] theorem State.postSource_tl (s : State) (n : Nat) :
    (s.postSource n).tl = s.tl := (State.postSource_talks s n).tl
@[simp] theorem State.postSource_cal (s : State) (n : Nat) :
    (s.postSource n).cal = s.cal := (State.postSource_talks s n).cal
@[simp] theorem State.postSource_mkt (s : State) (n : Nat) :
    (s.postSource n).mkt = s.mkt := (State.postSource_talks s n).mkt
@[simp] theorem State.postSource_str (s : State) (n : Nat) :
    (s.postSource n).str = s.str := (State.postSource_talks s n).str
@[simp] theorem State.postSource_cus (s : State) (n : Nat) :
    (s.postSource n).cus = s.cus := (State.postSource_talks s n).cus
@[simp] theorem State.postSource_aud (s : State) (n : Nat) :
    (s.postSource n).aud = s.aud := (State.postSource_talks s n).aud
@[simp] theorem State.postSource_now (s : State) (n : Nat) :
    (s.postSource n).now = s.now := (State.postSource_talks s n).now
@[simp] theorem State.postSource_free (s : State) (n : Nat) :
    (s.postSource n).free = s.free := (State.postSource_talks s n).free
@[simp] theorem State.postSource_completions (s : State) (n : Nat) :
    (s.postSource n).completions = s.completions := (State.postSource_talks s n).completions
@[simp] theorem State.postSource_pending (s : State) (n : Nat) :
    (s.postSource n).pending = s.pending := (State.postSource_talks s n).pending

/-! ### State.raise -/

theorem State.raise_talks (s : State) (a bit : Nat) : Talks s (s.raise a bit) := by
  unfold State.raise
  dsimp only
  split
  · exact State.setReg_talks _ _ _
  · exact (State.setReg_talks _ _ _).trans (Talks.foldl _ (fun s _ => State.postSource_talks s _) _ _)

@[simp] theorem State.raise_modes (s : State) (a bit : Nat) :
    (s.raise a bit).modes = s.modes := (State.raise_talks s a bit).modes
@[simp] theorem State.raise_fuses (s : State) (a bit : Nat) :
    (s.raise a bit).fuses = s.fuses := (State.raise_talks s a bit).fuses
@[simp] theorem State.raise_trivet (s : State) (a bit : Nat) :
    (s.raise a bit).trivet = s.trivet := (State.raise_talks s a bit).trivet
@[simp] theorem State.raise_tamper (s : State) (a bit : Nat) :
    (s.raise a bit).tamper = s.tamper := (State.raise_talks s a bit).tamper
@[simp] theorem State.raise_power (s : State) (a bit : Nat) :
    (s.raise a bit).power = s.power := (State.raise_talks s a bit).power
@[simp] theorem State.raise_pkg (s : State) (a bit : Nat) :
    (s.raise a bit).pkg = s.pkg := (State.raise_talks s a bit).pkg
@[simp] theorem State.raise_keys (s : State) (a bit : Nat) :
    (s.raise a bit).keys = s.keys := (State.raise_talks s a bit).keys
@[simp] theorem State.raise_cld (s : State) (a bit : Nat) :
    (s.raise a bit).cld = s.cld := (State.raise_talks s a bit).cld
@[simp] theorem State.raise_eng (s : State) (a bit : Nat) :
    (s.raise a bit).eng = s.eng := (State.raise_talks s a bit).eng
@[simp] theorem State.raise_whisk (s : State) (a bit : Nat) :
    (s.raise a bit).whisk = s.whisk := (State.raise_talks s a bit).whisk
@[simp] theorem State.raise_tl (s : State) (a bit : Nat) :
    (s.raise a bit).tl = s.tl := (State.raise_talks s a bit).tl
@[simp] theorem State.raise_cal (s : State) (a bit : Nat) :
    (s.raise a bit).cal = s.cal := (State.raise_talks s a bit).cal
@[simp] theorem State.raise_mkt (s : State) (a bit : Nat) :
    (s.raise a bit).mkt = s.mkt := (State.raise_talks s a bit).mkt
@[simp] theorem State.raise_str (s : State) (a bit : Nat) :
    (s.raise a bit).str = s.str := (State.raise_talks s a bit).str
@[simp] theorem State.raise_cus (s : State) (a bit : Nat) :
    (s.raise a bit).cus = s.cus := (State.raise_talks s a bit).cus
@[simp] theorem State.raise_aud (s : State) (a bit : Nat) :
    (s.raise a bit).aud = s.aud := (State.raise_talks s a bit).aud
@[simp] theorem State.raise_now (s : State) (a bit : Nat) :
    (s.raise a bit).now = s.now := (State.raise_talks s a bit).now
@[simp] theorem State.raise_free (s : State) (a bit : Nat) :
    (s.raise a bit).free = s.free := (State.raise_talks s a bit).free
@[simp] theorem State.raise_completions (s : State) (a bit : Nat) :
    (s.raise a bit).completions = s.completions := (State.raise_talks s a bit).completions
@[simp] theorem State.raise_pending (s : State) (a bit : Nat) :
    (s.raise a bit).pending = s.pending := (State.raise_talks s a bit).pending

/-! ### State.pushLog -/

theorem State.pushLog_talks (s : State) (p : Fin 8) (a : Bool) (r : LogRec) : Talks s (s.pushLog p a r) := by
  unfold State.pushLog
  dsimp only
  split
  · exact State.pushRaw_talks _ _ _ _
  · exact (State.pushRaw_talks _ _ _ _).trans (State.raise_talks _ _ _)

@[simp] theorem State.pushLog_modes (s : State) (p : Fin 8) (a : Bool) (r : LogRec) :
    (s.pushLog p a r).modes = s.modes := (State.pushLog_talks s p a r).modes
@[simp] theorem State.pushLog_fuses (s : State) (p : Fin 8) (a : Bool) (r : LogRec) :
    (s.pushLog p a r).fuses = s.fuses := (State.pushLog_talks s p a r).fuses
@[simp] theorem State.pushLog_trivet (s : State) (p : Fin 8) (a : Bool) (r : LogRec) :
    (s.pushLog p a r).trivet = s.trivet := (State.pushLog_talks s p a r).trivet
@[simp] theorem State.pushLog_tamper (s : State) (p : Fin 8) (a : Bool) (r : LogRec) :
    (s.pushLog p a r).tamper = s.tamper := (State.pushLog_talks s p a r).tamper
@[simp] theorem State.pushLog_power (s : State) (p : Fin 8) (a : Bool) (r : LogRec) :
    (s.pushLog p a r).power = s.power := (State.pushLog_talks s p a r).power
@[simp] theorem State.pushLog_pkg (s : State) (p : Fin 8) (a : Bool) (r : LogRec) :
    (s.pushLog p a r).pkg = s.pkg := (State.pushLog_talks s p a r).pkg
@[simp] theorem State.pushLog_keys (s : State) (p : Fin 8) (a : Bool) (r : LogRec) :
    (s.pushLog p a r).keys = s.keys := (State.pushLog_talks s p a r).keys
@[simp] theorem State.pushLog_cld (s : State) (p : Fin 8) (a : Bool) (r : LogRec) :
    (s.pushLog p a r).cld = s.cld := (State.pushLog_talks s p a r).cld
@[simp] theorem State.pushLog_eng (s : State) (p : Fin 8) (a : Bool) (r : LogRec) :
    (s.pushLog p a r).eng = s.eng := (State.pushLog_talks s p a r).eng
@[simp] theorem State.pushLog_whisk (s : State) (p : Fin 8) (a : Bool) (r : LogRec) :
    (s.pushLog p a r).whisk = s.whisk := (State.pushLog_talks s p a r).whisk
@[simp] theorem State.pushLog_tl (s : State) (p : Fin 8) (a : Bool) (r : LogRec) :
    (s.pushLog p a r).tl = s.tl := (State.pushLog_talks s p a r).tl
@[simp] theorem State.pushLog_cal (s : State) (p : Fin 8) (a : Bool) (r : LogRec) :
    (s.pushLog p a r).cal = s.cal := (State.pushLog_talks s p a r).cal
@[simp] theorem State.pushLog_mkt (s : State) (p : Fin 8) (a : Bool) (r : LogRec) :
    (s.pushLog p a r).mkt = s.mkt := (State.pushLog_talks s p a r).mkt
@[simp] theorem State.pushLog_str (s : State) (p : Fin 8) (a : Bool) (r : LogRec) :
    (s.pushLog p a r).str = s.str := (State.pushLog_talks s p a r).str
@[simp] theorem State.pushLog_cus (s : State) (p : Fin 8) (a : Bool) (r : LogRec) :
    (s.pushLog p a r).cus = s.cus := (State.pushLog_talks s p a r).cus
@[simp] theorem State.pushLog_aud (s : State) (p : Fin 8) (a : Bool) (r : LogRec) :
    (s.pushLog p a r).aud = s.aud := (State.pushLog_talks s p a r).aud
@[simp] theorem State.pushLog_now (s : State) (p : Fin 8) (a : Bool) (r : LogRec) :
    (s.pushLog p a r).now = s.now := (State.pushLog_talks s p a r).now
@[simp] theorem State.pushLog_free (s : State) (p : Fin 8) (a : Bool) (r : LogRec) :
    (s.pushLog p a r).free = s.free := (State.pushLog_talks s p a r).free
@[simp] theorem State.pushLog_completions (s : State) (p : Fin 8) (a : Bool) (r : LogRec) :
    (s.pushLog p a r).completions = s.completions := (State.pushLog_talks s p a r).completions
@[simp] theorem State.pushLog_pending (s : State) (p : Fin 8) (a : Bool) (r : LogRec) :
    (s.pushLog p a r).pending = s.pending := (State.pushLog_talks s p a r).pending

/-! ### State.logEvent -/

theorem State.logEvent_talks (s : State) (p : Fin 8) (b c : Nat) (v : BitVec 2) (x y z : Nat) : Talks s (s.logEvent p b c v x y z) := State.pushLog_talks _ _ _ _

@[simp] theorem State.logEvent_modes (s : State) (p : Fin 8) (b c : Nat) (v : BitVec 2) (x y z : Nat) :
    (s.logEvent p b c v x y z).modes = s.modes := (State.logEvent_talks s p b c v x y z).modes
@[simp] theorem State.logEvent_fuses (s : State) (p : Fin 8) (b c : Nat) (v : BitVec 2) (x y z : Nat) :
    (s.logEvent p b c v x y z).fuses = s.fuses := (State.logEvent_talks s p b c v x y z).fuses
@[simp] theorem State.logEvent_trivet (s : State) (p : Fin 8) (b c : Nat) (v : BitVec 2) (x y z : Nat) :
    (s.logEvent p b c v x y z).trivet = s.trivet := (State.logEvent_talks s p b c v x y z).trivet
@[simp] theorem State.logEvent_tamper (s : State) (p : Fin 8) (b c : Nat) (v : BitVec 2) (x y z : Nat) :
    (s.logEvent p b c v x y z).tamper = s.tamper := (State.logEvent_talks s p b c v x y z).tamper
@[simp] theorem State.logEvent_power (s : State) (p : Fin 8) (b c : Nat) (v : BitVec 2) (x y z : Nat) :
    (s.logEvent p b c v x y z).power = s.power := (State.logEvent_talks s p b c v x y z).power
@[simp] theorem State.logEvent_pkg (s : State) (p : Fin 8) (b c : Nat) (v : BitVec 2) (x y z : Nat) :
    (s.logEvent p b c v x y z).pkg = s.pkg := (State.logEvent_talks s p b c v x y z).pkg
@[simp] theorem State.logEvent_keys (s : State) (p : Fin 8) (b c : Nat) (v : BitVec 2) (x y z : Nat) :
    (s.logEvent p b c v x y z).keys = s.keys := (State.logEvent_talks s p b c v x y z).keys
@[simp] theorem State.logEvent_cld (s : State) (p : Fin 8) (b c : Nat) (v : BitVec 2) (x y z : Nat) :
    (s.logEvent p b c v x y z).cld = s.cld := (State.logEvent_talks s p b c v x y z).cld
@[simp] theorem State.logEvent_eng (s : State) (p : Fin 8) (b c : Nat) (v : BitVec 2) (x y z : Nat) :
    (s.logEvent p b c v x y z).eng = s.eng := (State.logEvent_talks s p b c v x y z).eng
@[simp] theorem State.logEvent_whisk (s : State) (p : Fin 8) (b c : Nat) (v : BitVec 2) (x y z : Nat) :
    (s.logEvent p b c v x y z).whisk = s.whisk := (State.logEvent_talks s p b c v x y z).whisk
@[simp] theorem State.logEvent_tl (s : State) (p : Fin 8) (b c : Nat) (v : BitVec 2) (x y z : Nat) :
    (s.logEvent p b c v x y z).tl = s.tl := (State.logEvent_talks s p b c v x y z).tl
@[simp] theorem State.logEvent_cal (s : State) (p : Fin 8) (b c : Nat) (v : BitVec 2) (x y z : Nat) :
    (s.logEvent p b c v x y z).cal = s.cal := (State.logEvent_talks s p b c v x y z).cal
@[simp] theorem State.logEvent_mkt (s : State) (p : Fin 8) (b c : Nat) (v : BitVec 2) (x y z : Nat) :
    (s.logEvent p b c v x y z).mkt = s.mkt := (State.logEvent_talks s p b c v x y z).mkt
@[simp] theorem State.logEvent_str (s : State) (p : Fin 8) (b c : Nat) (v : BitVec 2) (x y z : Nat) :
    (s.logEvent p b c v x y z).str = s.str := (State.logEvent_talks s p b c v x y z).str
@[simp] theorem State.logEvent_cus (s : State) (p : Fin 8) (b c : Nat) (v : BitVec 2) (x y z : Nat) :
    (s.logEvent p b c v x y z).cus = s.cus := (State.logEvent_talks s p b c v x y z).cus
@[simp] theorem State.logEvent_aud (s : State) (p : Fin 8) (b c : Nat) (v : BitVec 2) (x y z : Nat) :
    (s.logEvent p b c v x y z).aud = s.aud := (State.logEvent_talks s p b c v x y z).aud
@[simp] theorem State.logEvent_now (s : State) (p : Fin 8) (b c : Nat) (v : BitVec 2) (x y z : Nat) :
    (s.logEvent p b c v x y z).now = s.now := (State.logEvent_talks s p b c v x y z).now
@[simp] theorem State.logEvent_free (s : State) (p : Fin 8) (b c : Nat) (v : BitVec 2) (x y z : Nat) :
    (s.logEvent p b c v x y z).free = s.free := (State.logEvent_talks s p b c v x y z).free
@[simp] theorem State.logEvent_completions (s : State) (p : Fin 8) (b c : Nat) (v : BitVec 2) (x y z : Nat) :
    (s.logEvent p b c v x y z).completions = s.completions := (State.logEvent_talks s p b c v x y z).completions
@[simp] theorem State.logEvent_pending (s : State) (p : Fin 8) (b c : Nat) (v : BitVec 2) (x y z : Nat) :
    (s.logEvent p b c v x y z).pending = s.pending := (State.logEvent_talks s p b c v x y z).pending

/-! ### State.logSlice -/

theorem State.logSlice_talks (s : State) (p : Fin 8) (b c : Nat) (v : BitVec 2) (l : Byte) (x y z : Nat) : Talks s (s.logSlice p b c v l x y z) := State.pushLog_talks _ _ _ _

@[simp] theorem State.logSlice_modes (s : State) (p : Fin 8) (b c : Nat) (v : BitVec 2) (l : Byte) (x y z : Nat) :
    (s.logSlice p b c v l x y z).modes = s.modes := (State.logSlice_talks s p b c v l x y z).modes
@[simp] theorem State.logSlice_fuses (s : State) (p : Fin 8) (b c : Nat) (v : BitVec 2) (l : Byte) (x y z : Nat) :
    (s.logSlice p b c v l x y z).fuses = s.fuses := (State.logSlice_talks s p b c v l x y z).fuses
@[simp] theorem State.logSlice_trivet (s : State) (p : Fin 8) (b c : Nat) (v : BitVec 2) (l : Byte) (x y z : Nat) :
    (s.logSlice p b c v l x y z).trivet = s.trivet := (State.logSlice_talks s p b c v l x y z).trivet
@[simp] theorem State.logSlice_tamper (s : State) (p : Fin 8) (b c : Nat) (v : BitVec 2) (l : Byte) (x y z : Nat) :
    (s.logSlice p b c v l x y z).tamper = s.tamper := (State.logSlice_talks s p b c v l x y z).tamper
@[simp] theorem State.logSlice_power (s : State) (p : Fin 8) (b c : Nat) (v : BitVec 2) (l : Byte) (x y z : Nat) :
    (s.logSlice p b c v l x y z).power = s.power := (State.logSlice_talks s p b c v l x y z).power
@[simp] theorem State.logSlice_pkg (s : State) (p : Fin 8) (b c : Nat) (v : BitVec 2) (l : Byte) (x y z : Nat) :
    (s.logSlice p b c v l x y z).pkg = s.pkg := (State.logSlice_talks s p b c v l x y z).pkg
@[simp] theorem State.logSlice_keys (s : State) (p : Fin 8) (b c : Nat) (v : BitVec 2) (l : Byte) (x y z : Nat) :
    (s.logSlice p b c v l x y z).keys = s.keys := (State.logSlice_talks s p b c v l x y z).keys
@[simp] theorem State.logSlice_cld (s : State) (p : Fin 8) (b c : Nat) (v : BitVec 2) (l : Byte) (x y z : Nat) :
    (s.logSlice p b c v l x y z).cld = s.cld := (State.logSlice_talks s p b c v l x y z).cld
@[simp] theorem State.logSlice_eng (s : State) (p : Fin 8) (b c : Nat) (v : BitVec 2) (l : Byte) (x y z : Nat) :
    (s.logSlice p b c v l x y z).eng = s.eng := (State.logSlice_talks s p b c v l x y z).eng
@[simp] theorem State.logSlice_whisk (s : State) (p : Fin 8) (b c : Nat) (v : BitVec 2) (l : Byte) (x y z : Nat) :
    (s.logSlice p b c v l x y z).whisk = s.whisk := (State.logSlice_talks s p b c v l x y z).whisk
@[simp] theorem State.logSlice_tl (s : State) (p : Fin 8) (b c : Nat) (v : BitVec 2) (l : Byte) (x y z : Nat) :
    (s.logSlice p b c v l x y z).tl = s.tl := (State.logSlice_talks s p b c v l x y z).tl
@[simp] theorem State.logSlice_cal (s : State) (p : Fin 8) (b c : Nat) (v : BitVec 2) (l : Byte) (x y z : Nat) :
    (s.logSlice p b c v l x y z).cal = s.cal := (State.logSlice_talks s p b c v l x y z).cal
@[simp] theorem State.logSlice_mkt (s : State) (p : Fin 8) (b c : Nat) (v : BitVec 2) (l : Byte) (x y z : Nat) :
    (s.logSlice p b c v l x y z).mkt = s.mkt := (State.logSlice_talks s p b c v l x y z).mkt
@[simp] theorem State.logSlice_str (s : State) (p : Fin 8) (b c : Nat) (v : BitVec 2) (l : Byte) (x y z : Nat) :
    (s.logSlice p b c v l x y z).str = s.str := (State.logSlice_talks s p b c v l x y z).str
@[simp] theorem State.logSlice_cus (s : State) (p : Fin 8) (b c : Nat) (v : BitVec 2) (l : Byte) (x y z : Nat) :
    (s.logSlice p b c v l x y z).cus = s.cus := (State.logSlice_talks s p b c v l x y z).cus
@[simp] theorem State.logSlice_aud (s : State) (p : Fin 8) (b c : Nat) (v : BitVec 2) (l : Byte) (x y z : Nat) :
    (s.logSlice p b c v l x y z).aud = s.aud := (State.logSlice_talks s p b c v l x y z).aud
@[simp] theorem State.logSlice_now (s : State) (p : Fin 8) (b c : Nat) (v : BitVec 2) (l : Byte) (x y z : Nat) :
    (s.logSlice p b c v l x y z).now = s.now := (State.logSlice_talks s p b c v l x y z).now
@[simp] theorem State.logSlice_free (s : State) (p : Fin 8) (b c : Nat) (v : BitVec 2) (l : Byte) (x y z : Nat) :
    (s.logSlice p b c v l x y z).free = s.free := (State.logSlice_talks s p b c v l x y z).free
@[simp] theorem State.logSlice_completions (s : State) (p : Fin 8) (b c : Nat) (v : BitVec 2) (l : Byte) (x y z : Nat) :
    (s.logSlice p b c v l x y z).completions = s.completions := (State.logSlice_talks s p b c v l x y z).completions
@[simp] theorem State.logSlice_pending (s : State) (p : Fin 8) (b c : Nat) (v : BitVec 2) (l : Byte) (x y z : Nat) :
    (s.logSlice p b c v l x y z).pending = s.pending := (State.logSlice_talks s p b c v l x y z).pending

/-! ### State.setSliceBit -/

theorem State.setSliceBit_talks (s : State) (a n : Nat) : Talks s (s.setSliceBit a n) := State.setReg_talks _ _ _

@[simp] theorem State.setSliceBit_modes (s : State) (a n : Nat) :
    (s.setSliceBit a n).modes = s.modes := (State.setSliceBit_talks s a n).modes
@[simp] theorem State.setSliceBit_fuses (s : State) (a n : Nat) :
    (s.setSliceBit a n).fuses = s.fuses := (State.setSliceBit_talks s a n).fuses
@[simp] theorem State.setSliceBit_trivet (s : State) (a n : Nat) :
    (s.setSliceBit a n).trivet = s.trivet := (State.setSliceBit_talks s a n).trivet
@[simp] theorem State.setSliceBit_tamper (s : State) (a n : Nat) :
    (s.setSliceBit a n).tamper = s.tamper := (State.setSliceBit_talks s a n).tamper
@[simp] theorem State.setSliceBit_power (s : State) (a n : Nat) :
    (s.setSliceBit a n).power = s.power := (State.setSliceBit_talks s a n).power
@[simp] theorem State.setSliceBit_pkg (s : State) (a n : Nat) :
    (s.setSliceBit a n).pkg = s.pkg := (State.setSliceBit_talks s a n).pkg
@[simp] theorem State.setSliceBit_keys (s : State) (a n : Nat) :
    (s.setSliceBit a n).keys = s.keys := (State.setSliceBit_talks s a n).keys
@[simp] theorem State.setSliceBit_cld (s : State) (a n : Nat) :
    (s.setSliceBit a n).cld = s.cld := (State.setSliceBit_talks s a n).cld
@[simp] theorem State.setSliceBit_eng (s : State) (a n : Nat) :
    (s.setSliceBit a n).eng = s.eng := (State.setSliceBit_talks s a n).eng
@[simp] theorem State.setSliceBit_whisk (s : State) (a n : Nat) :
    (s.setSliceBit a n).whisk = s.whisk := (State.setSliceBit_talks s a n).whisk
@[simp] theorem State.setSliceBit_tl (s : State) (a n : Nat) :
    (s.setSliceBit a n).tl = s.tl := (State.setSliceBit_talks s a n).tl
@[simp] theorem State.setSliceBit_cal (s : State) (a n : Nat) :
    (s.setSliceBit a n).cal = s.cal := (State.setSliceBit_talks s a n).cal
@[simp] theorem State.setSliceBit_mkt (s : State) (a n : Nat) :
    (s.setSliceBit a n).mkt = s.mkt := (State.setSliceBit_talks s a n).mkt
@[simp] theorem State.setSliceBit_str (s : State) (a n : Nat) :
    (s.setSliceBit a n).str = s.str := (State.setSliceBit_talks s a n).str
@[simp] theorem State.setSliceBit_cus (s : State) (a n : Nat) :
    (s.setSliceBit a n).cus = s.cus := (State.setSliceBit_talks s a n).cus
@[simp] theorem State.setSliceBit_aud (s : State) (a n : Nat) :
    (s.setSliceBit a n).aud = s.aud := (State.setSliceBit_talks s a n).aud
@[simp] theorem State.setSliceBit_now (s : State) (a n : Nat) :
    (s.setSliceBit a n).now = s.now := (State.setSliceBit_talks s a n).now
@[simp] theorem State.setSliceBit_free (s : State) (a n : Nat) :
    (s.setSliceBit a n).free = s.free := (State.setSliceBit_talks s a n).free
@[simp] theorem State.setSliceBit_completions (s : State) (a n : Nat) :
    (s.setSliceBit a n).completions = s.completions := (State.setSliceBit_talks s a n).completions
@[simp] theorem State.setSliceBit_pending (s : State) (a n : Nat) :
    (s.setSliceBit a n).pending = s.pending := (State.setSliceBit_talks s a n).pending

/-! ### State.sliceErr -/

theorem State.sliceErr_talks (s : State) (n : Nat) : Talks s (s.sliceErr n) := (State.setSliceBit_talks _ _ _).trans (State.raise_talks _ _ _)

@[simp] theorem State.sliceErr_modes (s : State) (n : Nat) :
    (s.sliceErr n).modes = s.modes := (State.sliceErr_talks s n).modes
@[simp] theorem State.sliceErr_fuses (s : State) (n : Nat) :
    (s.sliceErr n).fuses = s.fuses := (State.sliceErr_talks s n).fuses
@[simp] theorem State.sliceErr_trivet (s : State) (n : Nat) :
    (s.sliceErr n).trivet = s.trivet := (State.sliceErr_talks s n).trivet
@[simp] theorem State.sliceErr_tamper (s : State) (n : Nat) :
    (s.sliceErr n).tamper = s.tamper := (State.sliceErr_talks s n).tamper
@[simp] theorem State.sliceErr_power (s : State) (n : Nat) :
    (s.sliceErr n).power = s.power := (State.sliceErr_talks s n).power
@[simp] theorem State.sliceErr_pkg (s : State) (n : Nat) :
    (s.sliceErr n).pkg = s.pkg := (State.sliceErr_talks s n).pkg
@[simp] theorem State.sliceErr_keys (s : State) (n : Nat) :
    (s.sliceErr n).keys = s.keys := (State.sliceErr_talks s n).keys
@[simp] theorem State.sliceErr_cld (s : State) (n : Nat) :
    (s.sliceErr n).cld = s.cld := (State.sliceErr_talks s n).cld
@[simp] theorem State.sliceErr_eng (s : State) (n : Nat) :
    (s.sliceErr n).eng = s.eng := (State.sliceErr_talks s n).eng
@[simp] theorem State.sliceErr_whisk (s : State) (n : Nat) :
    (s.sliceErr n).whisk = s.whisk := (State.sliceErr_talks s n).whisk
@[simp] theorem State.sliceErr_tl (s : State) (n : Nat) :
    (s.sliceErr n).tl = s.tl := (State.sliceErr_talks s n).tl
@[simp] theorem State.sliceErr_cal (s : State) (n : Nat) :
    (s.sliceErr n).cal = s.cal := (State.sliceErr_talks s n).cal
@[simp] theorem State.sliceErr_mkt (s : State) (n : Nat) :
    (s.sliceErr n).mkt = s.mkt := (State.sliceErr_talks s n).mkt
@[simp] theorem State.sliceErr_str (s : State) (n : Nat) :
    (s.sliceErr n).str = s.str := (State.sliceErr_talks s n).str
@[simp] theorem State.sliceErr_cus (s : State) (n : Nat) :
    (s.sliceErr n).cus = s.cus := (State.sliceErr_talks s n).cus
@[simp] theorem State.sliceErr_aud (s : State) (n : Nat) :
    (s.sliceErr n).aud = s.aud := (State.sliceErr_talks s n).aud
@[simp] theorem State.sliceErr_now (s : State) (n : Nat) :
    (s.sliceErr n).now = s.now := (State.sliceErr_talks s n).now
@[simp] theorem State.sliceErr_free (s : State) (n : Nat) :
    (s.sliceErr n).free = s.free := (State.sliceErr_talks s n).free
@[simp] theorem State.sliceErr_completions (s : State) (n : Nat) :
    (s.sliceErr n).completions = s.completions := (State.sliceErr_talks s n).completions
@[simp] theorem State.sliceErr_pending (s : State) (n : Nat) :
    (s.sliceErr n).pending = s.pending := (State.sliceErr_talks s n).pending

/-! ### State.pgErr -/

theorem State.pgErr_talks (s : State) (n bit : Nat) : Talks s (s.pgErr n bit) := by
  unfold State.pgErr
  dsimp only
  split
  · exact Talks.refl s
  · exact ((State.setSlc_talks _ _ _).trans (State.sliceErr_talks _ _)).trans (State.signal_talks _ _)

@[simp] theorem State.pgErr_modes (s : State) (n bit : Nat) :
    (s.pgErr n bit).modes = s.modes := (State.pgErr_talks s n bit).modes
@[simp] theorem State.pgErr_fuses (s : State) (n bit : Nat) :
    (s.pgErr n bit).fuses = s.fuses := (State.pgErr_talks s n bit).fuses
@[simp] theorem State.pgErr_trivet (s : State) (n bit : Nat) :
    (s.pgErr n bit).trivet = s.trivet := (State.pgErr_talks s n bit).trivet
@[simp] theorem State.pgErr_tamper (s : State) (n bit : Nat) :
    (s.pgErr n bit).tamper = s.tamper := (State.pgErr_talks s n bit).tamper
@[simp] theorem State.pgErr_power (s : State) (n bit : Nat) :
    (s.pgErr n bit).power = s.power := (State.pgErr_talks s n bit).power
@[simp] theorem State.pgErr_pkg (s : State) (n bit : Nat) :
    (s.pgErr n bit).pkg = s.pkg := (State.pgErr_talks s n bit).pkg
@[simp] theorem State.pgErr_keys (s : State) (n bit : Nat) :
    (s.pgErr n bit).keys = s.keys := (State.pgErr_talks s n bit).keys
@[simp] theorem State.pgErr_cld (s : State) (n bit : Nat) :
    (s.pgErr n bit).cld = s.cld := (State.pgErr_talks s n bit).cld
@[simp] theorem State.pgErr_eng (s : State) (n bit : Nat) :
    (s.pgErr n bit).eng = s.eng := (State.pgErr_talks s n bit).eng
@[simp] theorem State.pgErr_whisk (s : State) (n bit : Nat) :
    (s.pgErr n bit).whisk = s.whisk := (State.pgErr_talks s n bit).whisk
@[simp] theorem State.pgErr_tl (s : State) (n bit : Nat) :
    (s.pgErr n bit).tl = s.tl := (State.pgErr_talks s n bit).tl
@[simp] theorem State.pgErr_cal (s : State) (n bit : Nat) :
    (s.pgErr n bit).cal = s.cal := (State.pgErr_talks s n bit).cal
@[simp] theorem State.pgErr_mkt (s : State) (n bit : Nat) :
    (s.pgErr n bit).mkt = s.mkt := (State.pgErr_talks s n bit).mkt
@[simp] theorem State.pgErr_str (s : State) (n bit : Nat) :
    (s.pgErr n bit).str = s.str := (State.pgErr_talks s n bit).str
@[simp] theorem State.pgErr_cus (s : State) (n bit : Nat) :
    (s.pgErr n bit).cus = s.cus := (State.pgErr_talks s n bit).cus
@[simp] theorem State.pgErr_aud (s : State) (n bit : Nat) :
    (s.pgErr n bit).aud = s.aud := (State.pgErr_talks s n bit).aud
@[simp] theorem State.pgErr_now (s : State) (n bit : Nat) :
    (s.pgErr n bit).now = s.now := (State.pgErr_talks s n bit).now
@[simp] theorem State.pgErr_free (s : State) (n bit : Nat) :
    (s.pgErr n bit).free = s.free := (State.pgErr_talks s n bit).free
@[simp] theorem State.pgErr_completions (s : State) (n bit : Nat) :
    (s.pgErr n bit).completions = s.completions := (State.pgErr_talks s n bit).completions
@[simp] theorem State.pgErr_pending (s : State) (n bit : Nat) :
    (s.pgErr n bit).pending = s.pending := (State.pgErr_talks s n bit).pending

/-! ### State.slcErr -/

theorem State.slcErr_talks (s : State) (n bit : Nat) : Talks s (s.slcErr n bit) := (State.setSlc_talks _ _ _).trans (State.sliceErr_talks _ _)

@[simp] theorem State.slcErr_modes (s : State) (n bit : Nat) :
    (s.slcErr n bit).modes = s.modes := (State.slcErr_talks s n bit).modes
@[simp] theorem State.slcErr_fuses (s : State) (n bit : Nat) :
    (s.slcErr n bit).fuses = s.fuses := (State.slcErr_talks s n bit).fuses
@[simp] theorem State.slcErr_trivet (s : State) (n bit : Nat) :
    (s.slcErr n bit).trivet = s.trivet := (State.slcErr_talks s n bit).trivet
@[simp] theorem State.slcErr_tamper (s : State) (n bit : Nat) :
    (s.slcErr n bit).tamper = s.tamper := (State.slcErr_talks s n bit).tamper
@[simp] theorem State.slcErr_power (s : State) (n bit : Nat) :
    (s.slcErr n bit).power = s.power := (State.slcErr_talks s n bit).power
@[simp] theorem State.slcErr_pkg (s : State) (n bit : Nat) :
    (s.slcErr n bit).pkg = s.pkg := (State.slcErr_talks s n bit).pkg
@[simp] theorem State.slcErr_keys (s : State) (n bit : Nat) :
    (s.slcErr n bit).keys = s.keys := (State.slcErr_talks s n bit).keys
@[simp] theorem State.slcErr_cld (s : State) (n bit : Nat) :
    (s.slcErr n bit).cld = s.cld := (State.slcErr_talks s n bit).cld
@[simp] theorem State.slcErr_eng (s : State) (n bit : Nat) :
    (s.slcErr n bit).eng = s.eng := (State.slcErr_talks s n bit).eng
@[simp] theorem State.slcErr_whisk (s : State) (n bit : Nat) :
    (s.slcErr n bit).whisk = s.whisk := (State.slcErr_talks s n bit).whisk
@[simp] theorem State.slcErr_tl (s : State) (n bit : Nat) :
    (s.slcErr n bit).tl = s.tl := (State.slcErr_talks s n bit).tl
@[simp] theorem State.slcErr_cal (s : State) (n bit : Nat) :
    (s.slcErr n bit).cal = s.cal := (State.slcErr_talks s n bit).cal
@[simp] theorem State.slcErr_mkt (s : State) (n bit : Nat) :
    (s.slcErr n bit).mkt = s.mkt := (State.slcErr_talks s n bit).mkt
@[simp] theorem State.slcErr_str (s : State) (n bit : Nat) :
    (s.slcErr n bit).str = s.str := (State.slcErr_talks s n bit).str
@[simp] theorem State.slcErr_cus (s : State) (n bit : Nat) :
    (s.slcErr n bit).cus = s.cus := (State.slcErr_talks s n bit).cus
@[simp] theorem State.slcErr_aud (s : State) (n bit : Nat) :
    (s.slcErr n bit).aud = s.aud := (State.slcErr_talks s n bit).aud
@[simp] theorem State.slcErr_now (s : State) (n bit : Nat) :
    (s.slcErr n bit).now = s.now := (State.slcErr_talks s n bit).now
@[simp] theorem State.slcErr_free (s : State) (n bit : Nat) :
    (s.slcErr n bit).free = s.free := (State.slcErr_talks s n bit).free
@[simp] theorem State.slcErr_completions (s : State) (n bit : Nat) :
    (s.slcErr n bit).completions = s.completions := (State.slcErr_talks s n bit).completions
@[simp] theorem State.slcErr_pending (s : State) (n bit : Nat) :
    (s.slcErr n bit).pending = s.pending := (State.slcErr_talks s n bit).pending

/-! ### State.moveSlice -/

theorem State.moveSlice_talks (s : State) (n : Nat) (st : SliceState) : Talks s (s.moveSlice n st) := by
  unfold State.moveSlice
  dsimp only
  split
  · exact Talks.refl s
  · exact ((State.setSlc_talks _ _ _).trans (State.logSlice_talks _ _ _ _ _ _ _ _ _)).trans (State.signal_talks _ _)

@[simp] theorem State.moveSlice_modes (s : State) (n : Nat) (st : SliceState) :
    (s.moveSlice n st).modes = s.modes := (State.moveSlice_talks s n st).modes
@[simp] theorem State.moveSlice_fuses (s : State) (n : Nat) (st : SliceState) :
    (s.moveSlice n st).fuses = s.fuses := (State.moveSlice_talks s n st).fuses
@[simp] theorem State.moveSlice_trivet (s : State) (n : Nat) (st : SliceState) :
    (s.moveSlice n st).trivet = s.trivet := (State.moveSlice_talks s n st).trivet
@[simp] theorem State.moveSlice_tamper (s : State) (n : Nat) (st : SliceState) :
    (s.moveSlice n st).tamper = s.tamper := (State.moveSlice_talks s n st).tamper
@[simp] theorem State.moveSlice_power (s : State) (n : Nat) (st : SliceState) :
    (s.moveSlice n st).power = s.power := (State.moveSlice_talks s n st).power
@[simp] theorem State.moveSlice_pkg (s : State) (n : Nat) (st : SliceState) :
    (s.moveSlice n st).pkg = s.pkg := (State.moveSlice_talks s n st).pkg
@[simp] theorem State.moveSlice_keys (s : State) (n : Nat) (st : SliceState) :
    (s.moveSlice n st).keys = s.keys := (State.moveSlice_talks s n st).keys
@[simp] theorem State.moveSlice_cld (s : State) (n : Nat) (st : SliceState) :
    (s.moveSlice n st).cld = s.cld := (State.moveSlice_talks s n st).cld
@[simp] theorem State.moveSlice_eng (s : State) (n : Nat) (st : SliceState) :
    (s.moveSlice n st).eng = s.eng := (State.moveSlice_talks s n st).eng
@[simp] theorem State.moveSlice_whisk (s : State) (n : Nat) (st : SliceState) :
    (s.moveSlice n st).whisk = s.whisk := (State.moveSlice_talks s n st).whisk
@[simp] theorem State.moveSlice_tl (s : State) (n : Nat) (st : SliceState) :
    (s.moveSlice n st).tl = s.tl := (State.moveSlice_talks s n st).tl
@[simp] theorem State.moveSlice_cal (s : State) (n : Nat) (st : SliceState) :
    (s.moveSlice n st).cal = s.cal := (State.moveSlice_talks s n st).cal
@[simp] theorem State.moveSlice_mkt (s : State) (n : Nat) (st : SliceState) :
    (s.moveSlice n st).mkt = s.mkt := (State.moveSlice_talks s n st).mkt
@[simp] theorem State.moveSlice_str (s : State) (n : Nat) (st : SliceState) :
    (s.moveSlice n st).str = s.str := (State.moveSlice_talks s n st).str
@[simp] theorem State.moveSlice_cus (s : State) (n : Nat) (st : SliceState) :
    (s.moveSlice n st).cus = s.cus := (State.moveSlice_talks s n st).cus
@[simp] theorem State.moveSlice_aud (s : State) (n : Nat) (st : SliceState) :
    (s.moveSlice n st).aud = s.aud := (State.moveSlice_talks s n st).aud
@[simp] theorem State.moveSlice_now (s : State) (n : Nat) (st : SliceState) :
    (s.moveSlice n st).now = s.now := (State.moveSlice_talks s n st).now
@[simp] theorem State.moveSlice_free (s : State) (n : Nat) (st : SliceState) :
    (s.moveSlice n st).free = s.free := (State.moveSlice_talks s n st).free
@[simp] theorem State.moveSlice_completions (s : State) (n : Nat) (st : SliceState) :
    (s.moveSlice n st).completions = s.completions := (State.moveSlice_talks s n st).completions
@[simp] theorem State.moveSlice_pending (s : State) (n : Nat) (st : SliceState) :
    (s.moveSlice n st).pending = s.pending := (State.moveSlice_talks s n st).pending

/-! ### State.hostFault -/

theorem State.hostFault_talks (s : State) (bit : Nat) (ad : DWord) (p : Option (BitVec 20)) (w r : Bool) (l : Option (BitVec 6)) : Talks s (s.hostFault bit ad p w r l) := by
  unfold State.hostFault
  dsimp only
  split
  · exact (((((State.setReg_talks _ _ _).trans (State.setReg64_talks _ _ _)).trans (State.setReg_talks _ _ _)).trans
      (State.setReg_talks _ _ _)).trans (State.raise_talks _ _ _)).trans (State.logEvent_talks _ _ _ _ _ _ _ _)
  · generalize (if 3 ≤ bit then 1#32 <<< bit else 0) = b
    split
    · exact (State.setReg_talks _ _ _).trans (State.setReg_talks _ _ _)
    · exact ((State.setReg_talks _ _ _).trans (State.setReg_talks _ _ _)).trans (State.raise_talks _ _ _)

@[simp] theorem State.hostFault_modes (s : State) (bit : Nat) (ad : DWord) (p : Option (BitVec 20)) (w r : Bool) (l : Option (BitVec 6)) :
    (s.hostFault bit ad p w r l).modes = s.modes := (State.hostFault_talks s bit ad p w r l).modes
@[simp] theorem State.hostFault_fuses (s : State) (bit : Nat) (ad : DWord) (p : Option (BitVec 20)) (w r : Bool) (l : Option (BitVec 6)) :
    (s.hostFault bit ad p w r l).fuses = s.fuses := (State.hostFault_talks s bit ad p w r l).fuses
@[simp] theorem State.hostFault_trivet (s : State) (bit : Nat) (ad : DWord) (p : Option (BitVec 20)) (w r : Bool) (l : Option (BitVec 6)) :
    (s.hostFault bit ad p w r l).trivet = s.trivet := (State.hostFault_talks s bit ad p w r l).trivet
@[simp] theorem State.hostFault_tamper (s : State) (bit : Nat) (ad : DWord) (p : Option (BitVec 20)) (w r : Bool) (l : Option (BitVec 6)) :
    (s.hostFault bit ad p w r l).tamper = s.tamper := (State.hostFault_talks s bit ad p w r l).tamper
@[simp] theorem State.hostFault_power (s : State) (bit : Nat) (ad : DWord) (p : Option (BitVec 20)) (w r : Bool) (l : Option (BitVec 6)) :
    (s.hostFault bit ad p w r l).power = s.power := (State.hostFault_talks s bit ad p w r l).power
@[simp] theorem State.hostFault_pkg (s : State) (bit : Nat) (ad : DWord) (p : Option (BitVec 20)) (w r : Bool) (l : Option (BitVec 6)) :
    (s.hostFault bit ad p w r l).pkg = s.pkg := (State.hostFault_talks s bit ad p w r l).pkg
@[simp] theorem State.hostFault_keys (s : State) (bit : Nat) (ad : DWord) (p : Option (BitVec 20)) (w r : Bool) (l : Option (BitVec 6)) :
    (s.hostFault bit ad p w r l).keys = s.keys := (State.hostFault_talks s bit ad p w r l).keys
@[simp] theorem State.hostFault_cld (s : State) (bit : Nat) (ad : DWord) (p : Option (BitVec 20)) (w r : Bool) (l : Option (BitVec 6)) :
    (s.hostFault bit ad p w r l).cld = s.cld := (State.hostFault_talks s bit ad p w r l).cld
@[simp] theorem State.hostFault_eng (s : State) (bit : Nat) (ad : DWord) (p : Option (BitVec 20)) (w r : Bool) (l : Option (BitVec 6)) :
    (s.hostFault bit ad p w r l).eng = s.eng := (State.hostFault_talks s bit ad p w r l).eng
@[simp] theorem State.hostFault_whisk (s : State) (bit : Nat) (ad : DWord) (p : Option (BitVec 20)) (w r : Bool) (l : Option (BitVec 6)) :
    (s.hostFault bit ad p w r l).whisk = s.whisk := (State.hostFault_talks s bit ad p w r l).whisk
@[simp] theorem State.hostFault_tl (s : State) (bit : Nat) (ad : DWord) (p : Option (BitVec 20)) (w r : Bool) (l : Option (BitVec 6)) :
    (s.hostFault bit ad p w r l).tl = s.tl := (State.hostFault_talks s bit ad p w r l).tl
@[simp] theorem State.hostFault_cal (s : State) (bit : Nat) (ad : DWord) (p : Option (BitVec 20)) (w r : Bool) (l : Option (BitVec 6)) :
    (s.hostFault bit ad p w r l).cal = s.cal := (State.hostFault_talks s bit ad p w r l).cal
@[simp] theorem State.hostFault_mkt (s : State) (bit : Nat) (ad : DWord) (p : Option (BitVec 20)) (w r : Bool) (l : Option (BitVec 6)) :
    (s.hostFault bit ad p w r l).mkt = s.mkt := (State.hostFault_talks s bit ad p w r l).mkt
@[simp] theorem State.hostFault_str (s : State) (bit : Nat) (ad : DWord) (p : Option (BitVec 20)) (w r : Bool) (l : Option (BitVec 6)) :
    (s.hostFault bit ad p w r l).str = s.str := (State.hostFault_talks s bit ad p w r l).str
@[simp] theorem State.hostFault_cus (s : State) (bit : Nat) (ad : DWord) (p : Option (BitVec 20)) (w r : Bool) (l : Option (BitVec 6)) :
    (s.hostFault bit ad p w r l).cus = s.cus := (State.hostFault_talks s bit ad p w r l).cus
@[simp] theorem State.hostFault_aud (s : State) (bit : Nat) (ad : DWord) (p : Option (BitVec 20)) (w r : Bool) (l : Option (BitVec 6)) :
    (s.hostFault bit ad p w r l).aud = s.aud := (State.hostFault_talks s bit ad p w r l).aud
@[simp] theorem State.hostFault_now (s : State) (bit : Nat) (ad : DWord) (p : Option (BitVec 20)) (w r : Bool) (l : Option (BitVec 6)) :
    (s.hostFault bit ad p w r l).now = s.now := (State.hostFault_talks s bit ad p w r l).now
@[simp] theorem State.hostFault_free (s : State) (bit : Nat) (ad : DWord) (p : Option (BitVec 20)) (w r : Bool) (l : Option (BitVec 6)) :
    (s.hostFault bit ad p w r l).free = s.free := (State.hostFault_talks s bit ad p w r l).free
@[simp] theorem State.hostFault_completions (s : State) (bit : Nat) (ad : DWord) (p : Option (BitVec 20)) (w r : Bool) (l : Option (BitVec 6)) :
    (s.hostFault bit ad p w r l).completions = s.completions := (State.hostFault_talks s bit ad p w r l).completions
@[simp] theorem State.hostFault_pending (s : State) (bit : Nat) (ad : DWord) (p : Option (BitVec 20)) (w r : Bool) (l : Option (BitVec 6)) :
    (s.hostFault bit ad p w r l).pending = s.pending := (State.hostFault_talks s bit ad p w r l).pending

/-! ### State.captureRefusal -/

theorem State.captureRefusal_talks (s : State) (o : Bool) (q : ReqAttr) (nd : BitVec 3) (a : Nat) (r : StrRefusal) : Talks s (s.captureRefusal o q nd a r) := by
  unfold State.captureRefusal
  dsimp only
  split
  · exact (State.setReg_talks _ _ _).trans (State.setReg_talks _ _ _)
  · exact ((((State.setReg_talks _ _ _).trans (State.setReg_talks _ _ _)).trans (State.setRegs_talks _ _ _)).trans
      (State.raise_talks _ _ _)).trans (State.logEvent_talks _ _ _ _ _ _ _ _)

@[simp] theorem State.captureRefusal_modes (s : State) (o : Bool) (q : ReqAttr) (nd : BitVec 3) (a : Nat) (r : StrRefusal) :
    (s.captureRefusal o q nd a r).modes = s.modes := (State.captureRefusal_talks s o q nd a r).modes
@[simp] theorem State.captureRefusal_fuses (s : State) (o : Bool) (q : ReqAttr) (nd : BitVec 3) (a : Nat) (r : StrRefusal) :
    (s.captureRefusal o q nd a r).fuses = s.fuses := (State.captureRefusal_talks s o q nd a r).fuses
@[simp] theorem State.captureRefusal_trivet (s : State) (o : Bool) (q : ReqAttr) (nd : BitVec 3) (a : Nat) (r : StrRefusal) :
    (s.captureRefusal o q nd a r).trivet = s.trivet := (State.captureRefusal_talks s o q nd a r).trivet
@[simp] theorem State.captureRefusal_tamper (s : State) (o : Bool) (q : ReqAttr) (nd : BitVec 3) (a : Nat) (r : StrRefusal) :
    (s.captureRefusal o q nd a r).tamper = s.tamper := (State.captureRefusal_talks s o q nd a r).tamper
@[simp] theorem State.captureRefusal_power (s : State) (o : Bool) (q : ReqAttr) (nd : BitVec 3) (a : Nat) (r : StrRefusal) :
    (s.captureRefusal o q nd a r).power = s.power := (State.captureRefusal_talks s o q nd a r).power
@[simp] theorem State.captureRefusal_pkg (s : State) (o : Bool) (q : ReqAttr) (nd : BitVec 3) (a : Nat) (r : StrRefusal) :
    (s.captureRefusal o q nd a r).pkg = s.pkg := (State.captureRefusal_talks s o q nd a r).pkg
@[simp] theorem State.captureRefusal_keys (s : State) (o : Bool) (q : ReqAttr) (nd : BitVec 3) (a : Nat) (r : StrRefusal) :
    (s.captureRefusal o q nd a r).keys = s.keys := (State.captureRefusal_talks s o q nd a r).keys
@[simp] theorem State.captureRefusal_cld (s : State) (o : Bool) (q : ReqAttr) (nd : BitVec 3) (a : Nat) (r : StrRefusal) :
    (s.captureRefusal o q nd a r).cld = s.cld := (State.captureRefusal_talks s o q nd a r).cld
@[simp] theorem State.captureRefusal_eng (s : State) (o : Bool) (q : ReqAttr) (nd : BitVec 3) (a : Nat) (r : StrRefusal) :
    (s.captureRefusal o q nd a r).eng = s.eng := (State.captureRefusal_talks s o q nd a r).eng
@[simp] theorem State.captureRefusal_whisk (s : State) (o : Bool) (q : ReqAttr) (nd : BitVec 3) (a : Nat) (r : StrRefusal) :
    (s.captureRefusal o q nd a r).whisk = s.whisk := (State.captureRefusal_talks s o q nd a r).whisk
@[simp] theorem State.captureRefusal_tl (s : State) (o : Bool) (q : ReqAttr) (nd : BitVec 3) (a : Nat) (r : StrRefusal) :
    (s.captureRefusal o q nd a r).tl = s.tl := (State.captureRefusal_talks s o q nd a r).tl
@[simp] theorem State.captureRefusal_cal (s : State) (o : Bool) (q : ReqAttr) (nd : BitVec 3) (a : Nat) (r : StrRefusal) :
    (s.captureRefusal o q nd a r).cal = s.cal := (State.captureRefusal_talks s o q nd a r).cal
@[simp] theorem State.captureRefusal_mkt (s : State) (o : Bool) (q : ReqAttr) (nd : BitVec 3) (a : Nat) (r : StrRefusal) :
    (s.captureRefusal o q nd a r).mkt = s.mkt := (State.captureRefusal_talks s o q nd a r).mkt
@[simp] theorem State.captureRefusal_str (s : State) (o : Bool) (q : ReqAttr) (nd : BitVec 3) (a : Nat) (r : StrRefusal) :
    (s.captureRefusal o q nd a r).str = s.str := (State.captureRefusal_talks s o q nd a r).str
@[simp] theorem State.captureRefusal_cus (s : State) (o : Bool) (q : ReqAttr) (nd : BitVec 3) (a : Nat) (r : StrRefusal) :
    (s.captureRefusal o q nd a r).cus = s.cus := (State.captureRefusal_talks s o q nd a r).cus
@[simp] theorem State.captureRefusal_aud (s : State) (o : Bool) (q : ReqAttr) (nd : BitVec 3) (a : Nat) (r : StrRefusal) :
    (s.captureRefusal o q nd a r).aud = s.aud := (State.captureRefusal_talks s o q nd a r).aud
@[simp] theorem State.captureRefusal_now (s : State) (o : Bool) (q : ReqAttr) (nd : BitVec 3) (a : Nat) (r : StrRefusal) :
    (s.captureRefusal o q nd a r).now = s.now := (State.captureRefusal_talks s o q nd a r).now
@[simp] theorem State.captureRefusal_free (s : State) (o : Bool) (q : ReqAttr) (nd : BitVec 3) (a : Nat) (r : StrRefusal) :
    (s.captureRefusal o q nd a r).free = s.free := (State.captureRefusal_talks s o q nd a r).free
@[simp] theorem State.captureRefusal_completions (s : State) (o : Bool) (q : ReqAttr) (nd : BitVec 3) (a : Nat) (r : StrRefusal) :
    (s.captureRefusal o q nd a r).completions = s.completions := (State.captureRefusal_talks s o q nd a r).completions
@[simp] theorem State.captureRefusal_pending (s : State) (o : Bool) (q : ReqAttr) (nd : BitVec 3) (a : Nat) (r : StrRefusal) :
    (s.captureRefusal o q nd a r).pending = s.pending := (State.captureRefusal_talks s o q nd a r).pending

/-! ### State.pageFault -/

theorem State.pageFault_talks (s : State) (n off : Nat) (b w : Bool) : Talks s (s.pageFault n off b w) := by
  unfold State.pageFault
  dsimp only
  split
  · exact State.pgErr_talks _ _ _
  · exact (State.setSlc_talks _ _ _).trans (State.pgErr_talks _ _ _)

@[simp] theorem State.pageFault_modes (s : State) (n off : Nat) (b w : Bool) :
    (s.pageFault n off b w).modes = s.modes := (State.pageFault_talks s n off b w).modes
@[simp] theorem State.pageFault_fuses (s : State) (n off : Nat) (b w : Bool) :
    (s.pageFault n off b w).fuses = s.fuses := (State.pageFault_talks s n off b w).fuses
@[simp] theorem State.pageFault_trivet (s : State) (n off : Nat) (b w : Bool) :
    (s.pageFault n off b w).trivet = s.trivet := (State.pageFault_talks s n off b w).trivet
@[simp] theorem State.pageFault_tamper (s : State) (n off : Nat) (b w : Bool) :
    (s.pageFault n off b w).tamper = s.tamper := (State.pageFault_talks s n off b w).tamper
@[simp] theorem State.pageFault_power (s : State) (n off : Nat) (b w : Bool) :
    (s.pageFault n off b w).power = s.power := (State.pageFault_talks s n off b w).power
@[simp] theorem State.pageFault_pkg (s : State) (n off : Nat) (b w : Bool) :
    (s.pageFault n off b w).pkg = s.pkg := (State.pageFault_talks s n off b w).pkg
@[simp] theorem State.pageFault_keys (s : State) (n off : Nat) (b w : Bool) :
    (s.pageFault n off b w).keys = s.keys := (State.pageFault_talks s n off b w).keys
@[simp] theorem State.pageFault_cld (s : State) (n off : Nat) (b w : Bool) :
    (s.pageFault n off b w).cld = s.cld := (State.pageFault_talks s n off b w).cld
@[simp] theorem State.pageFault_eng (s : State) (n off : Nat) (b w : Bool) :
    (s.pageFault n off b w).eng = s.eng := (State.pageFault_talks s n off b w).eng
@[simp] theorem State.pageFault_whisk (s : State) (n off : Nat) (b w : Bool) :
    (s.pageFault n off b w).whisk = s.whisk := (State.pageFault_talks s n off b w).whisk
@[simp] theorem State.pageFault_tl (s : State) (n off : Nat) (b w : Bool) :
    (s.pageFault n off b w).tl = s.tl := (State.pageFault_talks s n off b w).tl
@[simp] theorem State.pageFault_cal (s : State) (n off : Nat) (b w : Bool) :
    (s.pageFault n off b w).cal = s.cal := (State.pageFault_talks s n off b w).cal
@[simp] theorem State.pageFault_mkt (s : State) (n off : Nat) (b w : Bool) :
    (s.pageFault n off b w).mkt = s.mkt := (State.pageFault_talks s n off b w).mkt
@[simp] theorem State.pageFault_str (s : State) (n off : Nat) (b w : Bool) :
    (s.pageFault n off b w).str = s.str := (State.pageFault_talks s n off b w).str
@[simp] theorem State.pageFault_cus (s : State) (n off : Nat) (b w : Bool) :
    (s.pageFault n off b w).cus = s.cus := (State.pageFault_talks s n off b w).cus
@[simp] theorem State.pageFault_aud (s : State) (n off : Nat) (b w : Bool) :
    (s.pageFault n off b w).aud = s.aud := (State.pageFault_talks s n off b w).aud
@[simp] theorem State.pageFault_now (s : State) (n off : Nat) (b w : Bool) :
    (s.pageFault n off b w).now = s.now := (State.pageFault_talks s n off b w).now
@[simp] theorem State.pageFault_free (s : State) (n off : Nat) (b w : Bool) :
    (s.pageFault n off b w).free = s.free := (State.pageFault_talks s n off b w).free
@[simp] theorem State.pageFault_completions (s : State) (n off : Nat) (b w : Bool) :
    (s.pageFault n off b w).completions = s.completions := (State.pageFault_talks s n off b w).completions
@[simp] theorem State.pageFault_pending (s : State) (n off : Nat) (b w : Bool) :
    (s.pageFault n off b w).pending = s.pending := (State.pageFault_talks s n off b w).pending

/-! ### Operations that write one part of the state: all that each can do, in one equation -/

@[simp] theorem State.setTurn_eq (s : State) (n : Nat) (u : Option Turn) :
    s.setTurn n u = s.setStn n { s.stn n with turn := u } := rfl

/-- Requests to host memory change what the host link holds, and nothing else. -/
theorem State.atsUse_frame (s : State) (p : Option (BitVec 20)) (a : DWord) (n : Nat) :
    s.atsUse p a n = { s with host := (s.atsUse p a n).host } := by
  unfold State.atsUse
  repeat' split
  all_goals rfl

/-- An invalidation that completes changes what the host link holds, and nothing else. -/
theorem State.atsDone_frame (s : State) : s.atsDone = { s with host := s.atsDone.host } := by
  unfold State.atsDone
  split <;> rfl

/-- A comparison that is counted changes the engines' counters, and nothing else. -/
theorem State.countCompare_frame (s : State) (e : Bool) : s.countCompare e = { s with eng := (s.countCompare e).eng } := by
  unfold State.countCompare
  split <;> rfl

/-- What a restart discards of Strainer changes Strainer, and nothing else. -/
theorem State.strRestart_frame (s : State) : s.strRestart = { s with str := s.strRestart.str } := by
  unfold State.strRestart
  split <;> rfl

end Sys2Proof.Machine
end

