-- ==== Sys2Proof/Laws/Sparse.lean ====
section
/-! SUPPORT. Sparse tables and memories: reading after writing, and the canonical form that every operation keeps. -/

namespace Sys2Proof.Machine

/-! ### Reading after writing -/

/-- A write leaves every other key as it reads, whatever an unlisted key reads as. -/
theorem sparseGet_set_other' {V : Type} [DecidableEq V] (d e : V) (t : List (Nat × V)) (k j : Nat) (v : V) (h : j ≠ k) :
    sparseGet e (sparseSet d t k v) j = sparseGet e t j := by
  induction t with
  | nil =>
    unfold sparseSet
    split
    · rfl
    · simp [sparseGet, h]
  | cons e t ih =>
    obtain ⟨a, x⟩ := e
    unfold sparseSet
    split
    · split
      · rfl
      · simp [sparseGet, h]
    · split
      · rename_i h1 h2
        subst h2
        split
        · simp [sparseGet, h]
        · simp [sparseGet, h]
      · simp only [sparseGet, ih]

theorem sparseGet_set_other {V : Type} [DecidableEq V] (d : V) (t : List (Nat × V)) (k j : Nat) (v : V) (h : j ≠ k) :
    sparseGet d (sparseSet d t k v) j = sparseGet d t j := sparseGet_set_other' d d t k j v h

/-- What is written is read, if it is not what an unlisted key reads as. -/
theorem sparseGet_set_ne {V : Type} [DecidableEq V] (d : V) (t : List (Nat × V)) (k : Nat) (v : V) (h : v ≠ d) :
    sparseGet d (sparseSet d t k v) k = v := by
  induction t with
  | nil => simp [sparseSet, sparseGet, h]
  | cons e t ih =>
    obtain ⟨a, x⟩ := e
    unfold sparseSet
    split
    · simp [sparseGet]
    · split
      · simp [sparseGet]
      · rename_i h1 h2
        simp only [sparseGet, ih, if_neg h2]

/-- In a table whose keys start above `k`, `k` is unlisted. -/
theorem sparseGet_below {V : Type} [DecidableEq V] (d : V) (t : List (Nat × V)) (lo k : Nat)
    (h : sparseWf d lo t = true) (hk : k < lo) : sparseGet d t k = d := by
  induction t generalizing lo with
  | nil => rfl
  | cons e t ih =>
    obtain ⟨a, x⟩ := e
    simp only [sparseWf, Bool.and_eq_true, decide_eq_true_eq] at h
    have hne : ¬k = a := by omega
    simp only [sparseGet, if_neg hne]
    exact ih (a + 1) h.2 (by omega)

/-- In a table in canonical form, what is written is read. -/
theorem sparseGet_set_same {V : Type} [DecidableEq V] (d : V) (t : List (Nat × V)) (lo k : Nat) (v : V)
    (h : sparseWf d lo t = true) : sparseGet d (sparseSet d t k v) k = v := by
  by_cases hv : v = d
  · subst hv
    induction t generalizing lo with
    | nil => simp [sparseSet, sparseGet]
    | cons e t ih =>
      obtain ⟨a, x⟩ := e
      have h' := h
      simp only [sparseWf, Bool.and_eq_true, decide_eq_true_eq] at h
      unfold sparseSet
      split
      · rename_i hlt
        simp only [if_true]
        have hne : ¬k = a := by omega
        simp only [sparseGet, if_neg hne]
        exact sparseGet_below v t (a + 1) k h.2 (by omega)
      · split
        · rename_i h1 h2
          subst h2
          simp only [if_true]
          exact sparseGet_below v t (k + 1) k h.2 (by omega)
        · rename_i h1 h2
          simp only [sparseGet, if_neg h2]
          exact ih (a + 1) h.2
  · exact sparseGet_set_ne d t k v hv

/-! ### The canonical form -/

/-- A lower bound of the keys may be lowered. -/
theorem sparseWf_mono {V : Type} [DecidableEq V] (d : V) (t : List (Nat × V)) (lo lo' : Nat) (hl : lo' ≤ lo)
    (h : sparseWf d lo t = true) : sparseWf d lo' t = true := by
  cases t with
  | nil => rfl
  | cons e t =>
    obtain ⟨a, x⟩ := e
    simp only [sparseWf, Bool.and_eq_true, decide_eq_true_eq] at h ⊢
    exact ⟨⟨by omega, h.1.2⟩, h.2⟩

/-- A write keeps the canonical form. -/
theorem sparseSet_wf {V : Type} [DecidableEq V] (d : V) (t : List (Nat × V)) (lo k : Nat) (v : V)
    (h : sparseWf d lo t = true) (hk : lo ≤ k) : sparseWf d lo (sparseSet d t k v) = true := by
  induction t generalizing lo with
  | nil =>
    unfold sparseSet
    split
    · rfl
    · rename_i hv
      simp [sparseWf, hk, hv]
  | cons e t ih =>
    obtain ⟨a, x⟩ := e
    have h0 := h
    simp only [sparseWf, Bool.and_eq_true, decide_eq_true_eq] at h
    unfold sparseSet
    split
    · rename_i hlt
      split
      · exact h0
      · rename_i hv
        have ha : k + 1 ≤ a := by omega
        simp [sparseWf, hk, hv, ha, h.2]
        simpa using h.1.2
    · rename_i hge
      split
      · rename_i heq
        subst heq
        split
        · exact sparseWf_mono d t (k + 1) lo (by omega) h.2
        · rename_i hv
          simp [sparseWf, hk, hv, h.2]
      · rename_i hne
        simp only [sparseWf, Bool.and_eq_true, decide_eq_true_eq]
        exact ⟨h.1, ih (a + 1) h.2 (by omega)⟩

/-- Dropping entries keeps the canonical form. -/
theorem sparseWf_filter {V : Type} [DecidableEq V] (d : V) (p : Nat × V → Bool) (t : List (Nat × V)) (lo : Nat)
    (h : sparseWf d lo t = true) : sparseWf d lo (t.filter p) = true := by
  induction t generalizing lo with
  | nil => rfl
  | cons e t ih =>
    obtain ⟨a, x⟩ := e
    simp only [sparseWf, Bool.and_eq_true, decide_eq_true_eq] at h
    have hr := ih (a + 1) h.2
    cases hp : p (a, x)
    · simp only [List.filter_cons, hp]
      exact sparseWf_mono d _ (a + 1) lo (by omega) hr
    · simp only [List.filter_cons, hp, if_true, sparseWf, Bool.and_eq_true, decide_eq_true_eq]
      exact ⟨h.1, hr⟩

/-! ### Memories -/

/-- A byte that is written is read. -/
theorem memByte_set_same (m : Mem) (a : Nat) (b : Byte) (h : memWf m = true) : memByte (memSetByte m a b) a = b :=
  sparseGet_set_same 0#8 m 0 a b h

/-- A byte write leaves every other byte. -/
theorem memByte_set_other (m : Mem) (a c : Nat) (b : Byte) (h : c ≠ a) : memByte (memSetByte m a b) c = memByte m c :=
  sparseGet_set_other 0#8 m a c b h

/-- A byte write keeps the canonical form. -/
theorem memSetByte_wf (m : Mem) (a : Nat) (b : Byte) (h : memWf m = true) : memWf (memSetByte m a b) = true :=
  sparseSet_wf 0#8 m 0 a b h (Nat.zero_le a)

/-- A write keeps the canonical form. -/
theorem memWrite_wf (m : Mem) (a : Nat) (bs : Bytes) (h : memWf m = true) : memWf (memWrite m a bs) = true := by
  induction bs generalizing m a with
  | nil => exact h
  | cons b bs ih => exact ih _ _ (memSetByte_wf m a b h)

/-- A write leaves every byte outside its range. -/
theorem memByte_write_other (m : Mem) (a c : Nat) (bs : Bytes) (h : c < a ∨ a + bs.length ≤ c) :
    memByte (memWrite m a bs) c = memByte m c := by
  induction bs generalizing m a with
  | nil => rfl
  | cons b bs ih =>
    simp only [List.length_cons] at h
    have h1 : c < a + 1 ∨ a + 1 + bs.length ≤ c := by omega
    have h2 : c ≠ a := by omega
    simp only [memWrite]
    rw [ih _ _ h1, memByte_set_other m a c b h2]

/-- Zeroing a range keeps the canonical form. -/
theorem memZero_wf (m : Mem) (lo hi : Nat) (h : memWf m = true) : memWf (memZero m lo hi) = true :=
  sparseWf_filter 0#8 _ m 0 h

end Sys2Proof.Machine
end

