-- ==== Sys2Proof/Laws/Contexts.lean ====
section
/-! SUPPORT. Contexts: reading after writing, and what issuing, retiring and waiting do to a running context. -/

namespace Sys2Proof.Machine

/-- Two writes of one key are the second, if the first is not the default. -/
theorem sparseSet_set_ne {V : Type} [DecidableEq V] (d : V) (t : List (Nat × V)) (k : Nat) (v x : V) (h : v ≠ d) :
    sparseSet d (sparseSet d t k v) k x = sparseSet d t k x := by
  induction t with
  | nil => simp [sparseSet, h]
  | cons e t ih =>
    obtain ⟨a, y⟩ := e
    by_cases h1 : k < a
    · simp [sparseSet, h1, h]
    · by_cases h2 : k = a
      · subst h2; simp [sparseSet, h]
      · simp [sparseSet, h1, h2, ih]

/-- A context that is not IDLE is not the context of a device reset. -/
theorem Context.ne_reset {c : Context} (h : c.state ≠ .idle) : c ≠ Context.reset := by
  intro e; subst e; exact h rfl

theorem State.ctx_setCtx (s : State) (n : Nat) (c : Context) (h : c.state ≠ .idle) : (s.setCtx n c).ctx n = c :=
  sparseGet_set_ne _ _ _ _ (Context.ne_reset h)

theorem State.ctx_setCtx_other (s : State) (n k : Nat) (c : Context) (h : k ≠ n) : (s.setCtx n c).ctx k = s.ctx k :=
  sparseGet_set_other _ _ _ _ _ h

theorem State.setCtx_setCtx (s : State) (n : Nat) (c d : Context) (h : c.state ≠ .idle) :
    (s.setCtx n c).setCtx n d = s.setCtx n d := by
  simp only [State.setCtx, sparseSet_set_ne _ _ _ _ _ (Context.ne_reset h)]

@[simp] theorem Context.setG_state (c : Context) (r : BitVec 5) (v : DWord) : (c.setG r v).state = c.state := by
  unfold Context.setG; split <;> rfl
@[simp] theorem Context.setG_pc (c : Context) (r : BitVec 5) (v : DWord) : (c.setG r v).pc = c.pc := by
  unfold Context.setG; split <;> rfl
@[simp] theorem Context.setG_retired (c : Context) (r : BitVec 5) (v : DWord) : (c.setG r v).retired = c.retired := by
  unfold Context.setG; split <;> rfl
@[simp] theorem Context.setG_level (c : Context) (r : BitVec 5) (v : DWord) : (c.setG r v).level = c.level := by
  unfold Context.setG; split <;> rfl
@[simp] theorem Context.setG_map (c : Context) (r : BitVec 5) (v : DWord) : (c.setG r v).map = c.map := by
  unfold Context.setG; split <;> rfl

/-- A running device's fuses and queue stay when only a context changes. -/
theorem State.after_withCtx (s : State) (n : Nat) (c : Context) : s.after (s.setCtx n c) = s.setCtx n c := by
  simp only [State.after, State.setCtx, Fuses.after_self]

/-- The next PC of a context whose next word lies below 2^32. -/
theorem Context.next_inside (c : Context) (h : c.pc.toNat + 4 < 2 ^ 32) : c.next.toNat = c.pc.toNat + 4 := by
  have h4 : (4 : DWord).toNat = 4 := rfl
  simp only [Context.next, BitVec.toNat_add, BitVec.toNat_setWidth, h4]; omega

theorem Context.next_setWidth (c : Context) : (c.next).setWidth 32 = c.pc + 4 := by
  apply BitVec.eq_of_toNat_eq
  have h4 : (4 : DWord).toNat = 4 := rfl
  have h5 : (4 : Word).toNat = 4 := rfl
  simp only [Context.next, BitVec.toNat_add, BitVec.toNat_setWidth, h4, h5]
  omega

/-- Retiring with a next PC below 2^32 changes the context's PC and its count, and nothing else. -/
theorem State.advanceTo_inside (s : State) (n : Nat) (t : DWord) (h : t.toNat < 2 ^ 32) :
    s.advanceTo n t = s.setCtx n ((s.ctx n).retireTo (t.setWidth 32)) := by
  simp only [State.advanceTo, if_pos h, Context.retireTo]

theorem State.advance_inside (s : State) (n : Nat) (h : (s.ctx n).pc.toNat + 4 < 2 ^ 32) :
    s.advance n = s.setCtx n ((s.ctx n).retireTo ((s.ctx n).pc + 4)) := by
  rw [State.advance, State.advanceTo_inside _ _ _ (by rw [Context.next_inside _ h]; exact h), Context.next_setWidth]

/-- Writing rd and retiring. -/
theorem State.result_inside (s : State) (n : Nat) (r : BitVec 5) (v : DWord) (hr : (s.ctx n).state ≠ .idle)
    (h : (s.ctx n).pc.toNat + 4 < 2 ^ 32) : s.result n r v = s.setCtx n ((s.ctx n).writes r v) := by
  have hs : ((s.ctx n).setG r v).state ≠ .idle := by simpa using hr
  have e : (s.putG n r v).ctx n = (s.ctx n).setG r v := s.ctx_setCtx n _ hs
  rw [State.result, State.advance_inside _ _ (by simpa [e] using h), e]
  simp only [State.putG, State.setCtx_setCtx _ _ _ _ hs, Context.writes, Context.setG_pc]

/-- A fetched word of the command's own instruction, of the right format and level, is executed. -/
theorem State.issue_runs (s : State) (n : BitVec 7) (w : Word) (mine legal level : Bool) (f : Context → State)
    (h : Fetches s n) (hm : mine = true) (hl : legal = true) (hv : level = true) :
    s.issue n.toNat w mine legal level f = f (s.ctx n.toNat) := by
  subst hm hl hv
  simp [State.issue, h.running, h.fetched, h.present]

theorem State.whilePowered_next (s : State) (f : State → State) (h : s.powered = true) :
    s.whilePowered f = .next (s.after (f s)) := by simp [State.whilePowered, h]

end Sys2Proof.Machine
end

