-- ==== Sys2Proof/Laws/PerInstr.lean ====
section
/-! SUPPORT. What holds of each command as syntax: no word spells it. -/

namespace Sys2Proof.Laws.Unspelled

open Machine

/-- No word of the table spells the command: its row gives no bits. -/
def Statement (i : Instr) : Prop := ∀ nbits w : Nat, decodeTableWord nbits w ≠ some i

/-- The decoder answers nothing. -/
theorem of_none (i : Instr) : Statement i := fun _ _ h => nomatch h

theorem vinApplied (test : SelfTest) : Statement (.vinApplied test) := of_none _
theorem vinLost : Statement (.vinLost) := of_none _
theorem startUpEnd : Statement (.startUpEnd) := of_none _
theorem tlWaitExpiry : Statement (.tlWaitExpiry) := of_none _
theorem kernelReadyTimeout : Statement (.kernelReadyTimeout) := of_none _
theorem nonTamperFatal (cause arg : Byte) : Statement (.nonTamperFatal cause arg) := of_none _
theorem deviceReset (who : Accessor) (value : Word) (test : SelfTest) : Statement (.deviceReset who value test) := of_none _
theorem tamperHoldReset (test : SelfTest) : Statement (.tamperHoldReset test) := of_none _
theorem modCtlFatal (who : Accessor) (value : Word) : Statement (.modCtlFatal who value) := of_none _
theorem tamperEvent (events : List TamperHit) (badRows : List Byte) : Statement (.tamperEvent events badRows) := of_none _
theorem eraseComplete : Statement (.eraseComplete) := of_none _
theorem tmpTestGo (who : Accessor) (value : Word) : Statement (.tmpTestGo who value) := of_none _
theorem tmpTestEnd : Statement (.tmpTestEnd) := of_none _
theorem tmpSrcCfgWrite (who : Accessor) (value : Word) : Statement (.tmpSrcCfgWrite who value) := of_none _
theorem vbatSample (mv : Half) : Statement (.vbatSample mv) := of_none _
theorem capLowRecord : Statement (.capLowRecord) := of_none _
theorem colanderSpanClose (group : BitVec 4) (bits : Bytes) (trims : List (BitVec 6)) : Statement (.colanderSpanClose group bits trims) := of_none _
theorem retrimDone (group : BitVec 4) (trims : List (BitVec 6)) : Statement (.retrimDone group trims) := of_none _
theorem groupSettled (group : BitVec 4) (trims : List (BitVec 6)) : Statement (.groupSettled group trims) := of_none _
theorem colanderReady : Statement (.colanderReady) := of_none _
theorem seedFailTimeout : Statement (.seedFailTimeout) := of_none _
theorem entropyRequestServe (raw : Option (BitVec 4 × Bytes)) : Statement (.entropyRequestServe raw) := of_none _
theorem privTimeout : Statement (.privTimeout) := of_none _
theorem notSeededTimeout : Statement (.notSeededTimeout) := of_none _
theorem drbgBackgroundReseed (slice : BitVec 6) : Statement (.drbgBackgroundReseed slice) := of_none _
theorem reseedTimeout (slice : BitVec 6) : Statement (.reseedTimeout slice) := of_none _
theorem random (sub : Submission) : Statement (.random sub) := of_none _
theorem draw (sub : Submission) : Statement (.draw sub) := of_none _
theorem create (sub : Submission) : Statement (.create sub) := of_none _
theorem generate (sub : Submission) : Statement (.generate sub) := of_none _
theorem nextGen (sub : Submission) : Statement (.nextGen sub) := of_none _
theorem narrow (sub : Submission) : Statement (.narrow sub) := of_none _
theorem destroy (sub : Submission) : Statement (.destroy sub) := of_none _
theorem destroySweepDone (owner : Byte) : Statement (.destroySweepDone owner) := of_none _
theorem query (sub : Submission) : Statement (.query sub) := of_none _
theorem prove (sub : Submission) : Statement (.prove sub) := of_none _
theorem pin (sub : Submission) : Statement (.pin sub) := of_none _
theorem unpin (sub : Submission) : Statement (.unpin sub) := of_none _
theorem imgSeal (sub : Submission) : Statement (.imgSeal sub) := of_none _
theorem imgLoad (sub : Submission) : Statement (.imgLoad sub) := of_none _
theorem imgCommit (sub : Submission) : Statement (.imgCommit sub) := of_none _
theorem imgUnload (sub : Submission) : Statement (.imgUnload sub) := of_none _
theorem ktTblIdxWrite (who : Accessor) (value : Word) : Statement (.ktTblIdxWrite who value) := of_none _
theorem digest (sub : Submission) : Statement (.digest sub) := of_none _
theorem macGen (sub : Submission) : Statement (.macGen sub) := of_none _
theorem macVerify (sub : Submission) : Statement (.macVerify sub) := of_none _
theorem ctxSave (sub : Submission) : Statement (.ctxSave sub) := of_none _
theorem ctxRestore (sub : Submission) : Statement (.ctxRestore sub) := of_none _
theorem tap (sub : Submission) : Statement (.tap sub) := of_none _
theorem tapClose (tap : BitVec 2) (stream : Bytes) : Statement (.tapClose tap stream) := of_none _
theorem rcptCheck (sub : Submission) : Statement (.rcptCheck sub) := of_none _
theorem cipherEncrypt (sub : Submission) : Statement (.cipherEncrypt sub) := of_none _
theorem cipherDecrypt (sub : Submission) : Statement (.cipherDecrypt sub) := of_none _
theorem cipherMacGen (sub : Submission) : Statement (.cipherMacGen sub) := of_none _
theorem cipherMacVerify (sub : Submission) : Statement (.cipherMacVerify sub) := of_none _
theorem wrap (sub : Submission) : Statement (.wrap sub) := of_none _
theorem unwrap (sub : Submission) : Statement (.unwrap sub) := of_none _
theorem maskReseedRequest (engine : BitVec 7) : Statement (.maskReseedRequest engine) := of_none _
theorem maskReseed (engine : BitVec 7) : Statement (.maskReseed engine) := of_none _
theorem cipherStall (engine : BitVec 7) : Statement (.cipherStall engine) := of_none _
theorem sign (sub : Submission) : Statement (.sign sub) := of_none _
theorem verify (sub : Submission) : Statement (.verify sub) := of_none _
theorem agree (sub : Submission) : Statement (.agree sub) := of_none _
theorem encap (sub : Submission) : Statement (.encap sub) := of_none _
theorem rsaDecrypt (sub : Submission) : Statement (.rsaDecrypt sub) := of_none _
theorem rsaEncrypt (sub : Submission) : Statement (.rsaEncrypt sub) := of_none _
theorem publicKey (sub : Submission) : Statement (.publicKey sub) := of_none _
theorem repeatCompare (job : Nat) (equal : Bool) : Statement (.repeatCompare job equal) := of_none _
theorem noPairTimeout (job : Nat) : Statement (.noPairTimeout job) := of_none _
theorem primeGeneration (job : Nat) (e1 e2 : BitVec 6) (ok : Bool) : Statement (.primeGeneration job e1 e2 ok) := of_none _
theorem scrubDone (cls : EngClass) (engine : Byte) (clean : Bool) : Statement (.scrubDone cls engine clean) := of_none _
theorem frameStart : Statement (.frameStart) := of_none _
theorem engineDispatch (cls : EngClass) (engine : Byte) : Statement (.engineDispatch cls engine) := of_none _
theorem segmentBoundary (cls : EngClass) (engine : Byte) (used : Nat) : Statement (.segmentBoundary cls engine used) := of_none _
theorem chunkBoundary (engine : Byte) (used : Nat) (done : Bool) : Statement (.chunkBoundary engine used done) := of_none _
theorem quarantineEnd (cls : EngClass) (engine : Byte) : Statement (.quarantineEnd cls engine) := of_none _
theorem eccErrorEngine (cls : EngClass) (engine : Byte) (uncorrectable : Bool) : Statement (.eccErrorEngine cls engine uncorrectable) := of_none _
theorem eccErrorShared (inst : BitVec 4) (line : Nat) (slice : BitVec 6) (index : BitVec 20) (uncorrectable : Bool) : Statement (.eccErrorShared inst line slice index uncorrectable) := of_none _
theorem lcrcError : Statement (.lcrcError) := of_none _
theorem rsfecUncorrectable (port : BitVec 4) : Statement (.rsfecUncorrectable port) := of_none _
theorem streamLossOfLock (port : BitVec 4) : Statement (.streamLossOfLock port) := of_none _
theorem auditFrameError (port : Bool) : Statement (.auditFrameError port) := of_none _
theorem auditLossOfLock (port : Bool) : Statement (.auditLossOfLock port) := of_none _
theorem ppsEdge (ref : Bool) (interval : Nat) (freqOk : Bool) : Statement (.ppsEdge ref interval freqOk) := of_none _
theorem todMessageClose (ref : Bool) (run : Option Bytes) (onTime : Bool) (offset : Int) : Statement (.todMessageClose ref run onTime offset) := of_none _
theorem edgeMissing (ref : Bool) : Statement (.edgeMissing ref) := of_none _
theorem referenceFail : Statement (.referenceFail) := of_none _
theorem holdoverExpiry : Statement (.holdoverExpiry) := of_none _
theorem tlNowLoRead (who : Accessor) : Statement (.tlNowLoRead who) := of_none _
theorem calAdd (who : Accessor) : Statement (.calAdd who) := of_none _
theorem calCancel (who : Accessor) : Statement (.calCancel who) := of_none _
theorem calRead (who : Accessor) : Statement (.calRead who) := of_none _
theorem calendarDispatch : Statement (.calendarDispatch) := of_none _
theorem wagerFrameReceive (port : BitVec 4) (frame : Bytes) (arrival : DWord) : Statement (.wagerFrameReceive port frame arrival) := of_none _
theorem wagerDecide (port : BitVec 4) : Statement (.wagerDecide port) := of_none _
theorem stampMacCompare (stamp : Nat) (equal : Bool) : Statement (.stampMacCompare stamp equal) := of_none _
theorem receiptTransmit (port : BitVec 4) : Statement (.receiptTransmit port) := of_none _
theorem stampUseBlockTake (market : BitVec 17) : Statement (.stampUseBlockTake market) := of_none _
theorem stampKeyPrepare (market : BitVec 17) : Statement (.stampKeyPrepare market) := of_none _
theorem sealSignatureDone (market : BitVec 17) (pq : Bool) : Statement (.sealSignatureDone market pq) := of_none _
theorem mkAdd (who : Accessor) : Statement (.mkAdd who) := of_none _
theorem mkSetClose (who : Accessor) : Statement (.mkSetClose who) := of_none _
theorem mkRemove (who : Accessor) : Statement (.mkRemove who) := of_none _
theorem mkRead (who : Accessor) : Statement (.mkRead who) := of_none _
theorem mkPortEnableWrite (who : Accessor) (value : Word) : Statement (.mkPortEnableWrite who value) := of_none _
theorem mkPortRestore (who : Accessor) (value : Word) : Statement (.mkPortRestore who value) := of_none _
theorem mkLockWrite (who : Accessor) (value : Word) : Statement (.mkLockWrite who value) := of_none _
theorem contextWake (ctx : BitVec 7) : Statement (.contextWake ctx) := of_none _
theorem ctxStart (ctx : BitVec 7) : Statement (.ctxStart ctx) := of_none _
theorem ctxResume (ctx : BitVec 7) : Statement (.ctxResume ctx) := of_none _
theorem ctxReset (ctx : BitVec 7) : Statement (.ctxReset ctx) := of_none _
theorem add (ctx : BitVec 7) (w : Word) : Statement (.add ctx w) := of_none _
theorem sub (ctx : BitVec 7) (w : Word) : Statement (.sub ctx w) := of_none _
theorem and (ctx : BitVec 7) (w : Word) : Statement (.and ctx w) := of_none _
theorem or (ctx : BitVec 7) (w : Word) : Statement (.or ctx w) := of_none _
theorem xor (ctx : BitVec 7) (w : Word) : Statement (.xor ctx w) := of_none _
theorem sll (ctx : BitVec 7) (w : Word) : Statement (.sll ctx w) := of_none _
theorem srl (ctx : BitVec 7) (w : Word) : Statement (.srl ctx w) := of_none _
theorem sra (ctx : BitVec 7) (w : Word) : Statement (.sra ctx w) := of_none _
theorem cmps (ctx : BitVec 7) (w : Word) : Statement (.cmps ctx w) := of_none _
theorem cmpu (ctx : BitVec 7) (w : Word) : Statement (.cmpu ctx w) := of_none _
theorem mul (ctx : BitVec 7) (w : Word) : Statement (.mul ctx w) := of_none _
theorem mulh (ctx : BitVec 7) (w : Word) : Statement (.mulh ctx w) := of_none _
theorem quou (ctx : BitVec 7) (w : Word) : Statement (.quou ctx w) := of_none _
theorem modu (ctx : BitVec 7) (w : Word) : Statement (.modu ctx w) := of_none _
theorem minu (ctx : BitVec 7) (w : Word) : Statement (.minu ctx w) := of_none _
theorem maxu (ctx : BitVec 7) (w : Word) : Statement (.maxu ctx w) := of_none _
theorem addi (ctx : BitVec 7) (w : Word) : Statement (.addi ctx w) := of_none _
theorem andi (ctx : BitVec 7) (w : Word) : Statement (.andi ctx w) := of_none _
theorem ori (ctx : BitVec 7) (w : Word) : Statement (.ori ctx w) := of_none _
theorem xori (ctx : BitVec 7) (w : Word) : Statement (.xori ctx w) := of_none _
theorem cmpi (ctx : BitVec 7) (w : Word) : Statement (.cmpi ctx w) := of_none _
theorem cmpiu (ctx : BitVec 7) (w : Word) : Statement (.cmpiu ctx w) := of_none _
theorem slli (ctx : BitVec 7) (w : Word) : Statement (.slli ctx w) := of_none _
theorem srli (ctx : BitVec 7) (w : Word) : Statement (.srli ctx w) := of_none _
theorem srai (ctx : BitVec 7) (w : Word) : Statement (.srai ctx w) := of_none _
theorem immh (ctx : BitVec 7) (w : Word) : Statement (.immh ctx w) := of_none _
theorem shori (ctx : BitVec 7) (w : Word) : Statement (.shori ctx w) := of_none _
theorem lb (ctx : BitVec 7) (w : Word) (l2 : L2Access) : Statement (.lb ctx w l2) := of_none _
theorem lbu (ctx : BitVec 7) (w : Word) (l2 : L2Access) : Statement (.lbu ctx w l2) := of_none _
theorem lh (ctx : BitVec 7) (w : Word) (l2 : L2Access) : Statement (.lh ctx w l2) := of_none _
theorem lhu (ctx : BitVec 7) (w : Word) (l2 : L2Access) : Statement (.lhu ctx w l2) := of_none _
theorem lw (ctx : BitVec 7) (w : Word) (l2 : L2Access) : Statement (.lw ctx w l2) := of_none _
theorem lwu (ctx : BitVec 7) (w : Word) (l2 : L2Access) : Statement (.lwu ctx w l2) := of_none _
theorem ld (ctx : BitVec 7) (w : Word) (l2 : L2Access) : Statement (.ld ctx w l2) := of_none _
theorem kld (ctx : BitVec 7) (w : Word) (l2 : L2Access) : Statement (.kld ctx w l2) := of_none _
theorem sb (ctx : BitVec 7) (w : Word) (l2 : L2Access) : Statement (.sb ctx w l2) := of_none _
theorem sh (ctx : BitVec 7) (w : Word) (l2 : L2Access) : Statement (.sh ctx w l2) := of_none _
theorem sw (ctx : BitVec 7) (w : Word) (l2 : L2Access) : Statement (.sw ctx w l2) := of_none _
theorem sd (ctx : BitVec 7) (w : Word) (l2 : L2Access) : Statement (.sd ctx w l2) := of_none _
theorem kst (ctx : BitVec 7) (w : Word) (l2 : L2Access) : Statement (.kst ctx w l2) := of_none _
theorem link (ctx : BitVec 7) (w : Word) (l2 : L2Access) : Statement (.link ctx w l2) := of_none _
theorem claim (ctx : BitVec 7) (w : Word) (l2 : L2Access) : Statement (.claim ctx w l2) := of_none _
theorem xchg (ctx : BitVec 7) (w : Word) (l2 : L2Access) : Statement (.xchg ctx w l2) := of_none _
theorem fadd (ctx : BitVec 7) (w : Word) (l2 : L2Access) : Statement (.fadd ctx w l2) := of_none _
theorem fand (ctx : BitVec 7) (w : Word) (l2 : L2Access) : Statement (.fand ctx w l2) := of_none _
theorem amoFor (ctx : BitVec 7) (w : Word) (l2 : L2Access) : Statement (.amoFor ctx w l2) := of_none _
theorem cas (ctx : BitVec 7) (w : Word) (l2 : L2Access) : Statement (.cas ctx w l2) := of_none _
theorem linkWatchExpiry (ctx : BitVec 7) : Statement (.linkWatchExpiry ctx) := of_none _
theorem fence (ctx : BitVec 7) (w : Word) : Statement (.fence ctx w) := of_none _
theorem beq (ctx : BitVec 7) (w : Word) : Statement (.beq ctx w) := of_none _
theorem bne (ctx : BitVec 7) (w : Word) : Statement (.bne ctx w) := of_none _
theorem blt (ctx : BitVec 7) (w : Word) : Statement (.blt ctx w) := of_none _
theorem bge (ctx : BitVec 7) (w : Word) : Statement (.bge ctx w) := of_none _
theorem bltu (ctx : BitVec 7) (w : Word) : Statement (.bltu ctx w) := of_none _
theorem bgeu (ctx : BitVec 7) (w : Word) : Statement (.bgeu ctx w) := of_none _
theorem jal (ctx : BitVec 7) (w : Word) : Statement (.jal ctx w) := of_none _
theorem jalr (ctx : BitVec 7) (w : Word) : Statement (.jalr ctx w) := of_none _
theorem kfromg (ctx : BitVec 7) (w : Word) : Statement (.kfromg ctx w) := of_none _
theorem ktog (ctx : BitVec 7) (w : Word) : Statement (.ktog ctx w) := of_none _
theorem srr (ctx : BitVec 7) (w : Word) : Statement (.srr ctx w) := of_none _
theorem srw (ctx : BitVec 7) (w : Word) : Statement (.srw ctx w) := of_none _
theorem srr64 (ctx : BitVec 7) (w : Word) : Statement (.srr64 ctx w) := of_none _
theorem srw64 (ctx : BitVec 7) (w : Word) : Statement (.srw64 ctx w) := of_none _
theorem jqpost (ctx : BitVec 7) (w : Word) (host : List Bytes) : Statement (.jqpost ctx w host) := of_none _
theorem jqinv (ctx : BitVec 7) (w : Word) : Statement (.jqinv ctx w) := of_none _
theorem jqwait (ctx : BitVec 7) (w : Word) : Statement (.jqwait ctx w) := of_none _
theorem tlread (ctx : BitVec 7) (w : Word) : Statement (.tlread ctx w) := of_none _
theorem tlwait (ctx : BitVec 7) (w : Word) : Statement (.tlwait ctx w) := of_none _
theorem evwait (ctx : BitVec 7) (w : Word) : Statement (.evwait ctx w) := of_none _
theorem gate (ctx : BitVec 7) (w : Word) : Statement (.gate ctx w) := of_none _
theorem gpad (ctx : BitVec 7) (w : Word) : Statement (.gpad ctx w) := of_none _
theorem gret (ctx : BitVec 7) (w : Word) : Statement (.gret ctx w) := of_none _
theorem nop (ctx : BitVec 7) (w : Word) : Statement (.nop ctx w) := of_none _
theorem yield (ctx : BitVec 7) (w : Word) : Statement (.yield ctx w) := of_none _
theorem halt (ctx : BitVec 7) (w : Word) : Statement (.halt ctx w) := of_none _
theorem brk (ctx : BitVec 7) (w : Word) : Statement (.brk ctx w) := of_none _
theorem version (ctx : BitVec 7) : Statement (.version ctx) := of_none _
theorem admitImage (ctx : BitVec 7) (stream : Bytes) : Statement (.admitImage ctx stream) := of_none _
theorem admissionDeadline : Statement (.admissionDeadline) := of_none _
theorem portService (ctx : BitVec 7) : Statement (.portService ctx) := of_none _
theorem kernelLoad (images : List Bytes) : Statement (.kernelLoad images) := of_none _
theorem swCtlKick (who : Accessor) (value : Word) : Statement (.swCtlKick who value) := of_none _
theorem swCtlReady (who : Accessor) (value : Word) : Statement (.swCtlReady who value) := of_none _
theorem swCtlRestart (who : Accessor) (value : Word) : Statement (.swCtlRestart who value) := of_none _
theorem watchdogExpiry : Statement (.watchdogExpiry) := of_none _
theorem secureWorldRestart (images : List Bytes) : Statement (.secureWorldRestart images) := of_none _
theorem restartReadyTimeout : Statement (.restartReadyTimeout) := of_none _
theorem modWmarkWrite (who : Accessor) (value : Word) : Statement (.modWmarkWrite who value) := of_none _
theorem slcS2EntWrite (who : Accessor) (value : Word) : Statement (.slcS2EntWrite who value) := of_none _
theorem s2ChangeComplete (slice page : BitVec 6) : Statement (.s2ChangeComplete slice page) := of_none _
theorem hostRequest (req : HostReq) : Statement (.hostRequest req) := of_none _
theorem dmaFailure (cause : DmaCause) (addr : BitVec 64) (write ats : Bool) : Statement (.dmaFailure cause addr write ats) := of_none _
theorem dmaTimeout (cause : DmaCause) (addr : BitVec 64) (write : Bool) : Statement (.dmaTimeout cause addr write) := of_none _
theorem atsInvalidation : Statement (.atsInvalidation) := of_none _
theorem d3hotEntry : Statement (.d3hotEntry) := of_none _
theorem d0Return : Statement (.d0Return) := of_none _
theorem linkReset (discarded : List Nat) : Statement (.linkReset discarded) := of_none _
theorem slcPasidEntWrite (who : Accessor) (value : Word) : Statement (.slcPasidEntWrite who value) := of_none _
theorem slcMgrPasidWrite (who : Accessor) (value : Word) : Statement (.slcMgrPasidWrite who value) := of_none _
theorem sliceActivate (who : Accessor) : Statement (.sliceActivate who) := of_none _
theorem sliceQuiesce (who : Accessor) : Statement (.sliceQuiesce who) := of_none _
theorem sliceUnquiesce (who : Accessor) : Statement (.sliceUnquiesce who) := of_none _
theorem quiesceDrainTimeout (slice : BitVec 6) : Statement (.quiesceDrainTimeout slice) := of_none _
theorem sliceQuiesced (slice : BitVec 6) : Statement (.sliceQuiesced slice) := of_none _
theorem sliceReset (who : Accessor) : Statement (.sliceReset who) := of_none _
theorem sliceResetDone (slice : BitVec 6) : Statement (.sliceResetDone slice) := of_none _
theorem sliceRemove (who : Accessor) : Statement (.sliceRemove who) := of_none _
theorem sliceRemoved (slice : BitVec 6) : Statement (.sliceRemoved slice) := of_none _
theorem ringEnable (who : Accessor) (slice : BitVec 6) (ring : BitVec 4) : Statement (.ringEnable who slice ring) := of_none _
theorem ringDisable (who : Accessor) (slice : BitVec 6) (ring : BitVec 4) : Statement (.ringDisable who slice ring) := of_none _
theorem sqDoorbell (who : Accessor) (slice : BitVec 6) (ring : BitVec 4) (value : Word) : Statement (.sqDoorbell who slice ring value) := of_none _
theorem cqHeadWrite (who : Accessor) (slice : BitVec 6) (ring : BitVec 4) (value : Word) : Statement (.cqHeadWrite who slice ring value) := of_none _
theorem entryFetch (slice : BitVec 6) (ring : BitVec 4) (entry : Bytes) (host : Bytes) : Statement (.entryFetch slice ring entry host) := of_none _
theorem entryRefetch (slice : BitVec 6) (ring : BitVec 4) (entry : Bytes) (host : Bytes) : Statement (.entryRefetch slice ring entry host) := of_none _
theorem notOwnedTimeout (slice : BitVec 6) (ring : BitVec 4) : Statement (.notOwnedTimeout slice ring) := of_none _
theorem coalesceTimeout (slice : BitVec 6) (ring : BitVec 4) : Statement (.coalesceTimeout slice ring) := of_none _
theorem ldlSplitWrite (who : Accessor) (value : Word) : Statement (.ldlSplitWrite who value) := of_none _
theorem stageRule (who : Accessor) : Statement (.stageRule who) := of_none _
theorem stageWin (who : Accessor) : Statement (.stageWin who) := of_none _
theorem strCommit (who : Accessor) : Statement (.strCommit who) := of_none _
theorem strDiscard (who : Accessor) : Statement (.strDiscard who) := of_none _
theorem strDrainEnd : Statement (.strDrainEnd) := of_none _
theorem strCommitStall : Statement (.strCommitStall) := of_none _
theorem strFltStsClear (who : Accessor) (value : Word) : Statement (.strFltStsClear who value) := of_none _
theorem scanTick (scans : List Scan) : Statement (.scanTick scans) := of_none _
theorem cardActivate (who : Option Accessor) (station : BitVec 3) (atr : Option Bytes) : Statement (.cardActivate who station atr) := of_none _
theorem atrTimeout (station : BitVec 3) : Statement (.atrTimeout station) := of_none _
theorem cardDeactivate (who : Accessor) (station : BitVec 3) : Statement (.cardDeactivate who station) := of_none _
theorem apduSend (who : Accessor) (station : BitVec 3) : Statement (.apduSend who station) := of_none _
theorem apduDone (station : BitVec 3) (reply : CardReply) : Statement (.apduDone station reply) := of_none _
theorem cardOvercurrent (station : BitVec 3) : Statement (.cardOvercurrent station) := of_none _
theorem cusEvtPop (who : Accessor) : Statement (.cusEvtPop who) := of_none _
theorem cusClrOvf (who : Accessor) : Statement (.cusClrOvf who) := of_none _
theorem ceremonyRequest (ctx : BitVec 7) : Statement (.ceremonyRequest ctx) := of_none _
theorem windowRequest (ctx : BitVec 7) : Statement (.windowRequest ctx) := of_none _
theorem windowClose (ctx : BitVec 7) : Statement (.windowClose ctx) := of_none _
theorem cerCancel (ctx : BitVec 7) : Statement (.cerCancel ctx) := of_none _
theorem ceremonyStart : Statement (.ceremonyStart) := of_none _
theorem turnStep : Statement (.turnStep) := of_none _
theorem turnStepTimeout (station : BitVec 3) : Statement (.turnStepTimeout station) := of_none _
theorem ceremonyStepTimeout : Statement (.ceremonyStepTimeout) := of_none _
theorem ceremonyTimeout : Statement (.ceremonyTimeout) := of_none _
theorem cancelHeld (station : BitVec 3) : Statement (.cancelHeld station) := of_none _
theorem codeDisplayEnd : Statement (.codeDisplayEnd) := of_none _
theorem generationStep : Statement (.generationStep) := of_none _
theorem ceremonyEnd : Statement (.ceremonyEnd) := of_none _
theorem daCreate : Statement (.daCreate) := of_none _
theorem daReshare : Statement (.daReshare) := of_none _
theorem kernelAdmit : Statement (.kernelAdmit) := of_none _
theorem fuseBurn : Statement (.fuseBurn) := of_none _
theorem ownerCreate : Statement (.ownerCreate) := of_none _
theorem ownerDelete : Statement (.ownerDelete) := of_none _
theorem evidenceClear (test : SelfTest) : Statement (.evidenceClear test) := of_none _
theorem serviceEnter : Statement (.serviceEnter) := of_none _
theorem recoveryExit (test : SelfTest) : Statement (.recoveryExit test) := of_none _
theorem windowOpen : Statement (.windowOpen) := of_none _
theorem ownerReshare : Statement (.ownerReshare) := of_none _
theorem admitKey : Statement (.admitKey) := of_none _
theorem recommission (test : SelfTest) : Statement (.recommission test) := of_none _
theorem windowEnd (window : BitVec 4) : Statement (.windowEnd window) := of_none _
theorem logRecordAccept : Statement (.logRecordAccept) := of_none _
theorem sideBufferDrain : Statement (.sideBufferDrain) := of_none _
theorem logStart : Statement (.logStart) := of_none _
theorem stkSealSigned (failed : Bool) : Statement (.stkSealSigned failed) := of_none _
theorem freeze (who : Accessor) : Statement (.freeze who) := of_none _
theorem thaw (who : Accessor) : Statement (.thaw who) := of_none _
theorem freezeTimeout : Statement (.freezeTimeout) := of_none _
theorem bluexFrameReceive (port : Bool) (frame : Bytes) : Statement (.bluexFrameReceive port frame) := of_none _
theorem bluexVerifyDone : Statement (.bluexVerifyDone) := of_none _
theorem proveReq : Statement (.proveReq) := of_none _
theorem measReq : Statement (.measReq) := of_none _
theorem checkkeyReq : Statement (.checkkeyReq) := of_none _
theorem helloTimer (port : Bool) (gained : Bool) : Statement (.helloTimer port gained) := of_none _
theorem exportData : Statement (.exportData) := of_none _
theorem ackTimeout : Statement (.ackTimeout) := of_none _
theorem audEnableSet (who : Accessor) : Statement (.audEnableSet who) := of_none _
theorem audEnableClear (who : Accessor) : Statement (.audEnableClear who) := of_none _
theorem pwrCommit (who : Accessor) : Statement (.pwrCommit who) := of_none _
theorem pwrDiscard (who : Accessor) : Statement (.pwrDiscard who) := of_none _
theorem pwrHoldWrite (who : Accessor) (value : Word) : Statement (.pwrHoldWrite who value) := of_none _
theorem groupDrained (group : BitVec 5) : Statement (.groupDrained group) := of_none _
theorem groupDrainTimeout (group : BitVec 5) : Statement (.groupDrainTimeout group) := of_none _
theorem groupScrubDone (group : BitVec 5) : Statement (.groupScrubDone group) := of_none _
theorem groupOffMinElapsed (group : BitVec 5) : Statement (.groupOffMinElapsed group) := of_none _
theorem groupWakeDone (group : BitVec 5) : Statement (.groupWakeDone group) := of_none _
theorem mgmtPrivateWrite (bytes : Bytes) : Statement (.mgmtPrivateWrite bytes) := of_none _
theorem mgmtPrivateRead : Statement (.mgmtPrivateRead) := of_none _
theorem mgmtDynamicAddress (setdasa : Bool) (static_ : BitVec 7) (addr : BitVec 7) : Statement (.mgmtDynamicAddress setdasa static_ addr) := of_none _
theorem debugTapInstruction (code : DebugCode) : Statement (.debugTapInstruction code) := of_none _
theorem ioRailOverload (vo33 : Bool) : Statement (.ioRailOverload vo33) := of_none _
theorem ioRailRetry (vo33 : Bool) : Statement (.ioRailRetry vo33) := of_none _
theorem heartbeatToggle : Statement (.heartbeatToggle) := of_none _
theorem registerWrite (who : Accessor) (addr : BitVec 26) (value : Word) : Statement (.registerWrite who addr value) := of_none _
theorem pcieConfigurationRequest (write : Bool) (offset : BitVec 12) (value : Word) : Statement (.pcieConfigurationRequest write offset value) := of_none _
theorem hostLinkUp (speed : BitVec 4) (width : BitVec 5) : Statement (.hostLinkUp speed width) := of_none _
theorem streamBlockLock (port : BitVec 4) : Statement (.streamBlockLock port) := of_none _
theorem temperatureSample (t0 t1 : BitVec 12) : Statement (.temperatureSample t0 t1) := of_none _
theorem capacitorRecharged : Statement (.capacitorRecharged) := of_none _
theorem vbatLost : Statement (.vbatLost) := of_none _
theorem refusedDisplayEnd : Statement (.refusedDisplayEnd) := of_none _

end Sys2Proof.Laws.Unspelled
end

