-- ==== Sys2Proof/Laws/Reports.lean ====
section
/-! SUPPORT. Reporting: interrupt status bits, events, messages and log records change nothing else. -/

namespace Sys2Proof.Machine

/-- Two states agree outside registers: `Reports` holds as soon as the rest differs only where reports may. -/
theorem Reports.ofFrame {s t : State} (hr : t.regs = s.regs) (h : t = { s with
    worlds := { s.worlds with ctxs := t.worlds.ctxs, queues := t.worlds.queues, recipe := t.worlds.recipe }
    host := { s.host with msgs := t.host.msgs, pba := t.host.pba }
    stk := { s.stk with ports := t.stk.ports, drop := t.stk.drop }
    waitingLog := t.waitingLog }) : Reports s t :=
  ⟨by rw [hr]; exact h, fun a _ => by simp only [State.reg, hr], fun a b hb => by simpa only [State.reg, hr] using hb⟩

theorem Reports.refl (s : State) : Reports s s := ⟨rfl, fun _ _ => rfl, fun _ _ h => h⟩

theorem Reports.trans {s t u : State} (h : Reports s t) (g : Reports t u) : Reports s u := by
  refine ⟨?_, fun a ha => (g.regs a ha).trans (h.regs a ha), fun a b hb => g.kept a b (h.kept a b hb)⟩
  rw [g.frame, h.frame]

theorem Reports.foldl {A : Type} (f : State → A → State) (h : ∀ s x, Reports s (f s x)) (l : List A) (s : State) :
    Reports s (l.foldl f s) := by
  induction l generalizing s with
  | nil => exact Reports.refl s
  | cons x l ih => exact (h s x).trans (ih _)

theorem State.setCtx_reports (s : State) (n : Nat) (c : Context) : Reports s (s.setCtx n c) :=
  Reports.ofFrame rfl rfl

theorem State.disarm_reports (s : State) (b : Option Nat) (p n : Nat) : Reports s (s.disarm b p n) :=
  Reports.ofFrame rfl rfl

theorem State.recipeWrite_reports (s : State) (b : Option Nat) (p : Nat) (bs : Bytes) : Reports s (s.recipeWrite b p bs) := by
  unfold State.recipeWrite; split
  · exact Reports.refl s
  · refine Reports.trans ?_ (State.disarm_reports _ _ _ _)
    exact Reports.ofFrame rfl rfl

theorem State.flushStores_reports (s : State) (n : Nat) : Reports s (s.flushStores n) := by
  unfold State.flushStores
  exact (Reports.foldl _ (fun t e => State.recipeWrite_reports t _ _ _) _ _).trans (State.setCtx_reports _ _ _)

theorem State.worldSwitch_reports (s : State) (n : Nat) : Reports s (s.worldSwitch n) := by
  unfold State.worldSwitch
  exact Reports.foldl _ (fun t k => State.flushStores_reports t k) _ _

theorem State.runCtx_reports (s : State) (n : Nat) : Reports s (s.runCtx n) := by
  unfold State.runCtx
  refine Reports.trans ?_ (State.setCtx_reports _ _ _)
  refine Reports.trans ?_ (State.worldSwitch_reports _ _)
  exact Reports.ofFrame rfl rfl

theorem State.wake_reports (s : State) (n : Nat) (b : Bool) : Reports s (s.wake n b) := by
  unfold State.wake
  have h := State.setCtx_reports s n { s.ctx n with state := .ready, wait := .none }
  dsimp only
  split
  · exact h.trans (State.runCtx_reports _ _)
  · split
    · exact h.trans (State.runCtx_reports _ _)
    · exact h
  · split
    · exact h.trans (State.runCtx_reports _ _)
    · exact h
  · split
    · exact h.trans (State.runCtx_reports _ _)
    · exact h
  · exact h

theorem State.switchFrom_reports (s : State) (n : Nat) : Reports s (s.switchFrom n) := by
  unfold State.switchFrom; split
  · exact Reports.refl s
  · dsimp only; split
    · exact Reports.refl s
    · exact State.runCtx_reports _ _

theorem State.signal_reports (s : State) (v : Nat) : Reports s (s.signal v) := by
  unfold State.signal; split
  · exact Reports.refl s
  · split <;> exact Reports.ofFrame rfl rfl

theorem State.pushRaw_reports (s : State) (p : Fin 8) (act : Bool) (r : LogRec) : Reports s (s.pushRaw p act r) := by
  unfold State.pushRaw; dsimp only; split
  · exact Reports.ofFrame rfl rfl
  · split <;> exact Reports.ofFrame rfl rfl

theorem State.postEvent_reports (s : State) (key : Nat) (e : Event) : Reports s (s.postEvent key e) := by
  unfold State.postEvent; split
  · split
    · exact (State.setCtx_reports _ _ _).trans (State.wake_reports _ _ _)
    · exact Reports.refl s
  · dsimp only; split
    · exact Reports.ofFrame rfl rfl
    · refine Reports.trans ?_ (State.pushRaw_reports _ _ _ _)
      exact Reports.ofFrame rfl rfl

theorem State.postSource_reports (s : State) (n : Nat) : Reports s (s.postSource n) := by
  unfold State.postSource; dsimp only
  split <;> split <;>
    first
    | exact Reports.refl s
    | exact State.postEvent_reports _ _ _
    | exact State.signal_reports _ _
    | exact (State.postEvent_reports _ _ _).trans (State.signal_reports _ _)

theorem State.reg_setReg_ne (s : State) (a b : Nat) (v : Word) (h : b ≠ a) : (s.setReg a v).reg b = s.reg b := by
  exact sparseGet_set_other' _ _ _ _ _ _ h

theorem State.reg_setReg_same (s : State) (a : Nat) (v : Word) (h : v ≠ regReset a) : (s.setReg a v).reg a = v :=
  sparseGet_set_ne _ _ _ _ h

/-- Setting a bit never gives zero, so the register then reads with the bit set and the other bits as before. -/
theorem State.reg_setBit (s : State) (a b : Nat) (h : regReset a = 0) (hb : b < 32) :
    (s.setReg a (s.reg a ||| (1#32 <<< b))).reg a = s.reg a ||| (1#32 <<< b) := by
  apply State.reg_setReg_same
  rw [h]
  intro e
  have := congrArg (fun v : Word => v.getLsbD b) e
  simp [hb] at this

theorem regReset_status {a : Nat} (h : a ∈ statusRegs) : regReset a = 0 := by
  have : ∀ x ∈ statusRegs, regReset x = 0 := by decide
  exact this a h

theorem State.setBit_reports (s : State) (a b : Nat) (h : a ∈ statusRegs) (hb : b < 32) :
    Reports s (s.setReg a (s.reg a ||| (1#32 <<< b))) := by
  refine ⟨rfl, fun c hc => State.reg_setReg_ne _ _ _ _ fun e => hc (e ▸ h), fun c d hd => ?_⟩
  by_cases e : c = a
  · subst e; rw [State.reg_setBit _ _ _ (regReset_status h) hb]; simp [hd]
  · rw [State.reg_setReg_ne _ _ _ _ e]; exact hd

theorem State.raise_reports (s : State) (a b : Nat) (h : a ∈ statusRegs) (hb : b < 32) : Reports s (s.raise a b) := by
  unfold State.raise; dsimp only
  split
  · exact State.setBit_reports s a b h hb
  · exact (State.setBit_reports s a b h hb).trans (Reports.foldl _ State.postSource_reports _ _)

theorem State.raise_sets (s : State) (a b : Nat) (h : a ∈ statusRegs) (hb : b < 32) :
    ((s.raise a b).reg a).getLsbD b = true := by
  have h0 : ((s.setReg a (s.reg a ||| (1#32 <<< b))).reg a).getLsbD b = true := by
    rw [State.reg_setBit _ _ _ (regReset_status h) hb]; simp [hb]
  unfold State.raise; dsimp only
  split
  · exact h0
  · exact (Reports.foldl _ State.postSource_reports _ _).kept _ _ h0

theorem State.pushLog_reports (s : State) (p : Fin 8) (act : Bool) (r : LogRec) : Reports s (s.pushLog p act r) := by
  unfold State.pushLog; dsimp only; split
  · exact State.pushRaw_reports _ _ _ _
  · exact (State.pushRaw_reports _ _ _ _).trans (State.raise_reports _ _ _ (by decide) (by decide))

theorem State.logEvent_reports (s : State) (p : Fin 8) (block code : Nat) (sev : BitVec 2) (x y z : Nat) :
    Reports s (s.logEvent p block code sev x y z) := State.pushLog_reports _ _ _ _

theorem State.logSlice_reports (s : State) (p : Fin 8) (block code : Nat) (sev : BitVec 2) (sl : Byte) (x y z : Nat) :
    Reports s (s.logSlice p block code sev sl x y z) := State.pushLog_reports _ _ _ _

/-- Reports read the same fields of the reported state as of the state before. -/
theorem Reports.talks {s t : State} (h : Reports s t) : Talks s t := ⟨_, _, _, _, _, h.frame⟩

end Sys2Proof.Machine
end

