-- ==== Sys2Proof/WellFormed.lean ====
section
/-! DEFINITION. Well-formed commands: what the shapes of the operands must be for an event to be one that the device can
meet. -/

namespace Sys2Proof

open Machine

/-- Engines of a class (R164). -/
def Machine.EngClass.engines : EngClass → Nat
  | .pool => 160
  | .cipher => 128
  | .bn => 64
  | .lane => 32

/-- Octets of host memory that a job's source asks for (R329). -/
def Machine.Submission.hostOctets (u : Submission) : Nat :=
  ((u.source.filter fun f => f.space == 1).map fun f => f.len.toNat).sum

/-- A job block or command block has 48 octets (R324), and a slice's job is charged to that slice (R258). -/
def Machine.Submission.blockWf (u : Submission) : Bool :=
  u.block.length == 48 && (match u.issuer with | .slice x => u.charge == some x | _ => true)

/-- A submission: its block, and as many octets from host memory as its source names. -/
def Machine.Submission.wf (u : Submission) : Bool := u.blockWf && u.host.length == u.hostOctets

/-- A host request is at most 4,096 octets long; a write carries its octets, a read none (R310, R311). -/
def HostReq.wf (r : HostReq) : Bool :=
  decide (r.len ≤ 4096) && (if r.write then r.data.length == r.len else r.data == [])

/-- A response has its two status octets and at most 256 octets of data more than a slot holds (R364). -/
def CardReply.wf (r : CardReply) : Bool :=
  match r with
  | .response b => decide (2 ≤ b.length)
  | .failedBlock => true

/-- A well-formed command. -/
def Instr.wf (i : Instr) : Bool :=
  match i with
  | .vinApplied _ => true
  | .vinLost => true
  | .startUpEnd => true
  | .tlWaitExpiry => true
  | .kernelReadyTimeout => true
  | .nonTamperFatal _ _ => true
  | .deviceReset _ _ _ => true
  | .tamperHoldReset _ => true
  | .modCtlFatal _ _ => true
  | .tamperEvent _ _ => true
  | .eraseComplete => true
  | .tmpTestGo _ _ => true
  | .tmpTestEnd => true
  | .tmpSrcCfgWrite _ _ => true
  | .vbatSample _ => true
  | .capLowRecord => true
  | .colanderSpanClose _ bits trims => (bits.length == 2048 || bits.length == 8192) && trims.length == 16
  | .retrimDone _ trims => trims.length == 16
  | .groupSettled _ trims => trims.length == 16
  | .colanderReady => true
  | .seedFailTimeout => true
  | .entropyRequestServe raw => (match raw with | some r => r.2.length == 512 | none => true)
  | .privTimeout => true
  | .notSeededTimeout => true
  | .drbgBackgroundReseed _ => true
  | .reseedTimeout _ => true
  | .random u => u.wf
  | .draw u => u.wf
  | .create u => u.wf
  | .generate u => u.wf
  | .nextGen u => u.wf
  | .narrow u => u.wf
  | .destroy u => u.wf
  | .destroySweepDone _ => true
  | .query u => u.wf
  | .prove u => u.wf
  | .pin u => u.wf
  | .unpin u => u.wf
  | .imgSeal u => u.wf
  | .imgLoad u => u.blockWf
  | .imgCommit u => u.wf
  | .imgUnload u => u.wf
  | .ktTblIdxWrite _ _ => true
  | .digest u => u.wf
  | .macGen u => u.wf
  | .macVerify u => u.wf
  | .ctxSave u => u.wf
  | .ctxRestore u => u.wf
  | .tap u => u.wf
  | .tapClose t stream => decide (t.toNat < 3) && (t == 0 || stream.isEmpty)
  | .rcptCheck u => u.wf
  | .cipherEncrypt u => u.wf
  | .cipherDecrypt u => u.wf
  | .cipherMacGen u => u.wf
  | .cipherMacVerify u => u.wf
  | .wrap u => u.wf
  | .unwrap u => u.wf
  | .maskReseedRequest _ => true
  | .maskReseed _ => true
  | .cipherStall _ => true
  | .sign u => u.wf
  | .verify u => u.wf
  | .agree u => u.wf
  | .encap u => u.wf
  | .rsaDecrypt u => u.wf
  | .rsaEncrypt u => u.wf
  | .publicKey u => u.wf
  | .repeatCompare _ _ => true
  | .noPairTimeout _ => true
  | .primeGeneration _ _ _ _ => true
  | .scrubDone cls engine _ => decide (engine.toNat < cls.engines)
  | .frameStart => true
  | .engineDispatch cls engine => decide (engine.toNat < cls.engines)
  | .segmentBoundary cls engine _ => decide (engine.toNat < cls.engines)
  | .chunkBoundary engine _ _ => decide (engine.toNat < EngClass.bn.engines)
  | .quarantineEnd cls engine => decide (engine.toNat < cls.engines)
  | .eccErrorEngine cls engine _ => decide (engine.toNat < cls.engines)
  | .eccErrorShared inst _ _ _ _ => decide (inst.toNat < 10)
  | .lcrcError => true
  | .rsfecUncorrectable _ => true
  | .streamLossOfLock _ => true
  | .auditFrameError _ => true
  | .auditLossOfLock _ => true
  | .ppsEdge _ _ _ => true
  | .todMessageClose _ _ _ _ => true
  | .edgeMissing _ => true
  | .referenceFail => true
  | .holdoverExpiry => true
  | .tlNowLoRead _ => true
  | .calAdd _ => true
  | .calCancel _ => true
  | .calRead _ => true
  | .calendarDispatch => true
  | .wagerFrameReceive _ _ _ => true
  | .wagerDecide _ => true
  | .stampMacCompare _ _ => true
  | .receiptTransmit _ => true
  | .stampUseBlockTake _ => true
  | .stampKeyPrepare _ => true
  | .sealSignatureDone _ _ => true
  | .mkAdd _ => true
  | .mkSetClose _ => true
  | .mkRemove _ => true
  | .mkRead _ => true
  | .mkPortEnableWrite _ _ => true
  | .mkPortRestore _ _ => true
  | .mkLockWrite _ _ => true
  | .contextWake _ => true
  | .ctxStart _ => true
  | .ctxResume _ => true
  | .ctxReset _ => true
  | .add _ _ => true
  | .sub _ _ => true
  | .and _ _ => true
  | .or _ _ => true
  | .xor _ _ => true
  | .sll _ _ => true
  | .srl _ _ => true
  | .sra _ _ => true
  | .cmps _ _ => true
  | .cmpu _ _ => true
  | .mul _ _ => true
  | .mulh _ _ => true
  | .quou _ _ => true
  | .modu _ _ => true
  | .minu _ _ => true
  | .maxu _ _ => true
  | .addi _ _ => true
  | .andi _ _ => true
  | .ori _ _ => true
  | .xori _ _ => true
  | .cmpi _ _ => true
  | .cmpiu _ _ => true
  | .slli _ _ => true
  | .srli _ _ => true
  | .srai _ _ => true
  | .immh _ _ => true
  | .shori _ _ => true
  | .lb _ _ _ => true
  | .lbu _ _ _ => true
  | .lh _ _ _ => true
  | .lhu _ _ _ => true
  | .lw _ _ _ => true
  | .lwu _ _ _ => true
  | .ld _ _ _ => true
  | .kld _ _ _ => true
  | .sb _ _ _ => true
  | .sh _ _ _ => true
  | .sw _ _ _ => true
  | .sd _ _ _ => true
  | .kst _ _ _ => true
  | .link _ _ _ => true
  | .claim _ _ _ => true
  | .xchg _ _ _ => true
  | .fadd _ _ _ => true
  | .fand _ _ _ => true
  | .amoFor _ _ _ => true
  | .cas _ _ _ => true
  | .linkWatchExpiry _ => true
  | .fence _ _ => true
  | .beq _ _ => true
  | .bne _ _ => true
  | .blt _ _ => true
  | .bge _ _ => true
  | .bltu _ _ => true
  | .bgeu _ _ => true
  | .jal _ _ => true
  | .jalr _ _ => true
  | .kfromg _ _ => true
  | .ktog _ _ => true
  | .srr _ _ => true
  | .srw _ _ => true
  | .srr64 _ _ => true
  | .srw64 _ _ => true
  | .jqpost _ _ host => host.all fun e => e.length == 64
  | .jqinv _ _ => true
  | .jqwait _ _ => true
  | .tlread _ _ => true
  | .tlwait _ _ => true
  | .evwait _ _ => true
  | .gate _ _ => true
  | .gpad _ _ => true
  | .gret _ _ => true
  | .nop _ _ => true
  | .yield _ _ => true
  | .halt _ _ => true
  | .brk _ _ => true
  | .version _ => true
  | .admitImage _ _ => true
  | .admissionDeadline => true
  | .portService _ => true
  | .kernelLoad images => images.length == 3
  | .swCtlKick _ _ => true
  | .swCtlReady _ _ => true
  | .swCtlRestart _ _ => true
  | .watchdogExpiry => true
  | .secureWorldRestart images => images.length == 3
  | .restartReadyTimeout => true
  | .modWmarkWrite _ _ => true
  | .slcS2EntWrite _ _ => true
  | .s2ChangeComplete _ _ => true
  | .hostRequest req => req.wf
  | .dmaFailure _ _ _ _ => true
  | .dmaTimeout _ _ _ => true
  | .atsInvalidation => true
  | .d3hotEntry => true
  | .d0Return => true
  | .linkReset _ => true
  | .slcPasidEntWrite _ _ => true
  | .slcMgrPasidWrite _ _ => true
  | .sliceActivate _ => true
  | .sliceQuiesce _ => true
  | .sliceUnquiesce _ => true
  | .quiesceDrainTimeout _ => true
  | .sliceQuiesced _ => true
  | .sliceReset _ => true
  | .sliceResetDone _ => true
  | .sliceRemove _ => true
  | .sliceRemoved _ => true
  | .ringEnable _ _ _ => true
  | .ringDisable _ _ _ => true
  | .sqDoorbell _ _ _ _ => true
  | .cqHeadWrite _ _ _ _ => true
  | .entryFetch _ _ entry _ => entry.length == 64
  | .entryRefetch _ _ entry _ => entry.length == 64
  | .notOwnedTimeout _ _ => true
  | .coalesceTimeout _ _ => true
  | .ldlSplitWrite _ _ => true
  | .stageRule _ => true
  | .stageWin _ => true
  | .strCommit _ => true
  | .strDiscard _ => true
  | .strDrainEnd => true
  | .strCommitStall => true
  | .strFltStsClear _ _ => true
  | .scanTick scans => scans.length == 8
  | .cardActivate _ _ atr => (match atr with | some b => decide (2 ≤ b.length ∧ b.length ≤ 33) | none => true)
  | .atrTimeout _ => true
  | .cardDeactivate _ _ => true
  | .apduSend _ _ => true
  | .apduDone _ reply => reply.wf
  | .cardOvercurrent _ => true
  | .cusEvtPop _ => true
  | .cusClrOvf _ => true
  | .ceremonyRequest _ => true
  | .windowRequest _ => true
  | .windowClose _ => true
  | .cerCancel _ => true
  | .ceremonyStart => true
  | .turnStep => true
  | .turnStepTimeout _ => true
  | .ceremonyStepTimeout => true
  | .ceremonyTimeout => true
  | .cancelHeld _ => true
  | .codeDisplayEnd => true
  | .generationStep => true
  | .ceremonyEnd => true
  | .daCreate => true
  | .daReshare => true
  | .kernelAdmit => true
  | .fuseBurn => true
  | .ownerCreate => true
  | .ownerDelete => true
  | .evidenceClear _ => true
  | .serviceEnter => true
  | .recoveryExit _ => true
  | .windowOpen => true
  | .ownerReshare => true
  | .admitKey => true
  | .recommission _ => true
  | .windowEnd _ => true
  | .logRecordAccept => true
  | .sideBufferDrain => true
  | .logStart => true
  | .stkSealSigned _ => true
  | .freeze _ => true
  | .thaw _ => true
  | .freezeTimeout => true
  | .bluexFrameReceive _ _ => true
  | .bluexVerifyDone => true
  | .proveReq => true
  | .measReq => true
  | .checkkeyReq => true
  | .helloTimer _ _ => true
  | .exportData => true
  | .ackTimeout => true
  | .audEnableSet _ => true
  | .audEnableClear _ => true
  | .pwrCommit _ => true
  | .pwrDiscard _ => true
  | .pwrHoldWrite _ _ => true
  | .groupDrained group => decide (group.toNat < 26)
  | .groupDrainTimeout group => decide (group.toNat < 26)
  | .groupScrubDone group => decide (group.toNat < 26)
  | .groupOffMinElapsed group => decide (group.toNat < 26)
  | .groupWakeDone group => decide (group.toNat < 26)
  | .mgmtPrivateWrite _ => true
  | .mgmtPrivateRead => true
  | .mgmtDynamicAddress _ _ _ => true
  | .debugTapInstruction _ => true
  | .ioRailOverload _ => true
  | .ioRailRetry _ => true
  | .heartbeatToggle => true
  | .registerWrite _ _ _ => true
  | .pcieConfigurationRequest _ _ _ => true
  | .hostLinkUp _ _ => true
  | .streamBlockLock _ => true
  | .temperatureSample _ _ => true
  | .capacitorRecharged => true
  | .vbatLost => true
  | .refusedDisplayEnd => true

end Sys2Proof
end

