-- ==== Sys2Proof/Tests/Slice0.lean ====
section
/-! SUPPORT. Tests: commands that are not well formed, the worked examples of the spec, one step of commands of each family, and
states that meet the hypotheses of the statements. Expected values come from the spec's examples and tables. -/

open Sys2Proof Sys2Proof.Machine

namespace Sys2Proof.Tests

/-! ### Ill-formed commands: one for each check of WellFormed -/

/-- A submission of S by the block alone. -/
def sub (block : Bytes) : Submission :=
  { issuer := .s, charge := none, origin := .device, block := block, source := [], host := [] }

/-- 48 octets that begin with an opcode. -/
def block (op : Byte) : Bytes := op :: zeros 47

theorem test_wf_block_is_48_octets : (Instr.query (sub (zeros 47))).wf = false := by decide
theorem test_wf_block_of_48_octets : (Instr.query (sub (zeros 48))).wf = true := by decide
theorem test_wf_job_of_a_slice_is_charged_to_it :
    (Instr.digest { sub (block 0x40) with issuer := .slice 3, charge := some 4 }).wf = false := by decide
theorem test_wf_source_octets_match :
    (Instr.digest { sub (block 0x40) with source := [⟨1, 0, 2⟩], host := [0] }).wf = false := by decide
theorem test_wf_image_block : (Instr.imgLoad (sub [])).wf = false := by decide
theorem test_wf_span_octets : (Instr.colanderSpanClose 0 (zeros 100) (List.replicate 16 0)).wf = false := by decide
theorem test_wf_span_trims : (Instr.colanderSpanClose 0 (zeros 2048) []).wf = false := by simp [Instr.wf]
theorem test_wf_retrim_trims : (Instr.retrimDone 0 [0]).wf = false := by decide
theorem test_wf_settled_trims : (Instr.groupSettled 0 [0]).wf = false := by decide
theorem test_wf_raw_block : (Instr.entropyRequestServe (some (0, zeros 10))).wf = false := by decide
theorem test_wf_tap_number : (Instr.tapClose 3 []).wf = false := by decide
theorem test_wf_tap_stream : (Instr.tapClose 1 [0]).wf = false ∧ (Instr.tapClose 0 [0]).wf = true := by decide
theorem test_wf_scrub_engine : (Instr.scrubDone .bn 64 true).wf = false := by decide
theorem test_wf_dispatch_engine : (Instr.engineDispatch .lane 32).wf = false := by decide
theorem test_wf_segment_engine : (Instr.segmentBoundary .pool 160 0).wf = false := by decide
theorem test_wf_chunk_engine : (Instr.chunkBoundary 64 0 true).wf = false := by decide
theorem test_wf_quarantine_engine : (Instr.quarantineEnd .cipher 128).wf = false := by decide
theorem test_wf_ecc_engine : (Instr.eccErrorEngine .bn 64 true).wf = false := by decide
theorem test_wf_sram_instance : (Instr.eccErrorShared 10 0 0 0 true).wf = false := by decide
theorem test_wf_queue_entry_octets : (Instr.jqpost 0 0 [[]]).wf = false := by decide
theorem test_wf_flash_images : (Instr.kernelLoad []).wf = false := by decide
theorem test_wf_restart_images : (Instr.secureWorldRestart [[]]).wf = false := by decide

/-- A host request. -/
def hostReq (write : Bool) (data : Bytes) (len : Nat) : HostReq :=
  { bar2 := false, write := write, addr := 0, pasid := none, data := data, len := len, poisoned := false }

theorem test_wf_request_length : (Instr.hostRequest (hostReq false [] 4097)).wf = false := by decide
theorem test_wf_write_octets : (Instr.hostRequest (hostReq true [0] 2)).wf = false := by decide
theorem test_wf_read_carries_none : (Instr.hostRequest (hostReq false [0] 4)).wf = false := by decide
theorem test_wf_entry_octets : (Instr.entryFetch 0 0 [] []).wf = false := by decide
theorem test_wf_refetched_octets : (Instr.entryRefetch 0 0 (zeros 63) []).wf = false := by decide
theorem test_wf_scans : (Instr.scanTick []).wf = false := by decide
theorem test_wf_atr : (Instr.cardActivate none 0 (some [0x3B])).wf = false := by decide
theorem test_wf_card_response : (Instr.apduDone 0 (.response [0x90])).wf = false := by decide
theorem test_wf_drained_group : (Instr.groupDrained 26).wf = false := by decide
theorem test_wf_drain_timeout_group : (Instr.groupDrainTimeout 26).wf = false := by decide
theorem test_wf_scrubbed_group : (Instr.groupScrubDone 26).wf = false := by decide
theorem test_wf_off_group : (Instr.groupOffMinElapsed 26).wf = false := by decide
theorem test_wf_woken_group : (Instr.groupWakeDone 26).wf = false := by decide

/-! ### Worked examples of the spec -/

/-- 02, derivation input: Context of the node of owner 0x07. -/
theorem test_kdf_context : kdfContext 0x07 0x12 2 0 0x00000A3C = [0x07, 0x12, 0x02, 0x00, 0x00, 0x00, 0x0A, 0x3C] := by decide

/-- R57: 2^32 is encoded as 0xF802 and 2^40 as 0xFA00. -/
theorem test_use_limits : limitOf 0xF802 = some (2 ^ 32) ∧ limitOf 0xFA00 = some (2 ^ 40) ∧ limitOf 0 = none := by decide

/-- 02, a reload after power loss: the owner at IMG_LOAD, and the record of handle 0x0A30_2C15. -/
def reloadOwner : Owner := { Owner.absent with resLog2 := 24, epoch := 119 }
def reloadRecord : Bytes :=
  [0x15, 0x2C, 0x30, 0x0A, 0, 0, 0, 0,
   0x01, 0x20, 0x70, 0x01, 0x40, 0x2F, 0x01, 0x00, 0x00, 0x54, 0x4B, 0x4D, 0x07, 0x12, 0x01, 0x00,
   0x30, 0x00, 0x00, 0x00, 0x00, 0x00, 0x00, 0x00, 0x06, 0x10, 0xA3, 0x20, 0x3C, 0x0A, 0x00, 0x00,
   0x60, 0x4D, 0x2F, 0x00, 0x00, 0x00, 0x02, 0xF8]

theorem test_reload_use_count : (loadEntry reloadOwner 118 reloadRecord).2.useCount = 36654432 := by decide
theorem test_reload_ceiling :
    ceiling { reloadOwner with epoch := 120 } (loadEntry reloadOwner 118 reloadRecord).2 = 53431648 := by decide
theorem test_reload_handle : handleId (loadEntry reloadOwner 118 reloadRecord).1 (loadEntry reloadOwner 118 reloadRecord).2 =
    0x0A302C15 := by decide

/-- 03, GCM encryption after reload: the fields of the job block. -/
def gcmBlock : Bytes :=
  [0x50, 0x03, 0, 0, 0x15, 0x2C, 0x30, 0x0A, 0, 0, 0, 0, 0, 0, 0, 0, 0, 0x04, 0, 0, 0, 0, 0, 0, 0, 0, 0, 0, 0, 0, 0, 0,
   0x20, 0, 0, 0, 0, 0, 0, 0, 0, 0, 0, 0, 0x10, 0x0C, 0, 0]

theorem test_gcm_block :
    let b := cpBlock (sub gcmBlock)
    b.op = 0x50 ∧ b.mode = 0x03 ∧ b.handle = 0x0A302C15 ∧ b.len = 1024 ∧ b.aadLen = 32 ∧ b.tagLen = 16 ∧ b.nonceLen = 12 := by
  decide

/-- 07, holdover ending in untrust: the bound B at two arrivals, with r 40 ns/s. -/
def holdoverState : State :=
  { State.reset with tl := { Timeline.reset with state := .holdover, resid := 40, hold := 7200000000000 } }

theorem test_holdover_bound :
    holdoverState.boundAt 7205000000000 = 220 ∧ holdoverState.boundAt 7209999999999 = 420 := by decide

/-- 08, the last wagers of a market: the frame's payload, and the stamp block. -/
def wagerPayload : Bytes :=
  [0x01, 0x01, 0x00, 0x00, 0x00, 0x00, 0x1A, 0x2B, 0x00, 0x00, 0x00, 0x04, 0x5F, 0x3A, 0x00, 0x11,
   0x00, 0x00, 0x00, 0x00, 0x00, 0x09, 0xC4, 0xE2, 0x00, 0x00, 0x00, 0x00, 0x00, 0x00, 0x31, 0x07,
   0x5E, 0x17, 0xA2, 0x09, 0xC4, 0x3B, 0x80, 0xF1, 0x6D, 0x22, 0x0E, 0x9A, 0x47, 0xB3, 0xC5, 0x18,
   0x2A, 0x91, 0x7C, 0xE0, 0x04, 0xD6, 0x3F, 0x88, 0xB1, 0x59, 0xE7, 0x12, 0x60, 0xAD, 0x0F, 0x3C]

theorem test_stamp_block :
    stampBlock ⟨Verdict.ok, 5, 0, 0x1A2B, 0x45F3A0011, 0x312, 250049⟩
      { src := 0, vlan := none, payload := wagerPayload, arrival := 8999999999950, bound := 20, untrusted := false
        holdover := false, lastBit := 0 } =
    [0x00, 0x00, 0x05, 0x00, 0x00, 0x00, 0x1A, 0x2B, 0x00, 0x00, 0x00, 0x04, 0x5F, 0x3A, 0x00, 0x11,
     0x00, 0x00, 0x03, 0x12, 0x00, 0x00, 0x00, 0x14, 0x00, 0x00, 0x00, 0x00, 0x00, 0x03, 0xD0, 0xC1,
     0x00, 0x00, 0x08, 0x2F, 0x79, 0xCD, 0x8F, 0xCE, 0x00, 0x00, 0x00, 0x00, 0x00, 0x09, 0xC4, 0xE2,
     0x00, 0x00, 0x1A, 0x2B, 0x00, 0x00, 0x00, 0x00, 0x00, 0x00, 0x00, 0x00, 0x00, 0x00, 0x31, 0x07,
     0x5E, 0x17, 0xA2, 0x09, 0xC4, 0x3B, 0x80, 0xF1, 0x6D, 0x22, 0x0E, 0x9A, 0x47, 0xB3, 0xC5, 0x18,
     0x2A, 0x91, 0x7C, 0xE0, 0x04, 0xD6, 0x3F, 0x88, 0xB1, 0x59, 0xE7, 0x12, 0x60, 0xAD, 0x0F, 0x3C] := by decide

theorem test_wager_is_well_formed : badWager wagerPayload = false := by decide

/-- R255: SRW CORE_JQ_CFG0, g5, and the selector 0x582 of TL_NOW_LO. -/
theorem test_selectors :
    selBlock 0xC4050F8A = 31 ∧ selOff 0xC4050F8A = 0x28 ∧ selBlock 0x582 = 11 ∧ selOff 0x582 = 8 := by decide

/-- R291: GATE g5, 0x0001 is 0xF0A0_0001. -/
theorem test_gate_word : zOp 0xF0A00001 = 0x3C ∧ zRd 0xF0A00001 = 5 ∧ zRs1 0xF0A00001 = 0 ∧ zImm 0xF0A00001 = 1 := by decide

/-- 09, a MAC over recipe memory: entry 0 takes its handle from k2. -/
def macEntry : Bytes :=
  [0x07, 0x02, 0, 0, 0, 0, 0, 0, 0, 0, 0, 0, 0, 0, 0, 0, 0x41, 0x31, 0x03, 0, 0, 0, 0, 0, 0x00, 0x20, 0x10, 0, 0, 0, 0, 0,
   0x00, 0x01, 0, 0, 0, 0, 0, 0, 0x00, 0x21, 0x10, 0, 0, 0, 0, 0, 0, 0, 0x0A, 0, 0, 0, 0, 0, 0, 0, 0, 0, 0, 0, 0, 0]

theorem test_entry_takes_its_handle :
    entryBad macEntry = false ∧
    slice 20 4 (substituteK (Context.reset.k.set 2 0x0B110344) macEntry) = [0x44, 0x03, 0x11, 0x0B] := by decide

/-- 14, an enclosure loop opened on VBAT alone: evidence entry 0. -/
theorem test_evidence_entry :
    Evidence.bytes { source := 0x1B, cls := 0x02, cause := 0x01, flags := 0x01, detail := 0, time := 792337472, copied := false } =
    [0x1B, 0x02, 0x01, 0x01, 0, 0, 0, 0, 0x40, 0x1C, 0x3A, 0x2F, 0, 0, 0, 0] := by decide

/-- 15, a hold ended by acknowledgement: the header of a DRAW_COMMIT record of 84 B. -/
theorem test_record_header :
    (LogEntry.body { record := { type := 0x0020, severity := 2, slice := 3, payload := zeros 56 }, seq := 0x17A2C
                     tl := 1200000000000, flags := 0, exported := false }).take 24 =
    [0x00, 0x54, 0x00, 0x20, 0x02, 0x03, 0x00, 0x00, 0x00, 0x01, 0x7A, 0x2C, 0x00, 0x00, 0x00, 0x00,
     0x00, 0x00, 0x01, 0x17, 0x65, 0x92, 0xE0, 0x00] := by decide

/-- 12, splitting a write half: the staged window 1, and the straddling write of event 6. -/
def window1 : Window := windowOfWords (0x20720000, 0x2072FFC0, 0x00000B06, 0x00000002)
def window0 : Window := windowOfWords (0x20700000, 0x2071FFC0, 0x00000B06, 0x00000001)

theorem test_windows_are_apart : window0.overlaps window1 = false := by decide
theorem test_staged_shrink_first :
    Window.overlaps (windowOfWords (0x20700000, 0x2072FFC0, 0x00000B06, 0x00000003)) window1 = true := by decide
theorem test_straddling_write_is_refused :
    (Strainer.firstRefusal { Strainer.reset with wins := [(56, window0), (57, window1)] } false
      ⟨.host, .n, some 7, some 0⟩ true permW 0x2071FFC0 128) = some (0x20720000, ⟨1, 57, 0⟩) := by decide

/-! ### One step of a core -/

/-- A context of level H that runs at 0x4000, with 2 MiB of normal memory mapped, g1 5 and g2 minus 3. -/
def hCtx : Context := { Context.reset with
  state := .running, level := .h, pc := 0x4000, map := [⟨0, 0x200000, 0x800000, 7⟩], iline := some 0x20100
  g := (Context.reset.g.set 1 5).set 2 (-3) }

/-- A device in Commissioning whose context 8 is the given one. -/
def coreState (c : Context) : State := { State.reset with
  modes := { State.reset.modes with mode := .commissioning }
  worlds := { Worlds.reset with wmark := 128, ctxs := [(8, c)] } }

/-- A property of the state that a command answers. -/
def next (i : Instr) (s : State) (p : State → Bool) : Bool := match exec i s with | .next t => p t | _ => false

/-- What context 8 is after a command. -/
def ctxAfter (i : Instr) (c : Context) (p : Context → Bool) : Bool := next i (coreState c) fun t => p (t.ctx 8)

theorem test_add : ctxAfter (.add 8 0x04611000) hCtx (fun d => d.greg 3 == 2 && d.pc == 0x4004) = true := by decide
theorem test_cmps_and_cmpu : ctxAfter (.cmps 8 0x04611008) hCtx (fun d => d.greg 3 == 1) = true ∧
    ctxAfter (.cmpu 8 0x04611009) hCtx (fun d => d.greg 3 == -1) = true := by decide
theorem test_quou_by_zero : ctxAfter (.quou 8 0x0461000C) hCtx (fun d => d.greg 3 == 0) = true := by decide
/-- The same context with g4 an address in its memory. -/
def hCtx4 (a : DWord) : Context := { hCtx with g := hCtx.g.set 4 a }

/-- A byte of recipe memory, which the context sees at 0x1000. -/
def memState (c : Context) : State :=
  let s := coreState c
  { s with worlds := { s.worlds with recipe := [(0x801000, 0x80)] } }

/-- The program of Table 9.15, word by word. -/
theorem test_immh : ctxAfter (.immh 8 0x2D400010) hCtx (fun d => d.greg 10 == 0x00100000) = true := by decide
theorem test_addi : ctxAfter (.addi 8 0x08A00014) hCtx (fun d => d.greg 5 == 0x14) = true := by decide
theorem test_ori : ctxAfter (.ori 8 0x118C0344) { hCtx with g := hCtx.g.set 12 0x0B110000 }
    (fun d => d.greg 12 == 0x0B110344) = true := by decide
theorem test_kfromg : ctxAfter (.kfromg 8 0xA04C0000) { hCtx with g := hCtx.g.set 12 0x0B110344 }
    (fun d => d.k[2] == 0x0B110344) = true := by decide
theorem test_srw_queue_base : ctxAfter (.srw 8 0xC40A0F88) { hCtx with g := hCtx.g.set 10 0x00100000 }
    (fun d => d.queues[0].base == 0x00100000) = true := by decide

theorem test_slli_reserved_bits : ctxAfter (.slli 8 0x20610040) hCtx
    (fun d => d.state == .faulted && d.cause == 0x01 && d.pc == 0x4000) = true := by decide
theorem test_writes_of_g0_are_discarded : ctxAfter (.addi 8 0x08000014) hCtx (fun d => d.greg 0 == 0) = true := by decide
theorem test_jal_back : ctxAfter (.jal 8 0x983FFFFF) hCtx (fun d => d.pc == 0x3FFC && d.greg 1 == 0x4004) = true := by decide
theorem test_beq_taken : ctxAfter (.beq 8 0x80000002) hCtx (fun d => d.pc == 0x4008) = true := by decide
theorem test_lb_extends : next (.lb 8 0x40640000 .hit) (memState (hCtx4 0x1000))
    (fun t => (t.ctx 8).greg 3 == 0xFFFFFFFFFFFFFF80) = true := by decide
theorem test_lbu_does_not : next (.lbu 8 0x44640000 .miss) (memState (hCtx4 0x1000))
    (fun t => (t.ctx 8).greg 3 == 0x80 && (t.ctx 8).state == .waiting) = true := by decide
theorem test_lh_misaligned : ctxAfter (.lh 8 0x48640001 .hit) (hCtx4 0x1000)
    (fun d => d.cause == 0x06 && d.tval == 0x1001) = true := by decide
theorem test_sb_is_not_yet_visible : next (.sb 8 0x60240000 .hit) (memState (hCtx4 0x1000))
    (fun t => t.ctxByte (t.ctx 8) 0x801000 == 5 && memByte t.worlds.recipe 0x801000 == 0x80) = true := by decide
theorem test_fadd : next (.fadd 8 0x74640803 .hit) (memState (hCtx4 0x1000))
    (fun t => (t.ctx 8).greg 3 == 0x80 && memByte t.worlds.recipe 0x801000 == 0x85) = true := by decide
theorem test_claim_without_link : next (.claim 8 0x74640801 .hit) (memState (hCtx4 0x1000))
    (fun t => (t.ctx 8).greg 3 == 0 && memByte t.worlds.recipe 0x801000 == 0x80) = true := by decide
theorem test_brk : ctxAfter (.brk 8 0xFC000003) hCtx (fun d => d.state == .faulted && d.cause == 0x0B) = true := by decide
theorem test_halt : ctxAfter (.halt 8 0xFC000002) hCtx (fun d => d.state == .halted && d.pc == 0x4004) = true := by decide
theorem test_jqpost_on_a_disabled_queue : ctxAfter (.jqpost 8 0xD0060000 []) hCtx
    (fun d => d.state == .faulted && d.cause == 0x08 && d.tval == 0) = true := by decide
theorem test_jqwait_is_met : ctxAfter (.jqwait 8 0xD9000000)
    { hCtx with queues := hCtx.queues.set 0 { Queue.reset with enable := true, cdone := 1 } } (fun d => d.greg 8 == 1) = true := by
  decide
theorem test_tlwait_for_the_past : ctxAfter (.tlwait 8 0xE0600000) hCtx (fun d => d.greg 3 == 0) = true := by decide
theorem test_evwait_poll : ctxAfter (.evwait 8 0xE4201001) hCtx (fun d => d.greg 1 == 0 && d.greg 2 == 0) = true := by decide
theorem test_gate_without_kernel : ctxAfter (.gate 8 0xF0A00001) hCtx (fun d => d.greg 5 == 0x0502) = true := by decide
theorem test_gpad_outside_the_kernel : ctxAfter (.gpad 8 0xF4000000) hCtx (fun d => d.cause == 0x02) = true := by decide

/-! ### One command of the other families -/

/-- A power-on reset's state as it is in another mode. -/
def inMode (m : Mode) : State := { State.reset with modes := { State.reset.modes with mode := m } }

theorem test_vin_lost_keeps_the_mode_left : next .vinLost (inMode .service)
    (fun t => t.modes.mode == .dormant && t.trivet.lastMode == 0x66) = true := by decide
theorem test_start_up_waits_for_its_steps : exec .startUpEnd State.reset = .next State.reset := rfl
theorem test_fatal_in_recovery : next (.nonTamperFatal 5 1) (inMode .recovery)
    (fun t => t.modes.mode == .recovery && t.trivet.cause == 5 && t.trivet.causeArg == 1) = true := by decide
theorem test_erase_alarm_in_dormant : next (.tamperEvent [⟨27, 1, 0⟩] []) (inMode .dormant)
    (fun t => t.trivet.flags == 0x08000000 && t.trivet.resume == 0xAA && t.trivet.erases == 1) = true := by decide
theorem test_capacitor : next .capacitorRecharged (inMode .dormant) (fun t => t.trivet.cap == 2) = true := by decide
theorem test_seed_fail : next .seedFailTimeout State.reset (fun t => t.cld.seedFail && t.modes.failed) = true := by decide
theorem test_table_index : next (.ktTblIdxWrite (.h 3) 0xFFFFFFFF) State.reset
    (fun t => t.reg 0x060040 == 0x000FFFFF) = true := by decide
theorem test_lcrc_error : next .lcrcError State.reset (fun t => t.whisk.lcrc == [0]) = true := by decide
theorem test_corrected_error : next (.eccErrorEngine .bn 3 false) State.reset (fun t => (t.engine .bn 3).ce == [0]) = true := by
  decide
theorem test_pps_edge : next (.ppsEdge true 15000000 true) State.reset
    (fun t => (t.tref true).seen && (t.tref true).windowOpen && !(t.tref false).seen) = true := by decide
theorem test_holdover_expiry_elsewhere : exec .holdoverExpiry State.reset = .next State.reset := rfl
theorem test_read_of_no_entry : next (.calRead .s) (inMode .service) (fun t => t.reg 0x0C0008 == 0) = true := by decide
theorem test_market_lock : next (.mkLockWrite .s 1) (inMode .commissioning) (fun t => t.reg 0x0D00A4 == 1) = true := by decide
theorem test_manager_pasid_locked : next (.slcMgrPasidWrite .s 0x80000005)
    { State.reset with host := { State.reset.host with mgrLock := true } } (fun t => t.host.mgrPasid == 0) = true := by decide
theorem test_ring_enable_needs_its_setup : next (.ringEnable .manager 0 0) (inMode .service)
    (fun t => (t.ring 0 0).enable == false && (t.ring 0 0).badCfg) = true := by decide
theorem test_discard_empties_the_list : next (.strDiscard (.h 3))
    { State.reset with str := { State.reset.str with staged := [.win 0 window0], owner := some .h } }
    (fun t => t.str.staged == [] && t.str.owner == none) = true := by decide
theorem test_event_pop : next (.cusEvtPop .s)
    { State.reset with cus := { State.reset.cus with fifo := [⟨0, 0, 0, 0, false⟩] } } (fun t => t.cus.fifo == []) = true := by decide
theorem test_x_without_a_ceremony : exec .daCreate (inMode .commissioning) = .next (inMode .commissioning) := rfl
theorem test_freeze : next (.freeze .s) State.reset (fun t => t.stk.frozen) = true := by decide
theorem test_capacitor_is_full : exec .capLowRecord State.reset = .next State.reset := rfl
theorem test_dynamic_address : next (.mgmtDynamicAddress false 0 0x22) State.reset
    (fun t => t.pkg.mgmtAddr == some 0x22) = true := by decide
theorem test_reserved_bits_ignore_writes : next (.registerWrite .s 0x010028 0xFFFFFFFF) State.reset
    (fun t => t.reg 0x010028 == 0x1F) = true := by decide

/-! ### Witnesses: states and operands that meet the hypotheses of the statements -/

/-- Most statements ask for a powered device with its tables in their canonical forms, without jobs, or in Dormant. -/
theorem witness_reset : State.reset.powered = true ∧ State.reset.Canonical ∧ State.reset.eng.jobs = [] :=
  ⟨rfl, by constructor <;> first | decide | (constructor <;> decide), rfl⟩
theorem witness_dormant : (inMode .dormant).modes.mode = .dormant ∧ (inMode .dormant).trivet.canary = true ∧
    runsInDormant .heartbeatToggle = false := by decide

/-- O1 to O5: what a step takes. -/
theorem witness_front_command : { State.reset with pending := [.vinLost] }.pending = .vinLost :: [] := rfl
theorem witness_idle : State.reset.pending = [] ∧ State.reset.powered = true ∧ State.reset.host.slices = [] := by decide
theorem witness_step : ∃ t, step { inMode .dormant with pending := [.capacitorRecharged] } = .next t := ⟨_, rfl⟩
theorem witness_keeps_trivet : State.reset.keepsTrivet = true ∧
    { State.reset with trivet := { State.reset.trivet with resume := 0xAA } }.keepsTrivet = true := by decide

/-- O7 to O10, O37 to O44, O58: a context runs and executes a word. -/
theorem core_fetches (c : Context) (h1 : c.state = .running) (h2 : (coreState c).ctx 8 = c)
    (h3 : (coreState c).fetchRefusal c = none) (h4 : (coreState c).fetchMisses c = false) : Fetches (coreState c) 8 :=
  ⟨rfl, h2.symm ▸ h1, h2.symm ▸ h3, h2.symm ▸ h4⟩
theorem h_fetches : Fetches (coreState hCtx) 8 := core_fetches hCtx rfl rfl (by decide) (by decide)
theorem executes (w : Word) (op : BitVec 6) (h : zOp w = op) : Executes (coreState hCtx) 8 w op := ⟨h_fetches, h, by decide⟩
theorem core_canonical : (coreState hCtx).Canonical := by constructor <;> first | decide | (constructor <;> decide)
theorem mem_canonical : (memState (hCtx4 0x1000)).Canonical := by constructor <;> first | decide | (constructor <;> decide)

theorem witness_alu_group (f : Fin 16) : Executes (coreState hCtx) 8 (0x04611000 + BitVec.ofNat 32 f) 0x01 ∧
    zFunc (0x04611000 + BitVec.ofNat 32 f) = BitVec.ofNat 11 f := ⟨executes _ _ (by revert f; decide), by revert f; decide⟩
theorem witness_shift_immediate : Executes (coreState hCtx) 8 0x2061003F 0x08 ∧ zImm 0x2061003F < 64 :=
  ⟨executes _ _ (by decide), by decide⟩
theorem witness_immh : Executes (coreState hCtx) 8 0x2D400010 0x0B ∧ zRs1 0x2D400010 = 0 := ⟨executes _ _ (by decide), by decide⟩
theorem witness_amo : (coreState hCtx).Canonical ∧ Executes (coreState hCtx) 8 0x74640803 0x1D ∧ (zFunc 0x74640803).toNat < 16 :=
  ⟨core_canonical, executes _ _ (by decide), by decide⟩
theorem witness_exceptions : (coreState hCtx).Canonical ∧ Fetches (coreState hCtx) 8 ∧ ((coreState hCtx).ctx 8).level ≠ .s :=
  ⟨core_canonical, h_fetches, by decide⟩
theorem witness_access : (memState (hCtx4 0x1000)).access (hCtx4 0x1000) 0x1000 1 true false = .ok 0x801000 ∧
    (memState (hCtx4 0x1000)).access (hCtx4 0x1000) 0x1FFFF8 8 false true = .ok 0x9FFFF8 := ⟨rfl, rfl⟩
theorem witness_access_refused : (coreState hCtx).ctxTranslate hCtx permR 0x200000 = none := by decide
theorem witness_fence : Executes (coreState hCtx) 8 0x78000000 0x1E ∧ (0x78000000#32).setWidth 26 = (0 : BitVec 26) :=
  ⟨executes _ _ (by decide), by decide⟩
theorem witness_moves : Executes (coreState hCtx) 8 0xA04C0000 0x28 ∧ zRs2 0xA04C0000 = 0 ∧ (zRd 0xA04C0000).getLsbD 4 = false :=
  ⟨executes _ _ (by decide), by decide⟩
theorem witness_system : Executes (coreState hCtx) 8 0xFC000002 0x3F ∧ (0xFC000002#32).setWidth 26 &&& 0x3FFF800#26 = 0 :=
  ⟨executes _ _ (by decide), by decide⟩
theorem witness_tlread : Executes (coreState hCtx) 8 0xDC600000 0x37 ∧ (0xDC600000#32).setWidth 21 = (0 : BitVec 21) :=
  ⟨executes _ _ (by decide), by decide⟩
theorem witness_tlwait : Executes (coreState hCtx) 8 0xE0610000 0x38 ∧ (0xE0610000#32).setWidth 16 = (0 : BitVec 16) ∧
    (coreState hCtx).tl.ns.toNat < (hCtx.greg 1).toNat ∧ ((hCtx.greg 1).toNat + 999) / 1000 < 2 ^ 54 :=
  ⟨executes _ _ (by decide), by decide⟩
theorem witness_evwait : Executes (coreState hCtx) 8 0xE4201001 0x39 ∧ zRs1 0xE4201001 = 0 ∧ (zFunc 0xE4201001).toNat < 2 :=
  ⟨executes _ _ (by decide), by decide⟩
theorem witness_queue_word : Executes (coreState hCtx) 8 0xD9000000 0x36 ∧ (zQ 0xD9000000).toNat < 4 ∧ zSel 0xD9000000 = 0 :=
  ⟨executes _ _ (by decide), by decide⟩
theorem witness_jqpost : (coreState hCtx).Canonical ∧ Executes (coreState hCtx) 8 0xD0060000 0x34 ∧
    (zQ 0xD0060000).toNat < 4 ∧ zSel 0xD0060000 = 0 ∧ zRd 0xD0060000 = 0 :=
  ⟨core_canonical, executes _ _ (by decide), by decide⟩
theorem witness_special : Executes (coreState hCtx) 8 0xC40A0F88 0x31 ∧ zQ 0xC40A0F88 = 0 ∧ zRd 0xC40A0F88 = 0 ∧
    ((coreState hCtx).srCheck 8 0xC40A0F88 1 true).isNone = true := ⟨executes _ _ (by decide), rfl, rfl, rfl⟩
theorem witness_gate : (coreState hCtx).Canonical ∧ Executes (coreState hCtx) 8 0xF0A00001 0x3C ∧ zRs1 0xF0A00001 = 0 :=
  ⟨core_canonical, executes _ _ (by decide), rfl⟩

/-- The context waiting for memory, and one of the kernel in a gate call of H. -/
def waitingCtx : Context := { hCtx with state := .waiting, wait := .memory }
def kernelCtx : Context := { hCtx with level := .s, gate := some ⟨0x4004, .h, 5, hCtx.map⟩ }

theorem witness_wakes : (coreState waitingCtx).Canonical ∧ ((coreState waitingCtx).ctx 8).state = .waiting ∧
    ((coreState waitingCtx).ctx 8).wait = .memory :=
  ⟨by constructor <;> first | decide | (constructor <;> decide), by decide⟩
theorem witness_switch : ∀ k, k / 8 = 8 / 8 → ((coreState waitingCtx).ctx k).state ≠ .running := by
  intro k hk
  have : k < 16 := by omega
  have h : ∀ k < 16, ((coreState waitingCtx).ctx k).state ≠ .running := by decide
  exact h k this
theorem witness_serves : Serves (coreState kernelCtx) 8 .h :=
  ⟨rfl, by constructor <;> first | decide | (constructor <;> decide), rfl, rfl, rfl⟩
theorem witness_control : (coreState kernelCtx).powered = true ∧ ((coreState kernelCtx).ctx 8).state = .running ∧
    ((coreState kernelCtx).ctx 8).level = .s ∧ ((coreState kernelCtx).ctx 0).state = .idle := by decide

/-- O11, O45 to O48, O12: Start-up, resets, alarms. -/
theorem witness_start_up : State.reset.startupDone = false ∧
    { State.reset with modes := { State.reset.modes with steps := 0x7F } }.startupDone = true := by decide
/-- Loader and watchdog: a pool engine is free for the tap; S has been silent for 5 ms; steps 2 to 5 of a restart are due. -/
theorem witness_loader : State.reset.modes.mode = .startup ∧ State.reset.worlds.kstate = .absent ∧
    State.reset.freeCompanion [] = some 0 := ⟨rfl, rfl, rfl⟩
def armedState : State := { inMode .service with
  now := 7500000, worlds := { Worlds.reset with armed := true, kstate := .running, restartDue := true } }
theorem witness_watchdog : armedState.worlds.armed = true ∧ armedState.worlds.kickAt + 7500000 ≤ armedState.now ∧
    armedState.stopWorld.freeCompanion [] = some 0 := ⟨rfl, by decide, rfl⟩
theorem witness_hold_reset : { State.reset with tamper := { State.reset.tamper with holdRequested := true } }.powered = true := by
  decide
theorem witness_erase_alarm : oneEvent { inMode .dormant with fuses := { State.reset.fuses with trvInit := true } }
      ⟨27, 1, 0⟩ .e ∧ (inMode .dormant).powered = false ∧ watchedOnVbat ⟨27, 1, 0⟩ = true ∧
    { inMode .dormant with fuses := { State.reset.fuses with trvInit := true } }.watching = true := by
  refine ⟨?_, ?_, ?_, ?_⟩ <;> first | decide | (unfold oneEvent; decide)
theorem witness_source_test : (inMode .commissioning).tamper.test = none ∧
    ((0x6450#32).getLsbD 6 = true ∧ ((0x6450#32).extractLsb' 0 6).toNat = 16 ∧ ((0x6450#32).extractLsb' 8 7).toNat = 100) := by
  decide

/-- O14, O50, O15, O16: a command and a job that nothing delays. -/
theorem witness_key_command : KtRuns (inMode .commissioning) 0x13 (sub (block 0x13)) :=
  ⟨rfl, rfl, by decide, by decide, by decide, by decide⟩
def digestBlock : Bytes := [0x40, 0x01, 0x03, 0x00] ++ zeros 30 ++ [0x0A] ++ zeros 13
theorem witness_job : JobRuns (inMode .commissioning) 0x40 (sub digestBlock) ∧
    jobDraws (underOp 0x40 (sub digestBlock)) = [] :=
  ⟨⟨rfl, rfl, by decide, by decide, by decide, by decide⟩, by decide⟩

/-- O17, O18: an engine that runs a segment of the only job. -/
def lone (c : EngClass) (u : Submission) : State :=
  let g : Segment := { job := 0, second := false, slice := none, owned := false, reservation := 3000, frame := 0, device := false
                       inserted := false, companion := false, began := 0, cycles := 0, off := 0 }
  let j := { newJob 0 u with
    stage := .running
    run1 := some { engine := 0, base := 0, areas := 1, chunks := 0, total := 1, stream := Stream.empty, companion := none
                   done := false, status := 0, outLen := 0 } }
  { inMode .commissioning with eng := { State.reset.eng with
      nextJob := 1, jobs := [j], table := [(engKey c 0, { Engine.reset with running := some g })] } }

theorem witness_segment : ∃ g j, RunsOnly (lone .pool (sub digestBlock)) .pool 0 g j :=
  ⟨_, _, rfl, by constructor <;> first | decide | (constructor <;> decide), rfl, ⟨rfl, rfl⟩, ⟨rfl, rfl, rfl⟩, ⟨rfl, rfl⟩⟩
theorem witness_chunk : ∃ g j, RunsOnly (lone .bn (sub (block 0x61))) .bn 0 g j ∧ (j.run g.second).isSome = true :=
  ⟨_, _, ⟨rfl, by constructor <;> first | decide | (constructor <;> decide), rfl, ⟨rfl, rfl⟩, ⟨rfl, rfl, rfl⟩, ⟨rfl, rfl⟩⟩, rfl⟩

/-- O19: nothing waits to land at the next frame start. -/
theorem witness_quiet_frame : QuietFrame State.reset :=
  ⟨rfl, witness_reset.2.1, rfl, ⟨rfl, rfl⟩, rfl, by decide, rfl, by decide, by decide⟩

/-- O13, O22, O28, O29, O30, O55: requests, commands, rings, stations, ceremonies and seals. -/
theorem witness_calendar_issuer : Accessor.s.commands = true ∧ (Accessor.h 3).commands = true := by decide
def ringState : State := { inMode .service with host := { State.reset.host with slices :=
  [(0, { Slice.reset with state := .active, rings := [(0, { Ring.reset with enable := true, state := .running })] })] } }
theorem witness_ring : RingServes ringState 0 0 :=
  ⟨rfl, by constructor <;> first | decide | (constructor <;> decide), rfl, rfl, rfl, rfl⟩
def stationState : State := { inMode .commissioning with
  cus := { State.reset.cus with stations := [(7, { Station.reset with enable := true })] } }
theorem witness_station : LoneStation stationState 7 :=
  ⟨rfl, by constructor <;> first | decide | (constructor <;> decide), by decide, rfl, by decide, ⟨rfl, rfl, rfl, rfl⟩, ⟨rfl, rfl⟩,
    by decide⟩
def atX (cer : Byte) : Ceremony :=
  { request := { id := 1, who := .h, desc := cer :: zeros 63, window := false }, parts := [.x], drawn := [], generated := false
    ending := none, seen := [], assigned := [], collected := [], places := 0 }
def xState (cer : Byte) : State := { inMode .commissioning with cus := { State.reset.cus with running := some (atX cer) } }
theorem witness_at_x : AtX (xState 0x01) 0x01 (atX 0x01) :=
  ⟨rfl, by constructor <;> first | decide | (constructor <;> decide), rfl, rfl, rfl, rfl⟩

/-- O36: the last but one share of a quorum, and a turn that is over. -/
def fillingTurn : Turn :=
  { kind := .quorum, step := .filling, part := 2, owner := 0, m := 2, n := 3, agen := 1, serial := 9, index := 1, enrolled := true
    pin := [], newPin := [], challenge := [], place := 0, blob := zeros 56, work := none
    result := some (some ([0, 1, 0, 0, 0, 0, 0, 1, 0, 0, 0, 0, 0, 0, 0, 9] ++ zeros 32)), won := true }
def quorumState (u : Turn) (c : CardState) : State := { inMode .commissioning with cus := { State.reset.cus with
  running := some { atX 0x03 with parts := [.q 0, .x] }, stations := [(3, { Station.reset with turn := some u, card := c })] } }
theorem witness_filling : (quorumState fillingTurn .off).tamper.gateClosed = false ∧
    ((quorumState fillingTurn .off).stn 3).turn = some fillingTurn ∧
    (∀ m, m < 8 → m ≠ 3 → ((quorumState fillingTurn .off).stn m).turn = none) := by decide
theorem test_share_fills : next .turnStep (quorumState fillingTurn .off) (fun t =>
    t.cus.combiner == [(1, zeros 32)] && ((t.stn 3).turn == none) && (t.stn 3).text == "DONE 1/2") = true := by decide
theorem test_session_ends_first : next (.turnStepTimeout 3) (quorumState { fillingTurn with step := .pin } .active) (fun t =>
    ((t.stn 3).turn.any Turn.over) && (t.stn 3).apduBuf == [0x80, 0x40, 0, 0] && (t.stn 3).busy) = true := by decide

/-- O55: a seal record at the head of the stamp pipeline's port, whose turn it is. -/
def sealRec : LogRec := { type := 0x0030, severity := 2, slice := 3, payload := zeros 144 }
def sealState : State := { inMode .service with
  stk := { State.reset.stk with started := true, turn := 2, ports := State.reset.stk.ports.set 2 [sealRec] }
  mkt := { State.reset.mkt with outbox := [⟨3, 0, false, 1⟩] } }
theorem witness_accepted_seal : sealState.powered = true ∧ sealState.Canonical ∧ sealState.stk.started = true ∧
    sealState.stk.own = [] ∧ sealState.stk.turn = 2 ∧ sealState.stk.ports[2] = [sealRec] ∧ ¬Waits sealState.stk sealRec ∧
    sealState.mkt.outbox = [⟨3, 0, false, 1⟩] ∧ ∀ e ∈ sealState.stk.stored ++ sealState.stk.side, e.seq ≠ sealState.stk.nextSeq :=
  ⟨rfl, by constructor <;> first | decide | (constructor <;> decide), rfl, rfl, rfl, rfl, fun h => absurd h.2.1 (by decide), rfl, by decide⟩

/-! ### Witnesses of O60, part by part -/

/-- The kernel's context waits until 5 ns; its queue holds an event, or none. -/
def sCtx : Context := { hCtx with level := .s }
def anEvent : Event := { kind := 1, arg := 2, tag := 3, index := 4 }
def sState (queues : List (Nat × EventQueue)) : State :=
  let s := coreState sCtx
  { s with worlds := { s.worlds with queues := queues } }
def oneEventWaits : State := sState [(sCtx.queueKey, { EventQueue.empty with events := [anEvent] })]

theorem s_executes (w : Word) (op : BitVec 6) (h : zOp w = op) : Executes (sState []) 8 w op :=
  ⟨⟨rfl, rfl, by decide, by decide⟩, h, by decide⟩
theorem witness_waits : Executes (sState []) 8 0xE0610000 0x38 ∧ (sState []).tl.ns.toNat < (sCtx.greg 1).toNat ∧
    ((sCtx.greg 1).toNat + 999) / 1000 < 2 ^ 54 ∧ sCtx.level = .s ∧ (sState []).calUsed 0xFF < 16384 :=
  ⟨s_executes _ _ (by decide), by decide, by decide, rfl, by decide⟩
theorem witness_events : Executes oneEventWaits 8 0xE4200000 0x39 ∧ zRs1 0xE4200000 = 0 ∧ zFunc 0xE4200000 = 0 ∧
    (sparseGet EventQueue.empty oneEventWaits.worlds.queues sCtx.queueKey).events = [anEvent] ∧
    (sparseGet EventQueue.empty (sState []).worlds.queues sCtx.queueKey).events = [] :=
  ⟨⟨⟨rfl, rfl, by decide, by decide⟩, by decide, by decide⟩, by decide, by decide, by decide, rfl⟩
theorem witness_break : Executes (sState []) 8 0xFC000003 0x3F ∧ (0xFC000003#32).setWidth 26 = 3#26 ∧
    (sState []).modes.mode ≠ .startup ∧ (sState []).worlds.restarting = false ∧ (sState []).worlds.kstate ≠ .failed ∧
    (sState []).worlds.restartTimes = [] := ⟨s_executes _ _ (by decide), by decide, by decide, rfl, by decide, rfl⟩

/-- A linked device whose slice 0 has one ring, with copies behind its head. -/
def linked (g : Ring) : State := { inMode .service with host := { State.reset.host with
  linkUp := true, slices := [(0, { Slice.reset with state := .active, rings := [(0, g)], binds := [(0, 0x80000001)] })] } }
def good : Ring := { Ring.reset with sqLog2 := 4, cqLog2 := 4 }
def copy : FetchedEntry := { index := 0, body := zeros 64, host := [] }
def served (fetched : List FetchedEntry) (tail : Word) : Ring :=
  { good with enable := true, state := .running, fetched := fetched, tail := tail }

theorem witness_ring_setup : (linked good).powered = true ∧ (linked good).Canonical ∧ (linked good).str.rules = [] ∧
    (linked good).str.wins = [] ∧ ((linked good).ring 0 0).enable = false ∧ good.sqLog2 = 4 ∧
    (((linked good).slc 0).pasid good.pasidIdx.toNat).isSome = true :=
  ⟨rfl, by constructor <;> first | decide | (constructor <;> decide), rfl, rfl, rfl, rfl, rfl⟩
theorem witness_ring_serves : RingServes (linked (served [] 0)) 0 0 ∧ RingServes (linked (served [copy] 1)) 0 0 ∧
    (served [copy] 1).owned copy = false :=
  ⟨⟨rfl, by constructor <;> first | decide | (constructor <;> decide), rfl, rfl, rfl, rfl⟩,
    ⟨rfl, by constructor <;> first | decide | (constructor <;> decide), rfl, rfl, rfl, rfl⟩, by decide⟩
theorem witness_drain_limit : (({ State.reset with host := { State.reset.host with
    slices := [(0, { Slice.reset with state := .quiescing })] } } : State).slc 0).state = .quiescing := rfl

/-- A card whose ATR offers T=1 and no class. -/
theorem witness_cards : (atrOf [0x3B, 0x80, 0x01, 0x81]).map (fun m => (m.one, m.classes)) = some (true, none) ∧
    atrOf [0x3B, 0x80, 0x01, 0x80] = none := by decide

theorem witness_log_forms : State.reset.stk.frozen = false ∧ State.reset.stk.side = [] ∧ State.reset.stk.hold = false ∧
    NoneWaits State.reset := ⟨rfl, rfl, rfl, rfl, rfl, rfl⟩
/-- A hold with one chained record in the side buffer and an empty ring. -/
def heldEntry : LogEntry := { record := { type := 5, severity := 2, slice := 0xFF, payload := [] }, seq := 0, tl := 0, flags := 4
                              exported := false }
theorem witness_drain : let k := { State.reset.stk with hold := true, side := [heldEntry] }
    FirstRun k 2 heldEntry.record.slots 0 ∧ Blocks k 3 ⟨0, heldEntry⟩ := by
  refine ⟨⟨⟨by decide, fun x hx => absurd hx (by simp [State.reset, Stockpot.reset])⟩, ?_⟩, by unfold Blocks; decide⟩
  intro q _ hd
  simp [State.reset, Stockpot.reset] at hd

/-- An enabled audit link, with a request served for the secure world. -/
def asked (kind : Byte) : RegFrame := { kind := kind, reqSeq := 5, body := zeros 40, signature := zeros 96, port := false }
def linkOn (a : Audit) : State := { inMode .service with
  regs := [(0x140004, 1)], aud := a, stk := { State.reset.stk with started := true }
  worlds := { Worlds.reset with kstate := .running } }
theorem witness_audit_forms : (linkOn State.reset.aud).audEnable = true ∧ (linkOn State.reset.aud).Canonical ∧
    ({ State.reset.aud with served := [asked 0x84] } : Audit).served.find? (fun g => g.kind == 0x84#8) = some (asked 0x84) ∧
    (linkOn State.reset.aud).worlds.kstate = .running ∧ (∀ p : Fin 8, (linkOn State.reset.aud).stk.ports[p] = []) ∧
    ∀ r : LogRec, r.severity = 2 → ¬Waits (linkOn State.reset.aud).stk r :=
  ⟨by decide, by constructor <;> first | decide | (constructor <;> decide), by decide, rfl, by decide, fun r _ h => by
    rcases h with ⟨_, h, _⟩
    simp [linkOn, State.reset, Stockpot.reset] at h⟩

end Sys2Proof.Tests
end

/-! Proofs about TLREAD and the timeline's status register (R264). -/

namespace Sys2Proof.Machine

theorem exec_tlread (n : BitVec 7) (w : Word) (s : State) : exec (.tlread n w) s = execTlread n w s := rfl

/-- A word that holds nothing below rd has the format of TLREAD. -/
theorem tlread_format {w : Word} (h : w.setWidth 21 = (0 : BitVec 21)) :
    (zRs1 w == 0 && (w.setWidth 16 : BitVec 16) == 0) = true := by
  have hrs1 : zRs1 w = (w.setWidth 21 : BitVec 21).extractLsb' 16 5 := by
    simp [zRs1, BitVec.extractLsb'_setWidth_of_le]
  have hlow : (w.setWidth 16 : BitVec 16) = (w.setWidth 21 : BitVec 21).setWidth 16 := by
    simp [BitVec.setWidth_setWidth_of_le]
  simp [hrs1, hlow, h]

/-- TLREAD writes the timeline counter to rd, retires, and changes nothing else. -/
theorem execTlread_eq {s : State} {n : BitVec 7} {w : Word} (h : Executes s n w 0x37)
    (hw : w.setWidth 21 = (0 : BitVec 21)) :
    execTlread n w s = .next (s.withCtx n ((s.ctx n.toNat).writes (zRd w) s.tl.ns)) := by
  obtain ⟨hf, hop, hin⟩ := h
  have hidle : (s.ctx n.toNat).state ≠ .idle := by simp [hf.running]
  have hmine : isOp w 0x37 = true := by simp [isOp, hop]
  rw [execTlread, State.whilePowered_next _ _ hf.powered,
    State.issue_runs _ _ _ _ _ _ _ hf hmine (tlread_format hw) rfl, State.result_inside _ _ _ _ hidle hin,
    State.after_withCtx, State.withCtx]

/-- Fields that begin at bit `d` or above leave the `d` bits below as they are. -/
theorem foldl_fields_mod (d : Nat) (fs : List (Nat × Nat)) (h : ∀ f ∈ fs, d ≤ f.2) (v : Nat) :
    (fs.foldl (fun v f => v + f.1 * 2 ^ f.2) v) % 2 ^ d = v % 2 ^ d := by
  induction fs generalizing v with
  | nil => rfl
  | cons f fs ih =>
    obtain ⟨hf, hfs⟩ := List.forall_mem_cons.mp h
    have hdvd : 2 ^ d ∣ f.1 * 2 ^ f.2 := Nat.dvd_mul_left_of_dvd (Nat.pow_dvd_pow 2 hf) _
    rw [List.foldl_cons, ih hfs, Nat.add_mod, Nat.mod_eq_zero_of_dvd hdvd, Nat.add_zero, Nat.mod_mod]

/-- A register's lowest field reads as its value, if it fits below the others. -/
theorem pack_lowest_field (d a : Nat) (fs : List (Nat × Nat)) (hd : d ≤ 32) (ha : a < 2 ^ d) (h : ∀ f ∈ fs, d ≤ f.2) :
    ((pack ((a, 0) :: fs)).extractLsb' 0 d).toNat = a := by
  rw [pack, BitVec.extractLsb'_toNat, BitVec.toNat_ofNat, Nat.shiftRight_zero, Nat.mod_mod_of_dvd _ (Nat.pow_dvd_pow 2 hd),
    List.foldl_cons, foldl_fields_mod d fs h]
  simpa using Nat.mod_eq_of_lt ha

theorem TlState.code_lt (t : TlState) : t.code < 2 ^ 2 := by cases t <;> decide

/-- What TL_STS reads as (Table 7.9). -/
theorem State.readReg_tlSts (s : State) (who : Accessor) : s.readReg who 0x0B0000 =
    pack [(s.tl.state.code, 0), flag s.timeUntrusted 2, flag s.tl.stepped 3, flag s.tl.sel 4, flag s.tl.disagree 5,
      flag s.tl.stepNeeded 6, flag s.tl.residHigh 7] := by
  have hcopied : copiedReg 0x0B0000 = false := by decide
  have hblock : s.blockView who (0x0B0000 / 0x10000) = s.tlView who := rfl
  rw [State.readReg, hcopied, hblock]
  simp [State.tlView]

/-- TL_STS.STATE reads as the timeline's state (R264). -/
theorem State.readReg_tlSts_state (s : State) (who : Accessor) :
    ((s.readReg who 0x0B0000).extractLsb' 0 2).toNat = s.tl.state.code := by
  rw [State.readReg_tlSts]
  exact pack_lowest_field 2 _ _ (by decide) s.tl.state.code_lt (by simp [flag])

/-- Settles O10: the word is of TLREAD's format, so that issuing it writes the counter and retires; and TL_STS holds the state's
code below its flags. -/
theorem tlreadReadsTheTimeline : Obligations.TlreadReadsTheTimeline := by
  intro s n w h hw
  exact ⟨(exec_tlread n w s).trans (execTlread_eq h hw), s.readReg_tlSts_state .s⟩

end Sys2Proof.Machine

/-! Proofs about Strainer's staging list, commits, drains and stalls (R351 to R360). -/

namespace Sys2Proof.Machine

/-! ### Writes of Strainer's registers, and who makes them (R360, R491) -/

/-- A state that keeps the queue, the time and the fuses is what its command leaves. -/
theorem State.after_of_kept {s t : State} (hp : t.pending = s.pending) (hn : t.now = s.now) (hf : t.fuses = s.fuses) :
    s.after t = t := by
  simp only [State.after, ← hp, ← hn, ← hf, Fuses.after_self]

/-- Reporting keeps the queue, the time and the fuses. -/
theorem State.after_of_talks {s u t : State} (h : Talks u t) (hp : u.pending = s.pending) (hn : u.now = s.now)
    (hf : u.fuses = s.fuses) : s.after t = t :=
  State.after_of_kept (h.pending.trans hp) (h.now.trans hn) (h.fuses.trans hf)

/-- An access within one piece has that piece alone. -/
theorem pieceStarts_of_one_piece {a n : Nat} (hn : n ≠ 0) (h : (a + n - 1) / 64 = a / 64) : pieceStarts a n = [a] := by
  simp [pieceStarts, hn, h]

/-- What a register's chapter does not open to a requester, the baseline refuses, whether or not Strainer checks it. -/
theorem State.ringRefusal_closed (s : State) (q : ReqAttr) (need : BitVec 3) {a n : Nat} (hn : n ≠ 0)
    (h : (barCheck a + n - 1) / 64 = barCheck a / 64) :
    s.ringRefusal q false need a n = some (barCheck a, ⟨0, 0, 0⟩) := by
  unfold State.ringRefusal
  split
  · rw [Strainer.firstRefusal, pieceStarts_of_one_piece hn h]
    rfl
  · rfl

theorem State.writeBy_closed (s : State) (who : Accessor) {a : Nat} (f : State → State)
    (h : (barCheck a + 4 - 1) / 64 = barCheck a / 64) : s.writeBy false who a f = s.denied who a := by
  rw [State.writeBy, State.ringRefusal_closed s _ _ (by decide) h]
  rfl

theorem State.writeBy_open {s : State} {who : Accessor} {a : Nat} (f : State → State) (h : s.reaches who a = true) :
    s.writeBy true who a f = f s := by
  rw [State.writeBy, Option.isNone_iff_eq_none.mp h]

section
variable {s : State} {who : Accessor}

/-- A write of Strainer's registers from below H is refused (R360). -/
theorem State.strainer_write_denied (hp : s.powered = true) (hlow : who.isSH = false) {a : Nat}
    (h : (barCheck a + 4 - 1) / 64 = barCheck a / 64) (f : State → State) :
    (s.whilePowered fun s => s.writeBy who.isSH who a f) = .next (s.after (s.denied who a)) := by
  rw [State.whilePowered_on _ _ hp, hlow, State.writeBy_closed s who f h]

/-- A write of S or H that Strainer lets through is performed (R360). -/
theorem State.strainer_write_performed (hp : s.powered = true) (hsh : who.isSH = true) {a : Nat}
    (h : s.reaches who a = true) {f : State → State} (hf : s.after (f s) = f s) :
    (s.whilePowered fun s => s.writeBy who.isSH who a f) = .next (f s) := by
  rw [State.whilePowered_on _ _ hp, hsh, State.writeBy_open f h, hf]

end

/-! ### The staging list (R351) -/

/-- The list is another level's (R351). -/
def Strainer.OwnedByOther (t : Strainer) (own : StageOwner) : Prop := t.staged ≠ [] ∧ t.owner ≠ some own

/-- An entry for the same place of the tables is staged. -/
def Strainer.Lists (t : Strainer) (x : Staged) : Prop := ∃ y ∈ t.staged, y.target = x.target

/-- What a staging write that nothing forbids does: it takes its place in the list, if there is one (R351). -/
def State.enlist (s : State) (who : Accessor) (x : Staged) : State :=
  let again := s.str.staged.any fun y => y.target == x.target
  if !again && decide (256 ≤ s.str.staged.length) then s.strStatus St.attrDenied 0xA5 false true
  else
    let list := if again then s.str.staged.map fun y => if y.target == x.target then x else y else s.str.staged ++ [x]
    ({ s with str := { s.str with staged := list, owner := some who.stageOwner } }).strStatus St.ok 0 false true

section
variable {s : State} {who : Accessor} {x : Staged} {locked bad overlaps : Bool}

theorem State.stage_pending (hp : s.str.pending = true) :
    s.stage who x locked bad overlaps = s.strStatus St.attrDenied 0xA8 false true := by
  simp [State.stage, hp]

theorem State.stage_other (hp : s.str.pending = false) (ho : s.str.OwnedByOther who.stageOwner) :
    s.stage who x locked bad overlaps = s.strStatus St.attrDenied 0xA6 false true := by
  simp [State.stage, hp, ho.1, ho.2]

/-- In a list of its own level's, the place's lock, the entry's lock, its fields and the other windows decide, in this order. -/
theorem State.stage_own (hp : s.str.pending = false) (ho : ¬s.str.OwnedByOther who.stageOwner) :
    s.stage who x locked bad overlaps =
      if locked then s.strStatus St.attrDenied 0xA3 false true
      else if x.lock && who.stageOwner == .h then s.strStatus St.attrDenied 0x19 false true
      else if bad then s.strStatus St.malformed 0x35 false true
      else if overlaps then s.strStatus St.attrDenied 0xA4 false true
      else s.enlist who x := by
  have hown : ¬(!s.str.staged.isEmpty && s.str.owner != some who.stageOwner) = true := by
    simpa [Strainer.OwnedByOther] using ho
  exact (if_neg (ne_true_of_eq_false hp)).trans (if_neg hown)

theorem State.stage_locked (hp : s.str.pending = false) (ho : ¬s.str.OwnedByOther who.stageOwner) (hl : locked = true) :
    s.stage who x locked bad overlaps = s.strStatus St.attrDenied 0xA3 false true :=
  (State.stage_own hp ho).trans (if_pos hl)

/-- Only S stages LOCK (R357). -/
theorem State.stage_lockOfH (hp : s.str.pending = false) (ho : ¬s.str.OwnedByOther who.stageOwner) (hl : locked = false)
    (hs : x.lock = true ∧ who.stageOwner = .h) :
    s.stage who x locked bad overlaps = s.strStatus St.attrDenied 0x19 false true := by
  rw [State.stage_own hp ho]
  simp [hl, hs.1, hs.2]

/-- An entry that its place and its level allow. -/
theorem State.stage_allowed (hp : s.str.pending = false) (ho : ¬s.str.OwnedByOther who.stageOwner) (hl : locked = false)
    (hs : ¬(x.lock = true ∧ who.stageOwner = .h)) :
    s.stage who x locked bad overlaps =
      if bad then s.strStatus St.malformed 0x35 false true
      else if overlaps then s.strStatus St.attrDenied 0xA4 false true
      else s.enlist who x := by
  rw [State.stage_own hp ho, if_neg (ne_true_of_eq_false hl), if_neg (by simpa using hs)]

theorem Strainer.any_target_eq {t : Strainer} : (t.staged.any fun y => y.target == x.target) = true ↔ t.Lists x := by
  simp [Strainer.Lists]

theorem State.enlist_full (hl : ¬s.str.Lists x) (hf : 256 ≤ s.str.staged.length) :
    s.enlist who x = s.strStatus St.attrDenied 0xA5 false true := by
  simp [State.enlist, Bool.eq_false_iff.mpr (mt Strainer.any_target_eq.mp hl), hf]

theorem State.enlist_new (hl : ¬s.str.Lists x) (hf : s.str.staged.length < 256) : s.enlist who x =
    ({ s with str := { s.str with staged := s.str.staged ++ [x], owner := some who.stageOwner } }).strStatus
      St.ok 0 false true := by
  simp [State.enlist, Bool.eq_false_iff.mpr (mt Strainer.any_target_eq.mp hl), Nat.not_le_of_lt hf]

theorem State.enlist_again (hl : s.str.Lists x) : s.enlist who x =
    ({ s with str := { s.str with
        staged := s.str.staged.map fun y : Staged => if y.target = x.target then x else y
        owner := some who.stageOwner } }).strStatus St.ok 0 false true := by
  simp [State.enlist, Strainer.any_target_eq.mpr hl]

/-- A staging write leaves what no command changes. -/
theorem State.after_stage : s.after (s.stage who x locked bad overlaps) = s.stage who x locked bad overlaps := by
  unfold State.stage
  dsimp only
  repeat' split
  all_goals exact State.after_of_kept rfl rfl rfl

end

/-- A staging write of S or H is checked for the level that makes it (R351, R360). -/
theorem exec_stageWrite {s : State} {who : Accessor} (hp : s.powered = true) (hsh : who.isSH = true)
    (hr : s.reaches who aStrCmd = true) {x : StageWrite} (hx : x ∈ stageWrites s) :
    exec (x.instr who) s = .next (s.stage who x.entry x.locked x.bad x.overlaps) := by
  simp only [stageWrites, List.mem_cons, List.not_mem_nil, or_false] at hx
  rcases hx with rfl | rfl
  · refine (State.strainer_write_performed hp hsh hr (f := fun t => t.stageRuleCmd who) State.after_stage).trans ?_
    simp only [State.stageRuleCmd, Bool.or_assoc]
  · refine (State.strainer_write_performed hp hsh hr (f := fun t => t.stageWinCmd who) State.after_stage).trans ?_
    simp only [State.stageWinCmd, Bool.or_assoc]

theorem Accessor.stageOwner_eq (who : Accessor) : who.stageOwner = if who = .s then .s else .h := by
  cases who <;> rfl

/-! ### COMMIT and DISCARD (R352, R356) -/

section
variable {s : State}

theorem State.strCommitCmd_pending (hp : s.str.pending = true) :
    s.strCommitCmd = s.strStatus St.attrDenied 0xA8 false true := by
  simp [State.strCommitCmd, hp]

theorem State.strCommitCmd_mismatch (hp : s.str.pending = false)
    (h : s.reg 0x0F000C ≠ s.str.epoch + 1 ∨ s.str.staged = []) :
    s.strCommitCmd = s.strStatus St.attrDenied 0xA7 false true := by
  have h' : (s.reg 0x0F000C != s.str.epoch + 1 || s.str.staged.isEmpty) = true := by simpa using h
  rw [State.strCommitCmd, hp, if_neg Bool.false_ne_true, if_pos h']

theorem State.strCommitCmd_accepted (hp : s.str.pending = false) (he : s.reg 0x0F000C = s.str.epoch + 1)
    (hs : s.str.staged ≠ []) : s.strCommitCmd =
      ({ s with str := { s.str with pending := true, waitFrames := 0 } }).strStatus St.ok 0 false false := by
  simp [State.strCommitCmd, hp, he, hs]

theorem State.after_strCommitCmd : s.after s.strCommitCmd = s.strCommitCmd := by
  unfold State.strCommitCmd
  repeat' split
  all_goals exact State.after_of_kept rfl rfl rfl

theorem State.after_strDiscardCmd : s.after s.strDiscardCmd = s.strDiscardCmd := State.after_of_kept rfl rfl rfl

theorem State.strDiscardCmd_eq : s.strDiscardCmd =
    ({ s with str := { s.str with staged := [], owner := none, pending := false, stalled := false } }).strStatus
      St.ok 0 (decide (s.str.staged ≠ [])) true := by
  have h : (!s.str.staged.isEmpty) = decide (s.str.staged ≠ []) := by cases s.str.staged <;> simp
  rw [State.strDiscardCmd, h]

end

/-! ### The end of a drain (R354) -/

/-- A segment on an engine took the previous epoch (R353). Device work makes no checked access (log entry 56). -/
def State.OldFlies (s : State) : Prop :=
  ∃ e ∈ s.eng.table, ∃ g, e.2.running = some g ∧ g.old = true ∧ g.device = false

theorem State.oldInFlight_iff (s : State) : s.oldInFlight = true ↔ s.OldFlies := by
  simp only [State.oldInFlight, List.any_eq_true, State.OldFlies]
  refine exists_congr fun e => and_congr_right fun _ => ?_
  cases e.2.running <;> simp

/-- DRAINING clears, and no value of the previous epoch is kept. -/
def State.endDrain (s : State) : State :=
  { s with str := { s.str with draining := false, oldRules := [], oldWins := [] } }

/-- STR_DRAIN_MAX keeps the longest drain. -/
def State.noteDrain (s : State) (ns : Nat) : State :=
  if (s.reg 0x0F0020).toNat < ns then s.setReg 0x0F0020 (BitVec.ofNat 32 ns) else s

/-- STR_CMD_STS.DONE reports the commit, unless the next one waits. -/
def State.reportDrained (s : State) : State :=
  if s.str.pending then s else s.setReg 0x0F0010 (s.reg 0x0F0010 ||| 0x80000000#32)

/-- The drain's time in the unit of STR_DRAIN_MAX. -/
def State.drainNs (s : State) : Nat := min 0xFFFFFFFF (cyclesNs (s.now - s.str.landedAt))

theorem State.strDrainEndCmd_idle {s : State} (h : s.str.draining = false ∨ s.OldFlies) : s.strDrainEndCmd = s := by
  have : (!s.str.draining || s.oldInFlight) = true := by simpa [State.oldInFlight_iff] using h
  rw [State.strDrainEndCmd, if_pos this]

theorem State.strDrainEndCmd_ends {s : State} (hd : s.str.draining = true) (hf : ¬s.OldFlies) :
    s.strDrainEndCmd = ((s.endDrain.noteDrain s.drainNs).reportDrained).raise intStr 1 := by
  have : ¬(!s.str.draining || s.oldInFlight) = true := by simpa [State.oldInFlight_iff, hd] using hf
  rw [State.strDrainEndCmd, if_neg this]
  rfl

theorem State.noteDrain_talks (s : State) (ns : Nat) : Talks s (s.noteDrain ns) := by
  unfold State.noteDrain
  split
  · exact State.setReg_talks _ _ _
  · exact Talks.refl s

theorem State.reportDrained_talks (s : State) : Talks s s.reportDrained := by
  unfold State.reportDrained
  split
  · exact Talks.refl s
  · exact State.setReg_talks _ _ _

/-- STR_DRAIN_MAX rises to the time of a longer drain. -/
theorem State.noteDrain_reg (s : State) {ns : Nat} (h : ns < 2 ^ 32) :
    ((s.noteDrain ns).reg 0x0F0020).toNat = max (s.reg 0x0F0020).toNat ns := by
  unfold State.noteDrain
  split
  next hlt =>
    have hns : (BitVec.ofNat 32 ns).toNat = ns := by simpa using Nat.mod_eq_of_lt h
    have hne : BitVec.ofNat 32 ns ≠ regReset 0x0F0020 := fun e => by
      rw [e, show regReset 0x0F0020 = 0 from rfl] at hns
      simp at hns
      omega
    rw [State.reg_setReg_same _ _ _ hne, hns, Nat.max_eq_right (Nat.le_of_lt hlt)]
  next hge => exact (Nat.max_eq_left (Nat.le_of_not_lt hge)).symm

/-- A commit that no other follows reports DONE. -/
theorem State.reportDrained_done {s : State} (h : s.str.pending = false) :
    (s.reportDrained.reg 0x0F0010).getLsbD 31 = true := by
  have hset := State.reg_setBit s 0x0F0010 31 rfl (by decide)
  rw [State.reportDrained, h, if_neg (by decide), show (0x80000000#32) = 1#32 <<< 31 from rfl, hset]
  simp

/-- Reporting the end of a drain writes STR_CMD_STS alone. -/
theorem State.reportDrained_reg (s : State) {a : Nat} (h : a ≠ 0x0F0010) : s.reportDrained.reg a = s.reg a := by
  unfold State.reportDrained
  split
  · rfl
  · exact State.reg_setReg_ne _ _ _ _ h

/-- What the end of a drain reports changes nothing of Strainer. -/
theorem State.drainEnd_talks (s : State) :
    Talks s.endDrain (((s.endDrain.noteDrain s.drainNs).reportDrained).raise intStr 1) :=
  ((State.noteDrain_talks _ _).trans (State.reportDrained_talks _)).trans
    (State.raise_reports _ intStr 1 (by decide) (by decide)).talks

/-- The drain ends: DRAINING clears and the commit is reported (R354). -/
theorem exec_strDrainEnd_ends {s : State} (hp : s.powered = true) (hd : s.str.draining = true) (hf : ¬s.OldFlies) :
    exec .strDrainEnd s =
      .next (((s.endDrain.noteDrain s.drainNs).reportDrained).raise intStr 1) := by
  rw [← State.after_of_talks (s := s) s.drainEnd_talks rfl rfl rfl, ← State.strDrainEndCmd_ends hd hf]
  exact State.whilePowered_on _ _ hp

theorem exec_strDrainEnd_idle {s : State} (hp : s.powered = true) (h : s.str.draining = false ∨ s.OldFlies) :
    exec .strDrainEnd s = .next s := by
  refine (State.whilePowered_on _ _ hp).trans ?_
  rw [State.strDrainEndCmd_idle h, State.after_self]

/-- What the end of a drain leaves: the current epoch's values, its reports, and all else as it was (R354). -/
theorem State.drainEnd_reports (s : State) :
    let u := ((s.endDrain.noteDrain s.drainNs).reportDrained).raise intStr 1
    u.str = { s.str with draining := false, oldRules := [], oldWins := [] } ∧ (u.reg intStr).getLsbD 1 = true ∧
    (s.str.pending = false → (u.reg 0x0F0010).getLsbD 31 = true) ∧
    (u.reg 0x0F0020).toNat = max (s.reg 0x0F0020).toNat s.drainNs ∧ u.keys = s.keys ∧ u.eng = s.eng := by
  intro u
  have hraise : Reports _ u := State.raise_reports _ intStr 1 (by decide) (by decide)
  have htalks : Talks s.endDrain u := s.drainEnd_talks
  refine ⟨htalks.str, State.raise_sets _ intStr 1 (by decide) (by decide), fun h => ?_, ?_, htalks.keys, htalks.eng⟩
  · have hpend : (s.endDrain.noteDrain s.drainNs).str.pending = false := by rw [(State.noteDrain_talks _ _).str]; exact h
    exact hraise.kept _ _ (State.reportDrained_done hpend)
  · have hns : s.drainNs < 2 ^ 32 := Nat.lt_of_le_of_lt (Nat.min_le_left _ _) (by decide)
    rw [hraise.regs _ (by decide), State.reportDrained_reg _ (by decide), State.noteDrain_reg _ hns]
    rfl

/-! ### Stalls (R355) -/

/-- A commit has waited 16 frames to land, and no stall is reported yet. -/
def Strainer.Stalls (t : Strainer) : Prop := t.pending = true ∧ t.stalled = false ∧ 16 ≤ t.waitFrames.toNat

theorem Strainer.stalls_iff (t : Strainer) :
    (t.pending && !t.stalled && decide (16 ≤ t.waitFrames.toNat)) = true ↔ t.Stalls := by
  simp [Strainer.Stalls, and_assoc]

/-- The stall is reported once. -/
theorem exec_strCommitStall_reports {s : State} (hp : s.powered = true) (h : s.str.Stalls) :
    Reported .strCommitStall s { s with str := { s.str with stalled := true } } intStr 2 := by
  have hraise := State.raise_reports { s with str := { s.str with stalled := true } } intStr 2 (by decide) (by decide)
  have hlog := fun u => State.logEvent_reports u 6 15 3 sevAudit (s.str.epoch.toNat + 1) 0 0
  refine ⟨_, ?_, hraise.trans (hlog _), (hlog _).kept _ _ (State.raise_sets _ intStr 2 (by decide) (by decide))⟩
  rw [← State.after_of_talks (s := s) (hraise.trans (hlog _)).talks rfl rfl rfl]
  refine (State.whilePowered_on _ _ hp).trans ?_
  rw [if_pos ((Strainer.stalls_iff _).mpr h)]

theorem exec_strCommitStall_idle {s : State} (hp : s.powered = true) (h : ¬s.str.Stalls) :
    exec .strCommitStall s = .next s := by
  refine (State.whilePowered_on _ _ hp).trans ?_
  rw [if_neg (mt (Strainer.stalls_iff _).mp h), State.after_self]

/-! ### The statement's clauses, part by part -/

/-- S's and H's commands alone reach Strainer's registers (R360). -/
theorem strainer_commands_denied {s : State} {who : Accessor} (hp : s.powered = true) (hlow : who.isSH = false) :
    ∀ i ∈ [Instr.stageRule who, .stageWin who, .strCommit who, .strDiscard who],
      exec i s = .next (s.after (s.denied who 0x0F0008)) := by
  have hdenied := State.strainer_write_denied hp hlow (a := aStrCmd) (by decide)
  intro i hi
  simp only [List.mem_cons, List.not_mem_nil, or_false] at hi
  rcases hi with rfl | rfl | rfl | rfl
  · exact hdenied fun t => t.stageRuleCmd who
  · exact hdenied fun t => t.stageWinCmd who
  · exact hdenied State.strCommitCmd
  · exact hdenied State.strDiscardCmd

theorem strainerStagingAndCommits : StrainerStagingAndCommits := by
  intro s who hp _ t status own
  have hown : who.stageOwner = own := who.stageOwner_eq
  clear_value own
  subst hown
  refine ⟨fun hlow v => ⟨State.strainer_write_denied hp hlow (by decide) _, strainer_commands_denied hp hlow⟩,
    fun hsh hcmd hflt => ⟨fun x hx => ?_, ?_⟩,
    fun h => ?_, fun hd hf => ⟨_, exec_strDrainEnd_ends hp hd hf, ?_⟩,
    fun h1 h2 h3 => exec_strCommitStall_reports hp ⟨h1, h2, h3⟩, fun h => exec_strCommitStall_idle hp ?_⟩
  · have hexec := exec_stageWrite hp hsh hcmd hx
    have hallowed := fun h ho hl hs => hexec.trans (congrArg _ (State.stage_allowed h ho hl hs))
    refine ⟨fun h => hexec.trans (congrArg _ (State.stage_pending h)),
      fun h ho => hexec.trans (congrArg _ (State.stage_other h ho)),
      fun h ho hl => hexec.trans (congrArg _ (State.stage_locked h ho hl)),
      fun h ho hl hs => hexec.trans (congrArg _ (State.stage_lockOfH h ho hl hs)),
      fun h ho hl hs hb => (hallowed h ho hl hs).trans (congrArg _ (if_pos hb)),
      fun h ho hl hs hb hv => ?_, fun h ho hl hs hb hv => ?_⟩
    · exact (hallowed h ho hl hs).trans (congrArg _ ((if_neg (ne_true_of_eq_false hb)).trans (if_pos hv)))
    · have henlist : exec (x.instr who) s = .next (s.enlist who x.entry) := by
        rw [hallowed h ho hl hs, hb, hv]
        rfl
      exact ⟨fun hn hf => henlist.trans (congrArg _ (State.enlist_full hn hf)),
        fun hn hf => henlist.trans (congrArg _ (State.enlist_new hn hf)),
        fun hy => henlist.trans (congrArg _ (State.enlist_again hy))⟩
  · have hcommit := State.strainer_write_performed hp hsh hcmd State.after_strCommitCmd
    have hdiscard := State.strainer_write_performed hp hsh hcmd State.after_strDiscardCmd
    have hclear (v : Word) := State.strainer_write_performed hp hsh hflt
      (f := fun t => t.strFltClear v) (State.after_of_kept rfl rfl rfl)
    exact ⟨fun h => hcommit.trans (congrArg _ (State.strCommitCmd_pending h)),
      fun h hmis => hcommit.trans (congrArg _ (State.strCommitCmd_mismatch h hmis)),
      fun h he hs => hcommit.trans (congrArg _ (State.strCommitCmd_accepted h he hs)),
      hdiscard.trans (congrArg _ State.strDiscardCmd_eq), hclear⟩
  · exact exec_strDrainEnd_idle hp h
  · exact State.drainEnd_reports s
  · rintro ⟨h1, h2, h3⟩
    rcases h with h | h | h
    · exact Bool.false_ne_true (h.symm.trans h1)
    · exact Bool.false_ne_true (h2.symm.trans h)
    · exact absurd h3 (Nat.not_le_of_lt h)

end Sys2Proof.Machine

/-! Proofs about Strainer's decision on one piece (R342 to R350, R353). -/

namespace Sys2Proof.Machine

/-- A range, in units of 64 B, holds the piece of a check address. -/
def Within (a : Nat) (b l : BitVec 26) : Prop := b.toNat ≤ a / 64 ∧ a / 64 ≤ l.toNat

theorem holds_iff_within (b l : BitVec 26) (a : Nat) : holds b l a = true ↔ Within a b l := by
  simp [holds, Within]

/-- A VALID window of the requester's slice, a slice at level N, in the region of the check address (R345, R346). -/
def OwnWindow (q : ReqAttr) (a : Nat) (e : Nat × Window) : Prop :=
  ∃ x, q.slice = some x ∧ q.level = .n ∧ e.1 / 8 = x.toNat ∧ e.2.valid = true ∧
    e.2.base.toNat * 64 / 0x10000000 = a / 0x10000000

/-- The window gives the requester what it needs (step 2 of R346). -/
def Window.Admits (q : ReqAttr) (need : BitVec 3) (w : Window) : Prop :=
  w.origin.getLsbD q.origin.code = true ∧ ¬(need &&& w.perm ≠ need) ∧
    (q.origin = .host → ∃ b, q.bind = some b ∧ w.pasidMask.getLsbD b.toNat = true)

/-- The rule matches the requester and the piece, and lacks a permission (step 3 of R346). -/
def RuleRefuses (q : ReqAttr) (need : BitVec 3) (a : Nat) (e : Nat × Rule) : Prop :=
  e.2.matches q = true ∧ Within a e.2.base e.2.limit ∧ need &&& e.2.perm ≠ need

/-- At most one of the requester's windows holds the piece, as R349 keeps them. -/
def WindowsApart (t : Strainer) (old : Bool) (q : ReqAttr) (a : Nat) : Prop :=
  ∀ e ∈ t.winsFor old, ∀ f ∈ t.winsFor old, OwnWindow q a e → OwnWindow q a f →
    Within a e.2.base e.2.limit → Within a f.2.base f.2.limit → e = f

/-! ### The rule of the least index -/

/-- Of two indexed rules, the one of the lower index; the first, if they share it. -/
def lowerRule (m : Option (Nat × Rule)) (e : Nat × Rule) : Option (Nat × Rule) :=
  match m with
  | none => some e
  | some x => if e.1 < x.1 then some e else m

theorem lowerRule_eq_or (m : Option (Nat × Rule)) (e : Nat × Rule) : lowerRule m e = some e ∨ lowerRule m e = m := by
  cases m with
  | none => exact .inl rfl
  | some x =>
    by_cases h : e.1 < x.1
    · exact .inl (if_pos h)
    · exact .inr (if_neg h)

theorem lowerRule_ne_none (m : Option (Nat × Rule)) (e : Nat × Rule) : lowerRule m e ≠ none := by
  intro h
  rcases lowerRule_eq_or m e with he | hm
  · exact Option.some_ne_none e (he.symm.trans h)
  · rw [hm.symm.trans h] at h
    exact Option.some_ne_none e h

theorem foldl_lowerRule_eq_none_iff (l : List (Nat × Rule)) (m : Option (Nat × Rule)) :
    l.foldl lowerRule m = none ↔ m = none ∧ l = [] := by
  induction l generalizing m with
  | nil => simp
  | cons f l ih => simp [ih, lowerRule_ne_none]

/-- An entry that is below every other is kept against each of them. -/
theorem lowerRule_some_of_lowest {e f : Nat × Rule} (h : f = e ∨ e.1 < f.1) : lowerRule (some e) f = some e := by
  have hge : ¬f.1 < e.1 := by rcases h with rfl | h <;> omega
  exact if_neg hge

/-- An entry that is below what is kept takes its place. -/
theorem lowerRule_of_lowest {e : Nat × Rule} {m : Option (Nat × Rule)} (hm : ∀ x, m = some x → x = e ∨ e.1 < x.1) :
    lowerRule m e = some e := by
  cases m with
  | none => rfl
  | some x =>
    rcases hm x rfl with rfl | h
    · exact lowerRule_some_of_lowest (.inl rfl)
    · exact if_pos h

theorem foldl_lowerRule_some_of_lowest {e : Nat × Rule} {l : List (Nat × Rule)} (hl : ∀ f ∈ l, f = e ∨ e.1 < f.1) :
    l.foldl lowerRule (some e) = some e := by
  induction l with
  | nil => rfl
  | cons f l ih =>
    obtain ⟨hf, hl⟩ := List.forall_mem_cons.mp hl
    rw [List.foldl_cons, lowerRule_some_of_lowest hf, ih hl]

/-- The lowest of a list is the one that is left. -/
theorem foldl_lowerRule_of_lowest {e : Nat × Rule} {l : List (Nat × Rule)} {m : Option (Nat × Rule)} (he : e ∈ l)
    (hl : ∀ f ∈ l, f = e ∨ e.1 < f.1) (hm : ∀ x, m = some x → x = e ∨ e.1 < x.1) :
    l.foldl lowerRule m = some e := by
  induction l generalizing m with
  | nil => exact nomatch he
  | cons f l ih =>
    obtain ⟨hf, hrest⟩ := List.forall_mem_cons.mp hl
    rw [List.foldl_cons]
    rcases List.mem_cons.mp he with rfl | he
    · rw [lowerRule_of_lowest hm, foldl_lowerRule_some_of_lowest hrest]
    · refine ih he hrest fun x hx => ?_
      rcases lowerRule_eq_or m f with h | h
      · exact Option.some.inj (h.symm.trans hx) ▸ hf
      · exact hm x (h.symm.trans hx)

/-! ### The windows -/

/-- The windows that step 2 of R346 looks at, for a slice. -/
def Strainer.ownWins (t : Strainer) (old : Bool) (x : BitVec 6) (a : Nat) : List (Nat × Window) :=
  (t.winsFor old).filter fun e => e.1 / 8 == x.toNat && e.2.valid && regionOf (e.2.base.toNat * 64) == regionOf a

theorem Strainer.mem_ownWins {t : Strainer} {old : Bool} {q : ReqAttr} {x : BitVec 6} {a : Nat} {e : Nat × Window}
    (hn : q.level = .n) (hx : q.slice = some x) : e ∈ t.ownWins old x a ↔ e ∈ t.winsFor old ∧ OwnWindow q a e := by
  simp [ownWins, OwnWindow, regionOf, hn, hx, and_assoc]

/-- The window test of the model, as a test on the window alone. -/
def Window.bars (q : ReqAttr) (need : BitVec 3) (w : Window) : Bool :=
  !w.origin.getLsbD q.origin.code ||
    (q.origin == .host && !(q.bind.any fun b => w.pasidMask.getLsbD b.toNat)) ||
    !permOk need w.perm

theorem Window.bars_eq_false_iff (q : ReqAttr) (need : BitVec 3) (w : Window) :
    w.bars q need = false ↔ w.Admits q need := by
  have hhost : (q.origin == .host && !(q.bind.any fun b => w.pasidMask.getLsbD b.toNat)) = false ↔
      (q.origin = .host → ∃ b, q.bind = some b ∧ w.pasidMask.getLsbD b.toNat = true) := by
    by_cases ho : q.origin = .host <;> cases q.bind <;> simp [ho]
  have hperm : (!permOk need w.perm) = false ↔ ¬(need &&& w.perm ≠ need) := by simp [permOk]
  rw [bars, Bool.or_eq_false_iff, Bool.or_eq_false_iff, hhost, hperm, Bool.not_eq_false', and_assoc,
    and_comm (b := ¬(need &&& w.perm ≠ need)), Admits]

section
variable {t : Strainer} {old : Bool} {q : ReqAttr} {need : BitVec 3} {a : Nat}

/-- Step 2 of R346 for level N of a slice, by what is found among its windows. -/
theorem Strainer.windowRefusal_of_slice {x : BitVec 6} (hn : q.level = .n) (hx : q.slice = some x) :
    t.windowRefusal old q need a =
      if (t.ownWins old x a).isEmpty then none
      else ((t.ownWins old x a).find? fun e => holds e.2.base e.2.limit a).elim (some ⟨1, 8 * x.toNat, 0⟩)
        fun e => if e.2.bars q need then some ⟨1, e.1, 0⟩ else none := by
  rw [windowRefusal, hn, hx]
  refine congrArg (ite ((t.ownWins old x a).isEmpty = true) Option.none) ?_
  unfold ownWins
  generalize List.find? _ _ = r
  cases r with
  | none => rfl
  | some e => cases h : q.bind <;> simp [Window.bars, h]

/-- A requester without a window of its own in the region is not refused by windows. -/
theorem Strainer.windowRefusal_of_no_own (h : ∀ e ∈ t.winsFor old, ¬OwnWindow q a e) :
    t.windowRefusal old q need a = none := by
  by_cases hc : ∃ x, q.level = .n ∧ q.slice = some x
  · obtain ⟨x, hn, hx⟩ := hc
    have hnil : t.ownWins old x a = [] := List.eq_nil_iff_forall_not_mem.mpr fun e he =>
      have ⟨hw, ho⟩ := (mem_ownWins hn hx).mp he
      h e hw ho
    rw [windowRefusal_of_slice hn hx, hnil]
    rfl
  · unfold windowRefusal
    split
    next x hn hx => exact absurd ⟨x, hn, hx⟩ hc
    next => rfl

/-- A requester with windows in the region, none of which holds the piece, is refused (R346). -/
theorem Strainer.windowRefusal_of_outside {e : Nat × Window} (he : e ∈ t.winsFor old) (ho : OwnWindow q a e)
    (hout : ∀ f ∈ t.winsFor old, OwnWindow q a f → ¬Within a f.2.base f.2.limit) :
    ∃ x, q.slice = some x ∧ t.windowRefusal old q need a = some ⟨1, 8 * x.toNat, 0⟩ := by
  have ⟨x, hx, hn, _⟩ := ho
  have hmem : e ∈ t.ownWins old x a := (mem_ownWins hn hx).mpr ⟨he, ho⟩
  have hfind : ((t.ownWins old x a).find? fun e => holds e.2.base e.2.limit a) = none :=
    List.find?_eq_none.mpr fun f hf hh => by
      obtain ⟨hw, hof⟩ := (mem_ownWins hn hx).mp hf
      exact hout f hw hof ((holds_iff_within _ _ _).mp hh)
  refine ⟨x, hx, ?_⟩
  rw [windowRefusal_of_slice hn hx, if_neg (mt List.isEmpty_iff.mp (List.ne_nil_of_mem hmem)), hfind]
  rfl

/-- The one window that holds the piece decides (R346). -/
theorem Strainer.windowRefusal_of_inside (hapart : WindowsApart t old q a) {e : Nat × Window} (he : e ∈ t.winsFor old)
    (ho : OwnWindow q a e) (hin : Within a e.2.base e.2.limit) :
    t.windowRefusal old q need a = if e.2.bars q need then some ⟨1, e.1, 0⟩ else none := by
  have ⟨x, hx, hn, _⟩ := ho
  have hmem : e ∈ t.ownWins old x a := (mem_ownWins hn hx).mpr ⟨he, ho⟩
  have hfind : ((t.ownWins old x a).find? fun e => holds e.2.base e.2.limit a) = some e := by
    obtain ⟨f, hf⟩ : ∃ f, ((t.ownWins old x a).find? fun e => holds e.2.base e.2.limit a) = some f :=
      Option.isSome_iff_exists.mp (List.find?_isSome.mpr ⟨e, hmem, (holds_iff_within _ _ _).mpr hin⟩)
    obtain ⟨hw, hof⟩ := (mem_ownWins hn hx).mp (List.mem_of_find?_eq_some hf)
    have hfin := (holds_iff_within _ _ _).mp (List.find?_some (p := fun e : Nat × Window => holds e.2.base e.2.limit a) hf)
    rw [hf, hapart f hw e he hof ho hfin hin]
  rw [windowRefusal_of_slice hn hx, if_neg (mt List.isEmpty_iff.mp (List.ne_nil_of_mem hmem)), hfind]
  rfl

/-- Windows let the piece pass exactly where the requester has none in the region, or the one that holds it admits. -/
theorem Strainer.windowRefusal_eq_none_iff (hapart : WindowsApart t old q a) : t.windowRefusal old q need a = none ↔
    (∀ e ∈ t.winsFor old, ¬OwnWindow q a e) ∨ ∃ e ∈ t.winsFor old, OwnWindow q a e ∧
      Within a e.2.base e.2.limit ∧ e.2.Admits q need := by
  constructor
  · intro h
    by_cases hin : ∃ e ∈ t.winsFor old, OwnWindow q a e ∧ Within a e.2.base e.2.limit
    · obtain ⟨e, he, ho, hin⟩ := hin
      rw [windowRefusal_of_inside hapart he ho hin] at h
      exact .inr ⟨e, he, ho, hin, (Window.bars_eq_false_iff _ _ _).mp (by simpa using h)⟩
    · refine .inl fun e he ho => ?_
      obtain ⟨x, -, hr⟩ := windowRefusal_of_outside (need := need) he ho fun f hf hof hfin => hin ⟨f, hf, hof, hfin⟩
      simp [hr] at h
  · rintro (hno | ⟨e, he, ho, hin, hadm⟩)
    · exact windowRefusal_of_no_own hno
    · simp [windowRefusal_of_inside hapart he ho hin, (Window.bars_eq_false_iff _ _ _).mpr hadm]

/-! ### The device rules -/

/-- The rules that refuse a piece (step 3 of R346). -/
def Strainer.badRules (t : Strainer) (old : Bool) (q : ReqAttr) (need : BitVec 3) (a : Nat) : List (Nat × Rule) :=
  (t.rulesFor old).filter fun e => e.2.matches q && holds e.2.base e.2.limit a && !permOk need e.2.perm

theorem Strainer.mem_badRules {e : Nat × Rule} :
    e ∈ t.badRules old q need a ↔ e ∈ t.rulesFor old ∧ RuleRefuses q need a e := by
  simp [badRules, RuleRefuses, holds_iff_within, permOk, and_assoc]

/-- Strainer reports the refusing rule of the least index. -/
theorem Strainer.ruleRefusal_eq_foldl :
    t.ruleRefusal old q need a = ((t.badRules old q need a).foldl lowerRule none).map fun e => ⟨2, e.1, e.2.tag⟩ := rfl

theorem Strainer.ruleRefusal_eq_none_iff :
    t.ruleRefusal old q need a = none ↔ ∀ e ∈ t.rulesFor old, ¬RuleRefuses q need a e := by
  rw [ruleRefusal_eq_foldl, Option.map_eq_none_iff, foldl_lowerRule_eq_none_iff, List.eq_nil_iff_forall_not_mem]
  simp [mem_badRules]

/-- The lowest-numbered refusing rule refuses (R346). -/
theorem Strainer.ruleRefusal_of_lowest {e : Nat × Rule} (he : e ∈ t.rulesFor old) (hr : RuleRefuses q need a e)
    (hlow : ∀ f ∈ t.rulesFor old, RuleRefuses q need a f → f = e ∨ e.1 < f.1) :
    t.ruleRefusal old q need a = some ⟨2, e.1, e.2.tag⟩ := by
  have hlow' : ∀ f ∈ t.badRules old q need a, f = e ∨ e.1 < f.1 := fun f hf =>
    have ⟨hmem, href⟩ := mem_badRules.mp hf
    hlow f hmem href
  rw [ruleRefusal_eq_foldl,
    foldl_lowerRule_of_lowest (mem_badRules.mpr ⟨he, hr⟩) hlow' fun _ h => absurd h.symm (Option.some_ne_none _)]
  rfl

/-! ### The decision -/

theorem Strainer.piece_baseline : t.piece old q false need a = some ⟨0, 0, 0⟩ := rfl

/-- Where the baseline gives the need, windows speak before rules. -/
theorem Strainer.piece_checked :
    t.piece old q true need a = (t.windowRefusal old q need a).or (t.ruleRefusal old q need a) := by
  cases h : t.windowRefusal old q need a <;> simp [piece, h]

theorem Strainer.piece_of_windowRefusal {r : StrRefusal} (h : t.windowRefusal old q need a = some r) :
    t.piece old q true need a = some r := by
  simp [piece_checked, h]

end

theorem strainerDecisions : StrainerDecisions := by
  intro t old q need a rules wins lacks within mine admits refuses apart
  refine ⟨Strainer.piece_baseline, fun hapart => ?_, fun e he ho hout => ?_, fun hapart e he ho hin hadm => ?_,
    fun e he hr hno hlow => ?_⟩
  · rw [Strainer.piece_checked, Option.or_eq_none_iff, Strainer.windowRefusal_eq_none_iff hapart,
      Strainer.ruleRefusal_eq_none_iff]
    rfl
  · obtain ⟨x, hx, h⟩ := Strainer.windowRefusal_of_outside he ho hout
    exact ⟨x, hx, Strainer.piece_of_windowRefusal h⟩
  · have hbars : e.2.bars q need = true :=
      Bool.not_eq_false _ ▸ fun h => hadm ((Window.bars_eq_false_iff _ _ _).mp h)
    refine Strainer.piece_of_windowRefusal ?_
    rw [Strainer.windowRefusal_of_inside hapart he ho hin, if_pos hbars]
  · rw [Strainer.piece_checked, Strainer.windowRefusal_of_no_own hno, Option.none_or]
    exact Strainer.ruleRefusal_of_lowest he hr hlow

/-- Settles O53: each staging command, drain and stall answers as its branch of the model does; and a piece is refused by the
baseline, by the one window that holds it, or by the refusing rule of the least index. -/
theorem strainerStagingAndDecisions : Obligations.StrainerStagingAndDecisions :=
  ⟨strainerStagingAndCommits, strainerDecisions⟩

end Sys2Proof.Machine

/-! Proofs about changes of mode and the end of Start-up (R440, R446, R447). -/

namespace Sys2Proof.Machine

/-! ### Changes of mode -/

theorem Reports.wmarkLock {s t : State} (h : Reports s t) : t.worlds.wmarkLock = s.worlds.wmarkLock := by
  rw [h.frame]

/-- What a change of mode writes before it reports: the mode, Tamper's lock and the source test (R393, R409, R440). -/
def State.movedTo (s : State) (m : Mode) : State :=
  { s with
    modes := { s.modes with mode := m }
    tamper := { s.tamper with
      lock := s.tamper.lock || (s.modes.mode == Mode.commissioning && m != Mode.startup), test := none } }

theorem State.setMode_reports (s : State) (m : Mode) (cause : Byte) : Reports (s.movedTo m) (s.setMode m cause) := by
  have htest : Reports (s.movedTo m) (if s.tamper.test.isSome then (s.movedTo m).raise intTmp 5 else s.movedTo m) := by
    split
    · exact State.raise_reports _ _ _ (by decide) (by decide)
    · exact Reports.refl _
  exact (htest.trans (State.raise_reports _ intMod 0 (by decide) (by decide))).trans (State.logEvent_reports ..)

section
variable (s : State) (m : Mode) (cause : Byte)

@[simp] theorem State.setMode_modes : (s.setMode m cause).modes = { s.modes with mode := m } :=
  (s.setMode_reports m cause).talks.modes
@[simp] theorem State.setMode_trivet : (s.setMode m cause).trivet = s.trivet := (s.setMode_reports m cause).talks.trivet
@[simp] theorem State.setMode_keys : (s.setMode m cause).keys = s.keys := (s.setMode_reports m cause).talks.keys
@[simp] theorem State.setMode_wmarkLock : (s.setMode m cause).worlds.wmarkLock = s.worlds.wmarkLock :=
  (s.setMode_reports m cause).wmarkLock

end

/-! ### The list of R447 -/

section
variable {s : State}

theorem State.serviceReady_iff :
    s.serviceReady = true ↔ (sparseGet Owner.absent s.trivet.owners 0).state = .live ∧ s.trivet.flags = 0 := by
  simp [State.serviceReady, State.owner]

theorem State.endMode_of_erased (hr : s.trivet.resume = 0xAA) : s.endMode = .erased := if_pos hr

theorem State.endMode_of_failure (hr : s.trivet.resume ≠ 0xAA) (h : s.modes.failed = true ∨ s.trivet.resume = 0x99) :
    s.endMode = .recovery := by
  rw [State.endMode, if_neg hr]
  split
  next => rfl
  next hf => rw [State.chosenMode, if_neg hr, if_pos (h.resolve_left hf)]

/-- Without a failure, the mode is the one that RESUME chooses. -/
theorem State.endMode_of_no_failure (hf : s.modes.failed = false) : s.endMode = s.chosenMode := by
  rw [State.endMode, hf]
  split
  next hr => rw [State.chosenMode, if_pos hr]
  next => rfl

theorem State.endMode_of_no_intent (hf : s.modes.failed = false) (hr : s.trivet.resume ≠ 0xAA)
    (h55 : s.trivet.resume ≠ 0x55) (h66 : s.trivet.resume ≠ 0x66) : s.endMode = .recovery := by
  rw [State.endMode_of_no_failure hf, State.chosenMode, if_neg hr, if_pos (And.intro h55 h66), ite_self]

theorem State.endMode_of_service (hf : s.modes.failed = false) (hr : s.trivet.resume = 0x66)
    (h : s.serviceReady = true) : s.endMode = .service := by
  simp [State.endMode_of_no_failure hf, State.chosenMode, hr, h]

theorem State.endMode_of_commissioning (hf : s.modes.failed = false)
    (h : s.trivet.resume = 0x55 ∨ (s.trivet.resume = 0x66 ∧ s.serviceReady = false)) : s.endMode = .commissioning := by
  rw [State.endMode_of_no_failure hf]
  rcases h with hr | ⟨hr, hno⟩
  · simp [State.chosenMode, hr]
  · simp [State.chosenMode, hr, hno]

/-! ### What the end of Start-up writes -/

/-- An intent is overwritten (R441). -/
theorem Trivet.setResume_of_intent {t : Trivet} (v : Byte) (h : t.resume = 0x55 ∨ t.resume = 0x66) :
    (t.setResume v).resume = v := by
  rcases h with h | h <;> simp [Trivet.setResume, h]

theorem State.finishStartup_mode : s.finishStartup.modes.mode = s.endMode := by
  simp [State.finishStartup]

theorem State.finishStartup_keys : s.finishStartup.keys = s.keys := by
  simp [State.finishStartup]

theorem State.finishStartup_wmarkLock : s.finishStartup.worlds.wmarkLock = true := by
  rw [State.finishStartup, (State.logEvent_reports ..).wmarkLock, State.setMode_wmarkLock]

/-- Entry into Erased leaves Trivet as it is (Table 16.1). -/
theorem State.finishStartup_trivet_of_erased (h : s.endMode = .erased) : s.finishStartup.trivet = s.trivet := by
  simp [State.finishStartup, h]

/-- So does entry into Recovery for a cause recorded before (Table 16.1). -/
theorem State.finishStartup_trivet_of_failure (h : s.endMode = .recovery)
    (hc : s.modes.failed = true ∨ s.trivet.resume = 0x99) : s.finishStartup.trivet = s.trivet := by
  rcases hc with hc | hc <;> simp [State.finishStartup, h, hc]

/-- Recovery for a RESUME that is no intent has the cause RESUME_INVALID (R447). -/
theorem State.finishStartup_trivet_of_no_intent (h : s.endMode = .recovery) (hf : s.modes.failed = false)
    (h99 : s.trivet.resume ≠ 0x99) :
    s.finishStartup.trivet = { s.trivet with cause := causeResumeInvalid, causeArg := 0 } := by
  have hbad : (s.trivet.resume != 0x99) = true := bne_iff_ne.mpr h99
  simp only [State.finishStartup, h, hf, hbad, State.logEvent_trivet, State.setMode_trivet]
  rfl

/-- Any other mode is written to RESUME (Table 16.1). -/
theorem State.finishStartup_trivet_of_entered (hr : s.endMode ≠ .recovery) (he : s.endMode ≠ .erased) :
    s.finishStartup.trivet = s.trivet.setResume s.endMode.code := by
  simp [State.finishStartup, hr, he]

theorem State.finishStartup_resume {m : Mode} (hm : s.endMode = m) (hr : m ≠ .recovery) (he : m ≠ .erased)
    (h : s.trivet.resume = 0x55 ∨ s.trivet.resume = 0x66) : s.finishStartup.trivet.resume = m.code := by
  subst hm
  rw [State.finishStartup_trivet_of_entered hr he, Trivet.setResume_of_intent _ h]

/-- The end of Start-up writes no field of Trivet but RESUME and the cause. -/
theorem State.finishStartup_trivet_frame :
    ∃ r c a, s.finishStartup.trivet = { s.trivet with resume := r, cause := c, causeArg := a } := by
  by_cases he : s.endMode = .erased
  · exact ⟨_, _, _, State.finishStartup_trivet_of_erased he⟩
  by_cases hr : s.endMode = .recovery
  · by_cases hc : s.modes.failed = true ∨ s.trivet.resume = 0x99
    · exact ⟨_, _, _, State.finishStartup_trivet_of_failure hr hc⟩
    · obtain ⟨hf, h99⟩ := not_or.mp hc
      exact ⟨_, _, _, State.finishStartup_trivet_of_no_intent hr ((Bool.not_eq_true _).mp hf) h99⟩
  · rw [State.finishStartup_trivet_of_entered hr he, Trivet.setResume]
    split <;> exact ⟨_, _, _, rfl⟩

theorem exec_startUpEnd_waits (h : s.startupDone = false) : exec .startUpEnd s = .next s := by
  change s.whilePowered _ = _
  simp [State.whilePowered, h]

theorem exec_startUpEnd_finishes (hp : s.powered = true) (h : s.startupDone = true) :
    exec .startUpEnd s = .next (s.after s.finishStartup) := by
  refine (State.whilePowered_next _ _ hp).trans ?_
  rw [if_pos h]

end

/-- Settles O11: each row of R447 fixes the mode that is entered, and the mode fixes what Trivet keeps. -/
theorem startUpEndsInTheModeOfR447 : Obligations.StartUpEndsInTheModeOfR447 := by
  intro s hp r owner0
  refine ⟨exec_startUpEnd_waits, fun hd => ⟨_, exec_startUpEnd_finishes hp hd, ?_⟩⟩
  simp only [State.after_modes, State.after_trivet, State.after_worlds, State.after_keys, State.finishStartup_mode]
  have hlive : s.serviceReady = true ↔ owner0.state = .live ∧ s.trivet.flags = 0 := State.serviceReady_iff
  refine ⟨fun hr => ?erased, fun hr hc => ?failure, fun hr hf h99 h55 h66 => ?noIntent, fun hf hr ho hfl => ?service,
    fun hf h => ?commissioning, State.finishStartup_wmarkLock, State.finishStartup_keys, ?flags, ?owners⟩
  case erased =>
    have hm := State.endMode_of_erased hr
    exact ⟨hm, by rw [State.finishStartup_trivet_of_erased hm]⟩
  case failure =>
    have hm := State.endMode_of_failure hr hc
    exact ⟨hm, by rw [State.finishStartup_trivet_of_failure hm hc]⟩
  case noIntent =>
    have hm := State.endMode_of_no_intent hf hr h55 h66
    rw [State.finishStartup_trivet_of_no_intent hm hf h99]
    exact ⟨hm, rfl, rfl⟩
  case service =>
    have hm := State.endMode_of_service hf hr (hlive.mpr ⟨ho, hfl⟩)
    exact ⟨hm, State.finishStartup_resume hm (by decide) (by decide) (.inr hr)⟩
  case commissioning =>
    have hno (h : owner0.state ≠ .live ∨ s.trivet.flags ≠ 0) : s.serviceReady = false := by
      refine (Bool.not_eq_true _).mp fun hs => ?_
      obtain ⟨hlv, hfl⟩ := hlive.mp hs
      exact h.elim (fun hn => hn hlv) fun hn => hn hfl
    have hm := State.endMode_of_commissioning hf (h.imp_right fun ⟨hr, ho⟩ => ⟨hr, hno ho⟩)
    exact ⟨hm, State.finishStartup_resume hm (by decide) (by decide) (h.imp_right And.left)⟩
  case flags =>
    obtain ⟨_, _, _, h⟩ := s.finishStartup_trivet_frame
    rw [h]
  case owners =>
    obtain ⟨_, _, _, h⟩ := s.finishStartup_trivet_frame
    rw [h]

end Sys2Proof.Machine
